-- ==== Sys2Proof/Word.lean ====
section
/-! DEFINITION. The word types of the E9 (R10, R73: registers and tile-memory words are 32 bits). -/

namespace Sys2Proof

/-- A register or tile-memory word (R10, R73). -/
abbrev Word := BitVec 32

/-- A byte of memory. -/
abbrev Byte := BitVec 8

/-- An instruction word (R37: instructions are 64 bits wide). -/
abbrev IWord := BitVec 64

end Sys2Proof
end

