-- ==== Sys2Proof/Operand.lean ====
section
/-! DEFINITION. The operands of the commands that are not plain numbers: who accesses a register, what a physical event
brings, what a message or a host structure holds. -/

namespace Sys2Proof

/-- Who makes a register access: the host, a Brim core, or Bonnet (R393, R243). -/
inductive Writer where
  | host
  | brim (core : Nat)
  | bonnet
  deriving DecidableEq, Repr

/-- A multiplier error in one product of an mx.mma (R158): the product of row, column and logical k comes out of its
multiplier with its significand product changed by add. -/
structure MulErr where
  row : Nat
  col : Nat
  k : Nat
  add : Int
  deriving DecidableEq, Repr

/-- The state in which a compiled line's tag and data reach the receiver (R237; DESIGN CHOICE, log entry 8). -/
inductive LineQuality where
  | good
  | tagParity
  | singleBit
  | uncorrectable
  deriving DecidableEq, Repr

/-- One direction of a network link: the router at package column gx and row y, and its output 0 x-, 1 x+, 2 y-, 3 y+,
4 ejection, 5 ring link on the H0 side, 6 ring link on the H1 side, 7 injection (CDC_XDROP0.OUT; R234). For a ring link, gx is a column of
the die and y is 0. -/
structure Link where
  gx : Nat
  y : Nat
  out : Nat
  deriving DecidableEq, Repr

/-- What a channel message is (R263 to R273). -/
inductive MsgKind where
  | record
  | pad
  | contrib
  | credit
  | accept
  | reject (sub : Nat)
  | refuse
  | close
  | drop
  deriving DecidableEq, Repr

/-- A channel message: the package index, tile and channel of the sender of the channel, the package, tile and queue of its
receiver, and what it carries: payload lines or elements, sequence, tag, words of credit. -/
structure Msg where
  kind : MsgKind
  spkg : Nat
  stile : Nat
  ch : Nat
  dpkg : Nat
  dtile : Nat
  dq : Nat
  lines : List (List Word) := []
  elems : List Nat := []
  seq : Nat := 0
  tag : Nat := 0
  words : Nat := 0
  /-- PC of the sender's command, for the fault that an answer raises at the sender (R219). -/
  pc : Nat := 0
  /-- EPOCH of the sending package (R422). -/
  epoch : Nat := 0
  deriving DecidableEq, Repr

/-- An arrival or release message of a sync tree (R362); ok is false for one that meets an uncorrectable error (R416). -/
structure TreeMsg where
  g : Nat
  seq : Nat
  payload : Nat := 0
  comb : Nat := 0
  fault : Bool := false
  pmis : Bool := false
  stop : Bool := false
  empty : Bool := false
  /-- Every member below arrived faulted: the message's COMB takes no part in the match (R62, log entry 31). -/
  nocomb : Bool := false
  /-- A message of a restart barrier, which runs over the job group's tree (R420). -/
  bar : Bool := false
  ok : Bool := true
  deriving DecidableEq, Repr

/-- A test that failed in a fitting run (R414, R415): its group and, for groups 0 to 4, the die, half, row and physical column. -/
structure FitFail where
  group : Nat
  die : Nat := 0
  half : Nat := 0
  row : Nat := 0
  col : Nat := 0
  deriving DecidableEq, Repr

/-- What a fitting run brings: the result code of the bundle's verification (0 passed, R440) and the failing tests. -/
structure FitResult where
  code : Nat := 0
  fails : List FitFail := []
  deriving DecidableEq, Repr

/-- A package's final digest as it reaches the comparing root (R427). -/
structure DigRep where
  rank : Nat
  step : Nat
  pkg : Nat
  dig : BitVec 64
  deriving DecidableEq, Repr

/-- A verdict of replica comparison (R428): 0 to 4, its STEP, and the ranks of ITG_CMPMIS. -/
structure Verdict where
  v : Nat
  step : Nat
  mis : BitVec 64
  deriving DecidableEq, Repr

/-- What a flit's payload says (R353, R268: a record travels one line per flit, so that its message is complete with its last flit). The spec lays out no
message within the 256 bytes, so the model names the content beside them (DESIGN CHOICE, log entry 87). -/
inductive FlitLoad where
  | none
  | part
  | msg (m : Msg)
  /-- An attach or decline message of a sync tree (R361), an arrival, a release (R362), a timebase message (R365): its own step handles it. -/
  | attach (g : Nat) (yes : Bool)
  | arrival (m : TreeMsg)
  | release (m : TreeMsg)
  | time (tb : Nat)
  /-- A final digest on its way to the comparing root, and a verdict to a package (R427), by the package each is bound for. -/
  | digest (dst : Nat) (r : DigRep)
  | verdict (dst : Nat) (v : Verdict)
  /-- The peer's identity: DIL_PEER_p without PVALID. -/
  | peer (w : Word)
  deriving DecidableEq, Repr

/-- A flit on a DIL link (R349, R350): the 4-byte header, the 256-byte payload and what it says, the 8-byte CRC-64; and, at the receiver, the codewords that FEC
corrected and could not correct, and the symbol errors by lane. -/
structure Flit where
  hdr : Word
  load : FlitLoad := .none
  payload : BitVec 2048 := 0
  crc : BitVec 64 := 0
  corr : Nat := 0
  uncw : Nat := 0
  serr : List (Nat × Nat) := []
  deriving DecidableEq, Repr

/-- The PCI Express function as its link trained and as the host configured it (R370): rate 1 to 6 (2.5 to 64 GT/s), lanes, FLIT mode; BAR2's size as a power of two
of GiB; ECRC generation and checking; MSI-X; payload and read request sizes as powers of two times 128 bytes; 10-bit tags, LTR, ASPM L1; the completion timeout's
range (0: default, 1 to 4: A to D) and its disable. The values without a link or after a reset of the function are those of the PCI Express specification
(PRESUMED, log entry 88). -/
structure PciCfg where
  rate : Nat := 6
  width : Nat := 16
  flit : Bool := true
  bar2Lg : Nat := 0
  ecrcGen : Bool := false
  ecrcChk : Bool := false
  msix : Bool := false
  mps : Nat := 0
  mrrs : Nat := 2
  tag10 : Bool := false
  ltr : Bool := false
  l1 : Bool := false
  ctoRange : Nat := 0
  ctoOff : Bool := false
  deriving DecidableEq, Repr

/-- What a boot stage finds (R451, R453): whether it succeeds, and if not its cause and the unit concerned; D2D lanes that fail training (die, group,
lane), stacks or ports that fail it, failed lanes of a port (port, lane), identities that the peers of ports send, the boot fittings, and the configuration that the host gives the function
once the link is up. -/
structure StageReport where
  ok : Bool := true
  cause : Nat := 0
  unit : Nat := 0
  lanes : List (Nat × Nat × Nat) := []
  bad : List Nat := []
  portLanes : List (Nat × Nat) := []
  peers : List (Nat × Word) := []
  fit : FitResult := {}
  pci : PciCfg := {}
  deriving DecidableEq, Repr

/-- An SPDM request (R447): over the sideband (MCTP) rather than DOE, the certificate slot that it names, and whether its contents are acceptable. -/
structure SpdmReq where
  mctp : Bool := false
  slot : Nat := 0
  ok : Bool := true
  deriving DecidableEq, Repr

/-- Who waits on a request to the host window (R282): the k-th hb. command in flight of a tile, a bulk mover, the snapshot, or a query's payload read. -/
inductive HostWinUser where
  | hb (t k : Nat)
  | mover (m : Nat)
  | snapshot
  | query
  deriving DecidableEq, Repr

/-- What a poisoned TLP is (R371): a write to BAR0 or BAR2, the completion of a descriptor fetch of a command or query ring, or of a host window read. -/
inductive TlpKind where
  | write
  | fetch (r : Nat)
  | read (u : HostWinUser)
  deriving DecidableEq, Repr

/-- A TLP that is discarded (R371): what it is, and whether an ECRC error is its only fault. -/
structure BadTlp where
  kind : TlpKind
  ecrc : Bool
  deriving DecidableEq, Repr

/-- A host access through BAR2 (R375): byte offset (a multiple of 4), words read, or the words written. -/
structure Bar2Req where
  off : Nat
  n : Nat := 1
  wr : Option (List Word) := none
  deriving DecidableEq, Repr

/-- A JTAG instruction (R522): IDCODE, one of the boundary-scan register, or any other. -/
inductive JtagOp where
  | idcode
  | boundary
  | other
  deriving DecidableEq, Repr

/-- Where words of a section go at a load (R483): tile memory, a tile's tables by their offset in the aperture of R505, or a register. -/
inductive PutDst where
  | mem (tile word : Nat)
  | tab (tile off : Nat)
  | reg (off : Nat)
  deriving DecidableEq, Repr

/-- n words from byte off of section sect (its directory index) go to dst, ascending. -/
structure ImgPut where
  sect : Nat
  off : Nat
  n : Nat
  dst : PutDst
  deriving DecidableEq, Repr

/-- A tile of TILEMAP (R483) with its groups (R60): PROGBASE, entry point, CDC_SEGSTATE_t, CDC_LSCCFG_t, membership of the job group, and its home group or 0. -/
structure ImgTile where
  num : Nat
  progBase : Nat := 0
  entry : Nat := 0
  seg : Word := 0
  usat : Nat := 0
  jobGroup : Bool := true
  home : Nat := 0
  deriving DecidableEq, Repr

/-- The declarations (R484): ringLines holds the most lines per cycle of a ring link and direction under 2 link + direction. -/
structure Decl where
  tpid : Nat := 0
  caps : Nat := 0
  hbms : Nat := 0
  ports : Nat := 0
  slack : Bool := false
  ringLines : List (Nat × Nat) := []
  nppr : Nat := 1
  replay : Bool := false
  cmp : Bool := false
  interval : Nat := 64
  ftz : Bool := true
  scope : Bool := false
  e7q : Bool := false
  slice : List Nat := []
  deriving DecidableEq, Repr

/-- What an image holds beyond the bytes whose layout the manual gives (log entry 43): the outcome of the certificate's and the binary's signature checks,
the bulk sections whose hash fails, the contents of the sections whose inner layout is not given, the placement block's records (each with its byte offset in the image),
the byte offset of a malformed part, and the device address of an error that meets the load's own writes. -/
structure Image where
  certCode : Nat := 0
  code : Nat := 0
  badHash : List Nat := []
  malformed : Option Nat := none
  decl : Decl := {}
  tiles : List ImgTile := []
  puts : List ImgPut := []
  objects : List (Nat × Nat) := []
  bindings : List (Nat × Nat × Nat) := []
  images : List (Nat × Word × Nat) := []
  shards : List (Nat × Option Nat) := []
  writeErr : Option Nat := none
  deriving DecidableEq, Repr

end Sys2Proof
end

