-- ==== Sys2Proof/Syntax.lean ====
section
/-! DEFINITION. The commands of the block: one constructor per row of the table of operations and events. -/

namespace Sys2Proof

/-- A command. A row of a tile names the tile (t, a logical tile number), and an instruction row carries the whole 64-bit word (R40); a write of a register
names its writer, and a command of a host ring names the ring. -/
inductive Instr where
  /-- SY_NOP (R46): The tile sequencer issues sy.nop, which does nothing. -/
  | syNop (t : Nat) (w : IWord)
  /-- SY_SYNC (R51): The tile sequencer issues sy.sync, which ends the compute phase and waits for arrival conditions. -/
  | sySync (t : Nat) (w : IWord)
  /-- SY_AT (R48): The tile sequencer issues sy.at, which holds the next instruction until PCC reaches n, or raises a late-issue fault. -/
  | syAt (t : Nat) (w : IWord)
  /-- AT_CYCLE_REACHED (R48): PCC reaches the cycle n of a pending sy.at, and the next instruction issues. -/
  | atCycleReached (t : Nat)
  /-- SY_WAIT (R45): The tile sequencer issues sy.wait, a drain point that waits on a local counter. -/
  | syWait (t : Nat) (w : IWord)
  /-- SY_SIG (R245): The tile sequencer issues sy.sig, which signals or debits a local counter. -/
  | sySig (t : Nat) (w : IWord)
  /-- SY_BR (R47): The tile sequencer issues sy.br and branches when its condition holds. -/
  | syBr (t : Nat) (w : IWord)
  /-- SY_LOOP (R39): The tile sequencer issues sy.loop, which runs its body a stated number of times from the loop buffer. -/
  | syLoop (t : Nat) (w : IWord)
  /-- SY_CPOST (R65): The tile sequencer issues sy.cpost, which appends a kernel to the Cuff queue, first running the oldest kernel if the queue is full. -/
  | syCpost (t : Nat) (w : IWord)
  /-- SY_CYIELD (R67): The tile sequencer issues sy.cyield, a Cuff yield point. -/
  | syCyield (t : Nat) (w : IWord)
  /-- SY_CRET (R532): The tile sequencer issues sy.cret, which ends a Cuff kernel and removes it from the queue. -/
  | syCret (t : Nat) (w : IWord)
  /-- SY_CDRAIN (R69): The tile sequencer issues sy.cdrain, which runs every posted Cuff kernel to completion. -/
  | syCdrain (t : Nat) (w : IWord)
  /-- SY_SRST (R47): The tile sequencer issues sy.srst, which stores SR to a tile memory word. -/
  | sySrst (t : Nat) (w : IWord)
  /-- SY_COMMIT (R98): The tile sequencer issues sy.commit, which flips the step parity, increments STEP, resets RNG positions and saves REPC, SEQ and RSEQ. -/
  | syCommit (t : Nat) (w : IWord)
  /-- SY_HALT (R59): The tile sequencer issues sy.halt, which stops issue and closes the tile's queues. -/
  | syHalt (t : Nat) (w : IWord)
  /-- DRAIN_POINT_RESUME (R45): Issue resumes after a drain point once the awaited condition holds and every synchronous engine is idle. -/
  | drainPointResume (t : Nat)
  /-- CUFF_SWITCH_IN (R67): A main-program wait or a guarded sync arrival switches the sequencer into the Cuff context. -/
  | cuffSwitchIn (t : Nat)
  /-- CUFF_RETURN (R67): At the first yield point after the main program's condition holds, the sequencer saves the kernel's position and returns to the main context. -/
  | cuffReturn (t : Nat)
  /-- CUFF_LINE_FETCH (R531): The sequencer reads the two lines of the head Cuff kernel into the Cuff line buffer in free fetch cycles. -/
  | cuffLineFetch (t : Nat)
  /-- CUFF_OVERRUN (R68): PCC reaches XGUARD before the Cuff kernel has returned with its commands drained, raising the Cuff-overrun fault. -/
  | cuffOverrun (t : Nat)
  /-- SYNC_ARRIVAL (R51): A tile arrives at its pending sync, decrementing its CTRMASK counters and entering its payload into the combining network. -/
  | syncArrival (t : Nat) (msgOk : Bool)
  /-- SYNC_RELEASE (R52): A sync group releases every member in one cycle, setting PCC, SR and PHASE. -/
  | syncRelease (g : Nat)
  /-- GUARD_END (R55): PCC reaches XGUARD and the exchange phase begins. -/
  | guardEnd (t : Nat)
  /-- EXCHANGE_PHASE_END (R55): PCC reaches max(XLEN, XGUARD), the next compute phase begins and armed slots disarm. -/
  | exchangePhaseEnd (t : Nat)
  /-- GROUP_WATCHDOG_EXPIRY (R72): A sync group stays pending past its watchdog count, and the die sets WDOGX and raises the watchdog event. -/
  | groupWatchdogExpiry (d g : Nat)
  /-- LSC_WAIT_GRANT (R247): A waiting waiter is granted on a local sync counter in the cycle update. -/
  | lscWaitGrant (t c : Nat)
  /-- ENGINE_COMMAND_COMPLETE (R135): A synchronous engine command reaches its completion cycle and signals SIGCTR if SIGEN is set. -/
  | engineCommandComplete (t eng : Nat)
  /-- YIELDING_ACCESS_GRANT (R83): A waiting yielding request is granted a free port and banks. -/
  | yieldingAccessGrant (t k : Nat)
  /-- MX_PTR (R136): mx.ptr loads one MXE pointer, resolving its handle and view. -/
  | mxPtr (t : Nat) (w : IWord)
  /-- MX_ZMAP (R137): mx.zmap reads one line into the skip register. -/
  | mxZmap (t : Nat) (w : IWord)
  /-- MX_MMA (R138): mx.mma accumulates the product of two operand panels into an accumulator block. -/
  | mxMma (t : Nat) (w : IWord) (e : Option MulErr)
  /-- MX_ZERO (R153): mx.zero clears a block and sets its checksum shadow valid. -/
  | mxZero (t : Nat) (w : IWord)
  /-- MX_LD (R154): mx.ld loads a block from tile memory with conversion. -/
  | mxLd (t : Nat) (w : IWord)
  /-- MX_ST (R155): mx.st stores a block to tile memory with conversion. -/
  | mxSt (t : Nat) (w : IWord)
  /-- MX_ACS (R156): mx.acs accumulate-stores a block into an FP32 buffer. -/
  | mxAcs (t : Nat) (w : IWord)
  /-- MX_PUSH (R157): mx.push copies a block into the finished-tile queue, or raises the queue-overrun fault. -/
  | mxPush (t : Nat) (w : IWord)
  /-- MX_CHK (R160): mx.chk compares a block with its checksum shadow and raises the ABFT fault on a mismatch. -/
  | mxChk (t : Nat) (w : IWord)
  /-- VX_PTR (R174): vx.ptr loads one VXE stream descriptor. -/
  | vxPtr (t : Nat) (w : IWord)
  /-- VX_RUN (R177): vx.run runs one element program over a matrix, with an optional row reduction. -/
  | vxRun (t : Nat) (w : IWord)
  /-- VX_SMX (R183): vx.smx computes a masked row softmax. -/
  | vxSmx (t : Nat) (w : IWord)
  /-- GT_PTR (R194): gt.ptr loads one GTE pointer. -/
  | gtPtr (t : Nat) (w : IWord)
  /-- GT_CPY (R197): gt.cpy copies lines. -/
  | gtCpy (t : Nat) (w : IWord)
  /-- GT_TR (R198): gt.tr transposes a square of elements. -/
  | gtTr (t : Nat) (w : IWord)
  /-- GT_GAT (R199): gt.gat gathers table rows named by an index line. -/
  | gtGat (t : Nat) (w : IWord)
  /-- GT_SCT (R199): gt.sct scatters rows into table rows named by an index line. -/
  | gtSct (t : Nat) (w : IWord)
  /-- GT_RND (R212): gt.rnd writes random lines from an RNG stream. -/
  | gtRnd (t : Nat) (w : IWord)
  /-- SI_PTR (R194): si.ptr loads one SIU pointer. -/
  | siPtr (t : Nat) (w : IWord)
  /-- SI_ZMAP (R202): si.zmap builds half of a zero-block skip line. -/
  | siZmap (t : Nat) (w : IWord)
  /-- SI_CMP (R203): si.cmp compacts the nonzero elements of a row with their indices and count. -/
  | siCmp (t : Nat) (w : IWord)
  /-- SI_ROUTE (R204): si.route builds per-expert token lists and counts. -/
  | siRoute (t : Nat) (w : IWord)
  /-- SG_PTR (R194): sg.ptr loads one SGC pointer. -/
  | sgPtr (t : Nat) (w : IWord)
  /-- SG_PACK (R207): sg.pack packs gradients to signs with error memory. -/
  | sgPack (t : Nat) (w : IWord)
  /-- SG_VOTE (R208): sg.vote adds signs into INT16 votes. -/
  | sgVote (t : Nat) (w : IWord)
  /-- XC_PTR (R224): xc.ptr loads one exchange pointer. -/
  | xcPtr (t : Nat) (w : IWord)
  /-- XC_SEND (R229): xc.send reads and injects n lines to a tile or multicast set, or raises a send-timing or exchange-command fault. -/
  | xcSend (t : Nat) (w : IWord)
  /-- XC_RECV (R226): xc.recv arms a receive slot for n lines from one sender. -/
  | xcRecv (t : Nat) (w : IWord)
  /-- EXCHANGE_LINE_ARRIVAL (R237): A compiled line reaches the receiving XIF, which accepts it or raises the matching fault. -/
  | exchangeLineArrival (t k : Nat) (q : LineQuality)
  /-- ROUTER_LINE_COLLISION (R235): More compiled lines want a link than it carries; the router passes one and drops the others, recording the drop. -/
  | routerLineCollision (lk : Link) (cyc : Nat)
  /-- XC_CSEND (R266): xc.csend places a record, with a pad where needed, on a ring channel against credit. -/
  | xcCsend (t : Nat) (w : IWord)
  /-- XC_CRECV (R267): xc.crecv copies the head record of a ring to tile memory and frees it. -/
  | xcCrecv (t : Nat) (w : IWord)
  /-- XC_QCLOSE (R269): xc.qclose closes a receive queue and discards its unread records. -/
  | xcQclose (t : Nat) (w : IWord)
  /-- XC_CADD (R273): xc.cadd sends one contribution to a combining queue. -/
  | xcCadd (t : Nat) (w : IWord)
  /-- XC_CREAD (R275): xc.cread reads out a complete combining slot, frees it and increments RSEQ. -/
  | xcCread (t : Nat) (w : IWord)
  /-- CHANNEL_RECORD_ARRIVAL (R268): A ring record reaches the receiving tile and is written payload first, header last. -/
  | channelRecordArrival (t q : Nat)
  /-- CONTRIBUTION_ARRIVAL (R273): A combining contribution reaches the receiver, which adds, refuses or rejects it by sequence. -/
  | contributionArrival (t q k : Nat)
  /-- CONTRIBUTION_RESEND (R273): A refused contribution is resent 256 ACLK cycles later. -/
  | contributionResend (t ch : Nat)
  /-- CONTRIBUTION_ACCEPTANCE (R265): The receiver's acceptance reaches the sender and xc.cadd completes. -/
  | contributionAcceptance (t ch : Nat)
  /-- CREDIT_RETURN (R266): A channel credit return reaches the sender and raises its credit. -/
  | creditReturn (t ch : Nat)
  /-- CLOSE_NOTICE (R269): A close notice reaches the sender and marks the channel closed. -/
  | closeNotice (t ch : Nat)
  /-- DROP_NOTICE (R269): A drop notice reaches the sender, which raises the channel-closed fault. -/
  | dropNotice (t ch : Nat)
  /-- HX_GSIG (R254): hx.gsig signals a global sync counter at the hub. -/
  | hxGsig (t : Nat) (w : IWord)
  /-- HX_GWAIT (R254): hx.gwait registers a wait on a global sync counter at the hub. -/
  | hxGwait (t : Nat) (w : IWord)
  /-- HX_GDEB (R254): hx.gdeb debits a global sync counter. -/
  | hxGdeb (t : Nat) (w : IWord)
  /-- GSC_GRANT (R253): A global counter grants a waiting agent and the grant travels to the tile. -/
  | gscGrant (n : Nat)
  /-- GSC_CMD_RST (R253): A GSC_CMD write with RST resets a global counter to INIT. -/
  | gscCmdRst (who : Writer) (n : Nat) (v : Word)
  /-- GSC_CMD_DEB (R254): A GSC_CMD write with DEB debits a global counter as the host or Brim. -/
  | gscCmdDeb (who : Writer) (n : Nat) (v : Word)
  /-- GSC_CMD_SIG (R254): A GSC_CMD write with SIG signals a global counter as the host or Brim. -/
  | gscCmdSig (who : Writer) (n : Nat) (v : Word)
  /-- HB_PTR (R290): hb.ptr loads one tile pointer of the HBM engines. -/
  | hbPtr (t : Nat) (w : IWord)
  /-- HB_DEV (R290): hb.dev loads one device register. -/
  | hbDev (t : Nat) (w : IWord)
  /-- HB_LD (R291): hb.ld starts copying lines from device memory to tile memory. -/
  | hbLd (t : Nat) (w : IWord)
  /-- HB_ST (R291): hb.st starts copying lines from tile memory to device memory. -/
  | hbSt (t : Nat) (w : IWord)
  /-- HB_COMMAND_COMPLETE (R258): An hb. command's last line is in place and it signals its counter. -/
  | hbCommandComplete (t k : Nat)
  /-- HB_COMMAND_ERROR (R292): An hb. command ends with error status, writes the die's hb. error record and raises the hb-error event. -/
  | hbCommandError (t k : Nat) (hostErr : Bool)
  /-- HX_MOVE (R295): hx.move requests a bulk mover transfer from a descriptor line. -/
  | hxMove (t : Nat) (w : IWord)
  /-- BULK_TRANSFER_COMPLETE (R258): A bulk mover transfer ends, signalling its counters or recording an error. -/
  | bulkTransferComplete (m : Nat) (hostErr : Bool)
  /-- HX_LOSS (R311): hx.loss delivers a loss sample to the loss watch, which updates its statistics or marks a spike. -/
  | hxLoss (t : Nat) (w : IWord)
  /-- HX_GATE (R309): hx.gate waits for quiescence and writes the gate word. -/
  | hxGate (t : Nat) (w : IWord)
  /-- HX_SMARK (R316): hx.smark records a commit, skip or replay outcome. -/
  | hxSmark (t : Nat) (w : IWord)
  /-- SNAPSHOT_END (R324): A snapshot stops, writes its trailer and raises the snapshot event. -/
  | snapshotEnd (hostErr : Bool)
  /-- HX_QANS (R321): hx.qans copies an answer to the host and writes the query completion. -/
  | hxQans (t : Nat) (w : IWord)
  /-- HX_DIG (R340): hx.dig adds line hashes to the package's running digest. -/
  | hxDig (t : Nat) (w : IWord)
  /-- HX_EVT (R399): hx.evt raises a software event source. -/
  | hxEvt (t : Nat) (w : IWord)
  /-- HX_IDLE (R475): hx.idle records a package slack hint. -/
  | hxIdle (t : Nat) (w : IWord)
  /-- WINDOW_CLOSE (R303): A training-watch window closes, its counts are copied and the window event raised. -/
  | windowClose
  /-- QUERY_FETCH (R319): The hub fetches a query descriptor and assigns a QID, or completes it EXPIRED. -/
  | queryFetch (r : Nat)
  /-- QUERY_DELIVERY (R320): The hub delivers the earliest-deadline head query as a ring record to the intake tile. -/
  | queryDelivery (readErr : Bool)
  /-- QUERY_EXPIRY (R320): A query still waiting for credit reaches its deadline and completes EXPIRED. -/
  | queryExpiry (r : Nat)
  /-- HBM_OTCMD_PLACE (R285): PLACE maps an object table entry onto stacks or the host window. -/
  | hbmOtcmdPlace (who : Writer) (v : Word)
  /-- HBM_OTCMD_MIGRATE (R285): MIGRATE starts copying an object to a new placement. -/
  | hbmOtcmdMigrate (who : Writer) (v : Word)
  /-- HBM_OTCMD_FREE (R285): FREE invalidates an object table entry once earlier accesses complete. -/
  | hbmOtcmdFree (who : Writer) (v : Word)
  /-- MIGRATION_SWITCH (R286): The last granule is copied and the entry switches to its new placement. -/
  | migrationSwitch
  /-- HBM_TEMP_SAMPLE (R296): A stack samples its base die temperature and sets its thermal state. -/
  | hbmTempSample (n temp : Nat)
  /-- HBM_CONTROLLER_FAULT (R297): A stack controller that has not recovered within 10 ms is marked FAILED. -/
  | hbmControllerFault (n : Nat)
  /-- SEGSTATE_WRITE (R91): A write to CDC_SEGSTATE_t starts a segment state change. -/
  | segstateWrite (who : Writer) (d t : Nat) (v : Word)
  /-- SEGMENT_STATE_DONE (R91): A segment state change completes and BUSY clears. -/
  | segmentStateDone (d : Nat)
  /-- SEGCTL_SCRUB (R92): A write of SCRUB starts zeroing the named segments. -/
  | segctlScrub (who : Writer) (d : Nat) (v : Word)
  /-- SCRUB_DONE (R92): A scrub ends and BUSY clears. -/
  | scrubDone (d : Nat)
  /-- DOORBELL_CMD_TAIL (R380): A doorbell write gives a command ring a new tail. -/
  | doorbellCmdTail (p : Nat) (v : Word)
  /-- DOORBELL_CPL_HEAD (R380): A doorbell write gives a completion ring a new head. -/
  | doorbellCplHead (p : Nat) (v : Word)
  /-- DOORBELL_QUERY_TAIL (R380): A doorbell write gives a query ring a new tail. -/
  | doorbellQueryTail (p : Nat) (v : Word)
  /-- DOORBELL_QCPL_HEAD (R380): A doorbell write gives a query completion ring a new head. -/
  | doorbellQcplHead (p : Nat) (v : Word)
  /-- DOORBELL_EVENT_HEAD (R380): A doorbell write gives the event ring a new head. -/
  | doorbellEventHead (v : Word)
  /-- RING_DISABLE (R381): Writing EN = 0 to a ring disables it and resets its pointers. -/
  | ringDisable (who : Writer) (r : Nat) (v : Word)
  /-- DESCRIPTOR_FETCH (R384): The E9 fetches a command descriptor, or stops the ring on a failed fetch. -/
  | descriptorFetch (r : Nat) (failed : Bool)
  /-- COMPLETION_ENTRY_WRITE (R383): The E9 writes a completion entry once the ring has room, then sends MSI-X. -/
  | completionEntryWrite (p : Nat)
  /-- QUERY_COMPLETION_WRITE (R392): The E9 writes a query completion entry once its ring has room. -/
  | queryCompletionWrite (r : Nat)
  /-- NOP (R386): The NOP command completes at once. -/
  | nop (r : Nat)
  /-- LOAD (R490): LOAD verifies, checks, patches and writes a binary, or refuses it. -/
  | load (r : Nat) (img : Image)
  /-- START (R58): START releases every tile of the loaded job. -/
  | start (r : Nat)
  /-- STOP (R386): STOP sets the stop request. -/
  | stop (r : Nat)
  /-- ABORT (R386): ABORT stops every tile and ends the job. -/
  | abort (r : Nat)
  /-- RESTART (R420): RESTART restores and releases the job, from PAUSED or as a replay trigger. -/
  | restart (r : Nat)
  /-- UNLOAD (R493): UNLOAD drains, closes, scrubs, resets the tile domain and clears locks. -/
  | unload (r : Nat)
  /-- COPY (R388): COPY moves lines by bulk mover. -/
  | copy (r : Nat)
  /-- SNAP (R388): SNAP copies the snapshot extents and a trailer. -/
  | snap (r : Nat)
  /-- FITTING (R414): FITTING runs the selected groups of a signed bundle. -/
  | fitting (r : Nat) (res : FitResult)
  /-- READREG (R388): READREG reads BAR0 registers and writes the values and timestamps. -/
  | readreg (r : Nat)
  /-- POWERCAP (R471): POWERCAP selects the package power cap level. -/
  | powercap (r : Nat)
  /-- JOB_END (R386): Every tile has halted and the job becomes PAUSED or ENDED, posting the job-end entry. -/
  | jobEnd
  /-- POISONED_TLP (R371): A received TLP with EP set or an ECRC error is discarded and reported. -/
  | poisonedTlp (k : BadTlp)
  /-- BAR2_ACCESS (R375): A host access through BAR2 reaches the device address space or is refused. -/
  | bar2Access (a : Bar2Req)
  /-- HOST_WINDOW_COMPLETION (R282): A host window request receives its completion, an unsuccessful one or none within the timeout. -/
  | hostWindowCompletion (u : HostWinUser) (ok : Bool)
  /-- FLR (R372): A Function Level Reset aborts and unloads the job and disables every ring. -/
  | flr
  /-- D3HOT_ENTRY (R372): A move to D3hot acts as FLR. -/
  | d3hotEntry
  /-- PERST (R478): PERST# resets the function and retrains the link. -/
  | perst
  /-- IDE_INTEGRITY_FAILURE (R373): An IDE integrity failure takes the stream out of Secure and stops host requests. -/
  | ideIntegrityFailure
  /-- PCIE_LINK_DOWN (R395): The PCI Express link goes down while the job continues. -/
  | pcieLinkDown
  /-- EVENT_CLAIM (R401): The EVC claims a pending source and writes a record to one target. -/
  | eventClaim
  /-- EVENT_RING_WRITE (R405): The host staging queue writes a record to the event ring once it has room. -/
  | eventRingWrite
  /-- EVC_BQACK (R406): A write to EVC_BQACK_c removes the head record of a Brim queue. -/
  | evcBqack (who : Writer) (c : Nat) (v : Word)
  /-- EVC_SWSET (R399): A write to EVC_SWSET makes one arrival of a software source. -/
  | evcSwset (who : Writer) (v : Word)
  /-- EVC_SOURCE_DISABLE (R407): Writing EN = 0 in EVC_SRCCFG_s clears the source's counter and pending bit. -/
  | evcSourceDisable (who : Writer) (s : Nat) (v : Word)
  /-- REPLAY_TRIGGER (R419): A replay mark or faulted mark tile triggers a replay restart or exhausts the attempts. -/
  | replayTrigger
  /-- QUIESCE_DONE (R420): In-flight work of the failed attempt has ended and the restore sets the state of R421. -/
  | quiesceDone
  /-- RESTART_BARRIER_RELEASE (R420): The restart barrier releases and every package releases its tiles at REPC. -/
  | restartBarrierRelease
  /-- BARRIER_TIMEOUT (R424): The restart barrier is not released within BTMO and the barrier-timeout event is raised. -/
  | barrierTimeout
  /-- ITG_ALARMSET (R412): A write to ITG_ALARMSET sets alarm cause SW. -/
  | itgAlarmset (who : Writer) (v : Word)
  /-- DIGEST_REPORT (R427): A package's final digest report reaches the comparing root. -/
  | digestReport (rep : DigRep)
  /-- COMPARISON_VERDICT (R428): The root forms a verdict when all live ranks are complete or 100 ms pass, and sends it. -/
  | comparisonVerdict
  /-- VERDICT_RECEIVE (R428): A package records a verdict and, if nonzero, raises the event and may set the stop request. -/
  | verdictReceive (v : Verdict)
  /-- HATBOX_PUSH (R432): A write to ITG_HBXPUSH pushes a firmware or host Hatbox record. -/
  | hatboxPush (who : Writer) (v : Word)
  /-- HATBOX_FLASH_COPY_END (R433): The Hatbox copy to flash ends and FCOPY is updated. -/
  | hatboxFlashCopyEnd (complete : Bool)
  /-- BACKGROUND_FITTING (R414): Brim firmware starts a background fitting on tiles outside the job. -/
  | backgroundFitting (tiles : List Nat) (groups : Nat)
  /-- DIL_FLIT_RECEIVE (R351): A DIL port receives a flit, checks its CRC and delivers it in order or sends NAK. -/
  | dilFlitReceive (p : Nat) (f : Flit)
  /-- DIL_RETRAIN (R352): A flit refused 16 times in a row makes the port retrain. -/
  | dilRetrain (p : Nat) (ok : Bool) (failed : Nat)
  /-- DIL_LANE_FAILURE (R366): A DIL lane fails and the port spares it, degrades to x4 or goes down. -/
  | dilLaneFailure (p l : Nat)
  /-- DIL_CTL_RETRAIN (R352): A write of RETRAIN retrains the port. -/
  | dilCtlRetrain (who : Writer) (p : Nat) (v : Word)
  /-- DIL_PORT_DISABLE (R369): A write of EN = 0 to DIL_CTL_p takes the port down. -/
  | dilPortDisable (who : Writer) (p : Nat) (v : Word)
  /-- SYNC_TREE_ATTACH_MSG (R361): An attach or decline message for a sync tree arrives on a port. -/
  | syncTreeAttachMsg (p g : Nat) (attach : Bool)
  /-- SYNC_TREE_TIMEOUT (R361): The wait sets have not formed within 1 ms and the start or restart fails. -/
  | syncTreeTimeout
  /-- SYNC_TREE_ARRIVAL_MSG (R362): A child's arrival message reaches a package and is combined. -/
  | syncTreeArrivalMsg (p : Nat) (m : TreeMsg)
  /-- SYNC_TREE_RELEASE_MSG (R362): A release message reaches a package, which forwards it and releases its members. -/
  | syncTreeReleaseMsg (p : Nat) (m : TreeMsg)
  /-- TIMEBASE_EXCHANGE (R365): Every 1 ms a package exchanges a timebase message with its time parent and adjusts its timebase. -/
  | timebaseExchange (parentTime : Nat) (rtt : Nat) (hops : Nat)
  /-- D2D_LANE_FAILURE (R20): A D2D lane fails and is spared, or its group runs at half width or carries nothing. -/
  | d2dLaneFailure (d k l : Nat)
  /-- DIE_TEMP_SAMPLE (R469): A 10 us temperature sample updates C_th. -/
  | dieTempSample (temps : List Nat)
  /-- THERMAL_INTERVAL_END (R469): A 1 ms thermal interval ends and C_th rises, holds or falls. -/
  | thermalIntervalEnd
  /-- POWER_SAMPLE (R472): A 10 us power sample above 1.15 times the cap raises C_cap. -/
  | powerSample (watts : Nat)
  /-- POWER_INTERVAL_END (R472): A 1 ms power interval ends and C_cap and the HBM limiter move. -/
  | powerIntervalEnd
  /-- ACLK_CHANGE_ARMED (R465): The voltage and idle VCO are ready and a frequency change is armed. -/
  | aclkChangeArmed
  /-- ACLK_SWITCH (R466): At a frequency point every die switches ACLK to the other VCO. -/
  | aclkSwitch
  /-- REGULATOR_TIMEOUT (R467): The regulator misses its voltage within 1 ms and the change up is abandoned. -/
  | regulatorTimeout
  /-- PACKAGE_STATE_ENTER (R476): The idle package enters the deepest allowed state. -/
  | packageStateEnter
  /-- PACKAGE_WAKE (R476): A wake cause or known event returns the package to A0. -/
  | packageWake (cause : Nat)
  /-- CRP_TIMER_EXPIRY (R475): The timebase reaches CRP_TIMER and the timer event is raised. -/
  | crpTimerExpiry
  /-- XTAL0_LOSS (R463): XTAL0 stops or drifts for 10 us and the hub cold-resets. -/
  | xtal0Loss
  /-- COLD_RESET (R478): A cold reset of the hub restores everything and boots from S0. -/
  | coldReset (cause : Nat)
  /-- WARM_RESET (R478): A warm reset of the hub restores all but the AON domain and boots from S1. -/
  | warmReset (cause : Nat)
  /-- CRP_RSTCMD (R478): A write of 0x5752 to CRP_RSTCMD requests a warm reset. -/
  | crpRstcmd (who : Writer) (v : Word)
  /-- BOOT_STAGE_ADVANCE (R451): A boot stage completes and the next begins. -/
  | bootStageAdvance (rep : StageReport)
  /-- STAGE_WATCHDOG_EXPIRY (R451): A boot stage watchdog expires, writes a journal entry and resets the hub. -/
  | stageWatchdogExpiry (u : Nat)
  /-- SUPFLT_N_FALL (R517): SUPFLT_N falls; the supply event, a Hatbox record and a flash copy follow. -/
  | supfltNFall
  /-- PGOOD_FALL (R517): PGOOD of an enabled group stays low and the E9 stops and cold-resets. -/
  | pgoodFall (g : Nat)
  /-- VERIFY (R440): The mailbox VERIFY operation checks a signed object. -/
  | verify
  /-- SIGN (R448): The mailbox SIGN operation signs a transcript with the alias key. -/
  | sign
  /-- MEASURE (R448): The mailbox MEASURE operation returns a measurement. -/
  | measure (c : Nat)
  /-- CERT (R455): The mailbox CERT operation returns part of a certificate. -/
  | cert (c : Nat)
  /-- FUSEREAD (R455): The mailbox FUSEREAD operation returns a public fuse row. -/
  | fuseread (c : Nat)
  /-- UPDATE (R443): The mailbox UPDATE operation writes a verified image into the slot not booted. -/
  | update (c : Nat) (flashOk : Bool)
  /-- SVNADV (R443): The mailbox SVNADV operation raises a component's fuse SVN. -/
  | svnadv (fuseOk : Bool)
  /-- LCADV (R449): The mailbox LCADV operation advances the lifecycle with a bound token. -/
  | lcadv (fuseOk : Bool)
  /-- JRNLCLR (R453): The mailbox JRNLCLR operation clears journalled stage failures. -/
  | jrnlclr (c : Nat)
  /-- IDEKEY (R447): The mailbox IDEKEY operation writes IDE keys to the IDE engine. -/
  | idekey
  /-- GET_VERSION (R447): The SPDM responder answers GET_VERSION. -/
  | getVersion (q : SpdmReq)
  /-- GET_CAPABILITIES (R447): The SPDM responder answers GET_CAPABILITIES. -/
  | getCapabilities (q : SpdmReq)
  /-- NEGOTIATE_ALGORITHMS (R447): The SPDM responder answers NEGOTIATE_ALGORITHMS. -/
  | negotiateAlgorithms (q : SpdmReq)
  /-- GET_DIGESTS (R447): The SPDM responder answers GET_DIGESTS. -/
  | getDigests (q : SpdmReq)
  /-- GET_CERTIFICATE (R447): The SPDM responder answers GET_CERTIFICATE for slot 0. -/
  | getCertificate (q : SpdmReq)
  /-- CHALLENGE (R447): The SPDM responder answers CHALLENGE. -/
  | challenge (q : SpdmReq)
  /-- GET_MEASUREMENTS (R447): The SPDM responder answers GET_MEASUREMENTS. -/
  | getMeasurements (q : SpdmReq)
  /-- KEY_EXCHANGE (R447): The SPDM responder answers KEY_EXCHANGE. -/
  | keyExchange (q : SpdmReq)
  /-- FINISH (R447): The SPDM responder answers FINISH. -/
  | finish (q : SpdmReq)
  /-- HEARTBEAT (R447): The SPDM responder answers HEARTBEAT. -/
  | heartbeat (q : SpdmReq)
  /-- KEY_UPDATE (R447): The SPDM responder answers KEY_UPDATE. -/
  | keyUpdate (q : SpdmReq)
  /-- END_SESSION (R447): The SPDM responder answers END_SESSION. -/
  | endSession (q : SpdmReq)
  /-- VENDOR_DEFINED_REQUEST (R447): The SPDM responder answers VENDOR_DEFINED_REQUEST. -/
  | vendorDefinedRequest (q : SpdmReq)
  /-- TDB_APERTURE_ACCESS (R506): An access through the tile debug aperture reaches the selected tile's tables or memory. -/
  | tdbApertureAccess (who : Writer) (off : Nat) (wr : Option Word)
  /-- READ_CLEAR_ACCESS (R10): A read of an RC field returns and clears it. -/
  | readClearAccess (off : Nat)
  /-- LATCHING_LO_READ (R500): A read of a _LO word latches the high word into the pair's shadow. -/
  | latchingLoRead (off : Nat)
  /-- REGISTER_WRITE (R10): A write to a register with no row of its own acts by its fields' access codes, ownership and locks. -/
  | registerWrite (who : Writer) (off : Nat) (v : Word) (be : Nat)
  /-- OBJECT_TABLE_COMMAND_DONE (R285): A PLACE or FREE command of the object table finishes, BUSY clears and the object-table event is raised. -/
  | objectTableCommandDone
  /-- BACKGROUND_FITTING_END (R414): A background fitting run finishes, powers its tiles off again, fences failing positions in flash and raises the fitting-run-complete event. -/
  | backgroundFittingEnd (res : FitResult)
  /-- AON_SUPPLY_LOSS (R517): PGOOD[0] or PGOOD[1] falls, and the AON domain is lost together with its SRAM, Hatbox and journal copy. -/
  | aonSupplyLoss
  /-- PCIE_LINK_UP (R395): The PCI Express link returns after going down, and ring traffic resumes. -/
  | pcieLinkUp
  /-- D0_TRANSITION (R476): The host moves the function back to D0, which wakes the package from a lower package state. -/
  | d0Transition
  /-- L0P_INTERVAL_END (R477): A 1 ms interval of host-link use ends, and the E9 may request a narrower L0p link width. -/
  | l0pIntervalEnd (use : Nat)
  /-- XTAL1_START (R458): XTAL1 starts running, up to 1 s after power-up, and SOSC becomes trimmed to it, setting CRP_CLKSTAT.XT1. -/
  | xtal1Start
  /-- JTAG_INSTRUCTION (R522): A tester shifts an IEEE 1149.1 instruction into the JTAG port, and the instruction acts within the limits that the lifecycle state allows. -/
  | jtagInstruction (k : JtagOp)
  /-- DOE_DISCOVERY (R370): The DOE mailbox answers a DOE discovery request with its supported protocols. -/
  | doeDiscovery (idx : Nat)
  /-- DYNAMIC_ADDRESS_ASSIGNMENT (R521): The I3C controller gives the sideband a dynamic address by SETDASA or ENTDAA. -/
  | dynamicAddressAssignment (byStatic : Bool) (static addr : Nat)
  deriving DecidableEq, Repr

end Sys2Proof
end

