-- ==== Sys2Proof/Decode.lean ====
section
/-! DEFINITION. Commands that a word spells: the table gives no row any bits, so no word spells one. -/

namespace Sys2Proof

/-- The command that a word of the table's bits spells: no row of the table gives bits (its commands come as accesses, messages and events), so there is
none. -/
def decodeTableWord (_nbits _w : Nat) : Option Instr := none

end Sys2Proof
end

