-- ==== Sys2Proof/Machine/Bits.lean ====
section
/-! DEFINITION. Bit fields NAME[msb:lsb] of a value, sparse tables keyed by a number, and small list helpers. -/

namespace Sys2Proof.Machine

/-- The field [hi:lo] of a value, as a number (the manual's NAME[msb:lsb]). -/
def fld {n : Nat} (w : BitVec n) (hi lo : Nat) : Nat := (w.toNat >>> lo) % 2 ^ (hi - lo + 1)

/-- Bit i of a value. -/
def bit {n : Nat} (w : BitVec n) (i : Nat) : Bool := w.toNat.testBit i

/-- The number of a Bool: 1 or 0. -/
def b2n (b : Bool) : Nat := if b then 1 else 0

/-- A value with its field [hi:lo] replaced by v (modulo the field's width). -/
def setFld {n : Nat} (w : BitVec n) (hi lo v : Nat) : BitVec n :=
  let m := 2 ^ (hi - lo + 1)
  BitVec.ofNat n (w.toNat - ((w.toNat >>> lo) % m) * 2 ^ lo + (v % m) * 2 ^ lo)

/-- A word made of fields: each entry is (lo, value). -/
def mkWord (fs : List (Nat × Nat)) : Word :=
  BitVec.ofNat 32 (fs.foldl (fun a f => a + f.2 * 2 ^ f.1) 0)

/-- A number of n bits read as two's complement. -/
def sint (n x : Nat) : Int := if x < 2 ^ (n - 1) then (x : Int) else (x : Int) - (2 ^ n : Nat)

/-- The two's complement code of n bits of an integer (its low n bits). -/
def uintOf (n : Nat) (x : Int) : Nat := (x % ((2 ^ n : Nat) : Int)).toNat

/-- ceil(a / b). -/
def cdiv (a b : Nat) : Nat := (a + b - 1) / b

/-- The number of bits needed to write m: 0 for 0. -/
def bitLen (m : Nat) : Nat := if m = 0 then 0 else Nat.log2 m + 1

/-- The smaller of a count and a saturation limit. -/
def satTo (lim x : Nat) : Nat := if x ≤ lim then x else lim

/-- A sparse table: entries sorted by key, an unlisted key holding the table's default. -/
abbrev SMap (α : Type) := List (Nat × α)

/-- Look a key up in a sparse table whose default is d. -/
def SMap.get {α : Type} (d : α) : SMap α → Nat → α
  | [], _ => d
  | (k, v) :: r, n => if k = n then v else SMap.get d r n

/-- Put a value under a key. -/
def SMap.put {α : Type} : SMap α → Nat → α → SMap α
  | [], n, v => [(n, v)]
  | (k, w) :: r, n, v =>
    if n < k then (n, v) :: (k, w) :: r
    else if n = k then (n, v) :: r
    else (k, w) :: SMap.put r n v

/-- Remove a key. -/
def SMap.del {α : Type} : SMap α → Nat → SMap α
  | [], _ => []
  | (k, w) :: r, n => if k = n then r else (k, w) :: SMap.del r n

/-- Put a value under a key in the canonical form: a value equal to the default is not listed. -/
def SMap.set {α : Type} [DecidableEq α] (d : α) (m : SMap α) (n : Nat) (v : α) : SMap α :=
  if v = d then m.filter fun x => x.1 != n else SMap.put m n v

/-- Update the value under a key by a function. -/
def SMap.upd {α : Type} (d : α) (m : SMap α) (k : Nat) (f : α → α) : SMap α :=
  SMap.put m k (f (SMap.get d m k))

/-- Insert a number into an ascending list without repeats. -/
def insSorted (x : Nat) : List Nat → List Nat
  | [] => [x]
  | y :: r => if x < y then x :: y :: r else if x = y then y :: r else y :: insSorted x r

/-- The least of a list of numbers, or d when it is empty. -/
def minOr (d : Nat) : List Nat → Nat
  | [] => d
  | x :: r => r.foldl (fun a b => if b < a then b else a) x

/-- The greatest of a list of numbers and d. -/
def maxOr (d : Nat) (l : List Nat) : Nat := l.foldl (fun a b => if a < b then b else a) d

/-- The n numbers 0, 1, …, n-1. -/
def upTo (n : Nat) : List Nat := List.range n

/-- The numbers of the bits set in x, below n, ascending. -/
def bitsSet (n x : Nat) : List Nat := (upTo n).filter (fun i => x.testBit i)

/-- How many of the bits below n are set in x. -/
def popCount (n x : Nat) : Nat := (bitsSet n x).length

end Sys2Proof.Machine
end

