-- ==== Sys2Proof/Machine/Memory.lean ====
section
/-! DEFINITION. Addressed memories: tile memory, hub SRAM, HBM stacks and host memory, each a sorted list of bytes.
Log entry 1: a byte that nothing has written reads as 0. -/

namespace Sys2Proof.Machine

/-- A memory: cells in strictly rising address order, none equal to the byte an unlisted address reads as. -/
abbrev Mem := List Host.Cell

/-- What an address that nothing has written reads as (log entry 1). -/
def unwritten : Byte := 0

/-- The byte at an address. -/
def Mem.byte : Mem → Nat → Byte
  | [], _ => unwritten
  | (k, v) :: r, a => if k = a then v else Mem.byte r a

/-- Store one byte, keeping the canonical form. -/
def Mem.setByte : Mem → Nat → Byte → Mem
  | [], a, v => if v = unwritten then [] else [(a, v)]
  | (k, w) :: r, a, v =>
    if a < k then (if v = unwritten then (k, w) :: r else (a, v) :: (k, w) :: r)
    else if a = k then (if v = unwritten then r else (a, v) :: r)
    else (k, w) :: Mem.setByte r a v

/-- The canonical form: addresses strictly rising, no entry equal to what an unlisted address reads as. -/
def Mem.wf : Mem → Bool
  | [] => true
  | [(_, v)] => decide (v ≠ unwritten)
  | (k, v) :: (k', v') :: r => decide (v ≠ unwritten) && decide (k < k') && Mem.wf ((k', v') :: r)

/-- n bytes from address a, ascending. -/
def Mem.bytes (m : Mem) (a n : Nat) : List Byte := (upTo n).map fun i => m.byte (a + i)

/-- Store a list of bytes from address a, ascending. -/
def Mem.setBytes : Mem → Nat → List Byte → Mem
  | m, _, [] => m
  | m, a, b :: r => Mem.setBytes (m.setByte a b) (a + 1) r

/-- A little-endian number of a list of bytes. -/
def natOfBytes : List Byte → Nat
  | [] => 0
  | b :: r => b.toNat + 256 * natOfBytes r

/-- The n low bytes of a number, least significant first. -/
def bytesOfNat : Nat → Nat → List Byte
  | 0, _ => []
  | n + 1, x => BitVec.ofNat 8 x :: bytesOfNat n (x / 256)

/-- The word w of a memory addressed in words: bytes 4w to 4w + 3, least significant first. -/
def Mem.word (m : Mem) (w : Nat) : Word := BitVec.ofNat 32 (natOfBytes (m.bytes (4 * w) 4))

/-- Store a word at a word address. -/
def Mem.setWord (m : Mem) (w : Nat) (v : Word) : Mem := m.setBytes (4 * w) (bytesOfNat 4 v.toNat)

/-- n words from word address w. -/
def Mem.words (m : Mem) (w n : Nat) : List Word := (upTo n).map fun i => m.word (w + i)

/-- Store words from word address w, ascending. -/
def Mem.setWords : Mem → Nat → List Word → Mem
  | m, _, [] => m
  | m, w, v :: r => Mem.setWords (m.setWord w v) (w + 1) r

/-- Clear the bytes of n addresses from a: they read as unwritten afterwards. -/
def Mem.clear (m : Mem) (a n : Nat) : Mem := m.filter fun c => decide (c.1 < a) || decide (a + n ≤ c.1)

/-- The words of a list of bytes, four bytes each, least significant first. -/
def wordsOfBytes : List Byte → List Word
  | a :: b :: c :: d :: r => BitVec.ofNat 32 (natOfBytes [a, b, c, d]) :: wordsOfBytes r
  | [] => []
  | l => [BitVec.ofNat 32 (natOfBytes l)]

/-- The bytes of a list of words. -/
def bytesOfWords (ws : List Word) : List Byte := ws.flatMap fun w => bytesOfNat 4 w.toNat

end Sys2Proof.Machine
end

