-- ==== Sys2Proof/Machine/Num.lean ====
section
/-! DEFINITION. Number formats, exact arithmetic, rounding and the conversions of the CVU (R100 to R128).
Formats are named by their FMT code of R94: 0 FP32, 1 FP19, 2 BF16, 3 FP16, 4 FP8-E4M3, 5 FP8-E5M2, 6 FP6-E3M2,
7 FP6-E2M3, 8 FP4-E2M1, 9 INT32, 10 INT16, 11 INT8, 12 INT4, 13 SGN1, 14 FP64. -/

namespace Sys2Proof.Machine

/-- The shape of a floating-point format (R100): exponent bits, mantissa bits, bias, and what the all-ones exponent
field holds: 0 infinity and NaN, 1 NaN only where the mantissa is all ones (FP8-E4M3), 2 normal values only. -/
structure FPar where
  eb : Nat
  mb : Nat
  bias : Nat
  top : Nat
  deriving DecidableEq, Repr

/-- What an FMT code holds. -/
inductive FKind where
  | fp (p : FPar)
  | int (w : Nat)
  | sgn
  | bad
  deriving DecidableEq, Repr

/-- The table of R94 with the shapes of R100 and R102. -/
def fkind : Nat → FKind
  | 0 => .fp ⟨8, 23, 127, 0⟩
  | 1 => .fp ⟨8, 10, 127, 0⟩
  | 2 => .fp ⟨8, 7, 127, 0⟩
  | 3 => .fp ⟨5, 10, 15, 0⟩
  | 4 => .fp ⟨4, 3, 7, 1⟩
  | 5 => .fp ⟨5, 2, 15, 0⟩
  | 6 => .fp ⟨3, 2, 3, 2⟩
  | 7 => .fp ⟨2, 3, 1, 2⟩
  | 8 => .fp ⟨2, 1, 1, 2⟩
  | 9 => .int 32
  | 10 => .int 16
  | 11 => .int 8
  | 12 => .int 4
  | 13 => .sgn
  | 14 => .fp ⟨11, 52, 1023, 0⟩
  | _ => .bad

/-- The FMT is a floating-point format. -/
def isFp (f : Nat) : Bool := match fkind f with | .fp _ => true | _ => false

/-- The FMT is an integer format. -/
def isIntFmt (f : Nat) : Bool := match fkind f with | .int _ => true | _ => false

/-- Width of an element in bits (R100, R102). -/
def fmtBits (f : Nat) : Nat :=
  match fkind f with
  | .fp p => 1 + p.eb + p.mb
  | .int w => w
  | .sgn => 1
  | .bad => 32

/-- A number, an infinity or a NaN. The finite value is (-1)^s * m * 2^e; a zero has m = 0. -/
inductive FVal where
  | nan (s : Bool)
  | inf (s : Bool)
  | fin (s : Bool) (m : Nat) (e : Int)
  deriving DecidableEq, Repr

/-- The sticky flags of CDC_NUMSTAT_t that an operation sets, and the non-finite values it counts (R114, R122). -/
structure NFlags where
  satf : Bool := false
  nanf : Bool := false
  isatf : Bool := false
  ftzf : Bool := false
  cnt : Nat := 0
  deriving DecidableEq, Repr

/-- Settings combine by OR, counts by addition (R122). -/
def NFlags.or (a b : NFlags) : NFlags :=
  { satf := a.satf || b.satf, nanf := a.nanf || b.nanf, isatf := a.isatf || b.isatf, ftzf := a.ftzf || b.ftzf,
    cnt := a.cnt + b.cnt }

/-- The fields FTZ and FTZSCOPE of CDC_NUMCFG_t (R118). -/
structure NumCfg where
  ftz : Bool := false
  scope : Bool := false
  deriving DecidableEq, Repr

/-- A format is flushed when FTZ = 1 and it lies in the scope (R118). -/
def NumCfg.flushed (c : NumCfg) (f : Nat) : Bool :=
  c.ftz && isFp f && (c.scope || f == 0 || f == 1 || f == 14)

/-- m * 2^k for k of either sign, the low bits dropped when k is negative. -/
def shiftI (m : Nat) (k : Int) : Nat := if 0 ≤ k then m * 2 ^ k.toNat else m / 2 ^ (-k).toNat

/-- m * 2^e is below m' * 2^e'. -/
def magLt (m : Nat) (e : Int) (m' : Nat) (e' : Int) : Bool :=
  let d := min e e'
  decide (m * 2 ^ (e - d).toNat < m' * 2 ^ (e' - d).toNat)

/-- The unit in the last place for p significant bits: the exponent of the leading bit less p - 1, bounded below by lo. -/
def unitExp (m : Nat) (e : Int) (p : Nat) (lo : Option Int) : Int :=
  let u := e + (bitLen m : Int) - (p : Int)
  match lo with
  | some l => max u l
  | none => u

/-- Round m * 2^e to a multiple of 2^u, to nearest, ties to even (R108); the result is in units of 2^u. -/
def rne (m : Nat) (e u : Int) : Nat :=
  if u ≤ e then m * 2 ^ (e - u).toNat
  else
    let k := (u - e).toNat
    let q := m / 2 ^ k
    let r := m % 2 ^ k
    let half := 2 ^ (k - 1)
    if half < r || (r == half && q % 2 == 1) then q + 1 else q

/-- Round m * 2^e to a multiple of 2^u with the 16-bit draw d (R110 steps 1 to 4). -/
def stoch (m : Nat) (e u : Int) (d : Nat) : Nat :=
  if u ≤ e then m * 2 ^ (e - u).toNat
  else
    let k := (u - e).toNat
    let q := m / 2 ^ k
    let r := m % 2 ^ k
    let dd := if 16 ≤ k then r / 2 ^ (k - 16) else r * 2 ^ (16 - k)
    if 65536 ≤ dd + d then q + 1 else q

/-- The exponent of the least subnormal: 1 - bias - M. -/
def FPar.emin (p : FPar) : Int := 1 - (p.bias : Int) - (p.mb : Int)

/-- The largest finite value as a significand and an exponent (R101). -/
def FPar.maxFin (p : FPar) : Nat × Int :=
  if p.top = 0 then (2 ^ (p.mb + 1) - 1, ((2 ^ p.eb : Nat) : Int) - 2 - p.bias - p.mb)
  else if p.top = 1 then (2 ^ (p.mb + 1) - 2, ((2 ^ p.eb : Nat) : Int) - 1 - p.bias - p.mb)
  else (2 ^ (p.mb + 1) - 1, ((2 ^ p.eb : Nat) : Int) - 1 - p.bias - p.mb)

/-- The code of s, n * 2^u, a value the format holds (R100). -/
def FPar.codeOf (p : FPar) (s : Bool) (n : Nat) (u : Int) : Nat :=
  let t := shiftI n (u - p.emin)
  let sg := b2n s * 2 ^ (p.eb + p.mb)
  if bitLen t ≤ p.mb then sg + t
  else
    let ef := bitLen t - p.mb
    sg + ef * 2 ^ p.mb + (t / 2 ^ (ef - 1) - 2 ^ p.mb)

/-- The code of the largest finite value with a sign. -/
def FPar.maxCode (p : FPar) (s : Bool) : Nat := p.codeOf s p.maxFin.1 p.maxFin.2

/-- The code of an infinity (formats with top = 0). -/
def FPar.infCode (p : FPar) (s : Bool) : Nat := b2n s * 2 ^ (p.eb + p.mb) + (2 ^ p.eb - 1) * 2 ^ p.mb

/-- The canonical NaN with a sign (R101). -/
def FPar.nanCode (p : FPar) (s : Bool) : Nat :=
  if p.top = 1 then b2n s * 2 ^ (p.eb + p.mb) + (2 ^ (p.eb + p.mb) - 1)
  else p.infCode s + 2 ^ (p.mb - 1)

/-- A subnormal code: exponent field 0 and a nonzero mantissa. -/
def FPar.isSub (p : FPar) (c : Nat) : Bool :=
  (c / 2 ^ p.mb) % 2 ^ p.eb == 0 && c % 2 ^ p.mb != 0

/-- The value of a floating-point code (R100). -/
def FPar.val (p : FPar) (c : Nat) : FVal :=
  let s := (c / 2 ^ (p.eb + p.mb)) % 2 == 1
  let ef := (c / 2 ^ p.mb) % 2 ^ p.eb
  let m := c % 2 ^ p.mb
  if ef = 2 ^ p.eb - 1 && p.top == 0 then (if m = 0 then .inf s else .nan s)
  else if ef = 2 ^ p.eb - 1 && p.top == 1 && m == 2 ^ p.mb - 1 then .nan s
  else if ef = 0 then .fin s m p.emin
  else .fin s (2 ^ p.mb + m) ((ef : Int) - 1 + p.emin)

/-- The value of a code of any FMT: integers are finite values, an SGN1 entry is +1 or -1 (R102, R114). -/
def valOf (f : Nat) (c : Nat) : FVal :=
  match fkind f with
  | .fp p => p.val c
  | .int w => let x := sint w (c % 2 ^ w); .fin (decide (x < 0)) x.natAbs 0
  | .sgn => .fin (c % 2 == 1) 1 0
  | .bad => .fin false 0 0

/-- The code is a subnormal of the format. -/
def subnormalCode (f c : Nat) : Bool := match fkind f with | .fp p => p.isSub c | _ => false

/-- The code is NaN or infinite. -/
def nonFinite (f c : Nat) : Bool :=
  match valOf f c with
  | .fin _ _ _ => false
  | _ => true

/-- The sign bit of a value. -/
def FVal.sign : FVal → Bool
  | .nan s => s
  | .inf s => s
  | .fin s _ _ => s

/-- The value is a zero. -/
def FVal.isZero : FVal → Bool
  | .fin _ m _ => m == 0
  | _ => false

/-- A value with another sign. -/
def FVal.withSign (s : Bool) : FVal → FVal
  | .nan _ => .nan s
  | .inf _ => .inf s
  | .fin _ m e => .fin s m e

/-- The value with its sign inverted. -/
def FVal.neg (v : FVal) : FVal := v.withSign (!v.sign)

/-- A signed significand at a given exponent. -/
def sig (s : Bool) (m : Nat) : Int := if s then -(m : Int) else (m : Int)

/-- The exact sum of two values under R106: NaN for a NaN operand or infinities of opposite sign; an exact zero sum
of operands of opposite sign is +0, and -0 + -0 is -0. -/
def FVal.add : FVal → FVal → FVal
  | .nan _, _ => .nan false
  | _, .nan _ => .nan false
  | .inf a, .inf b => if a = b then .inf a else .nan false
  | .inf a, _ => .inf a
  | _, .inf b => .inf b
  | .fin a m e, .fin b n f =>
    let d := min e f
    let x := sig a m * ((2 ^ (e - d).toNat : Nat) : Int) + sig b n * ((2 ^ (f - d).toNat : Nat) : Int)
    if x = 0 then .fin (a && b) 0 d else .fin (decide (x < 0)) x.natAbs d

/-- The exact product of two values under R106: NaN for a NaN operand or infinity times zero. -/
def FVal.mul : FVal → FVal → FVal
  | .nan _, _ => .nan false
  | _, .nan _ => .nan false
  | .inf a, .inf b => .inf (a != b)
  | .inf a, .fin b n _ => if n = 0 then .nan false else .inf (a != b)
  | .fin a m _, .inf b => if m = 0 then .nan false else .inf (a != b)
  | .fin a m e, .fin b n f => .fin (a != b) (m * n) (e + f)

/-- The exact difference. -/
def FVal.sub (a b : FVal) : FVal := match b with
  | .nan _ => .nan false
  | _ => a.add b.neg

/-- a < b for two values; false when either is NaN (R172). -/
def FVal.lt : FVal → FVal → Bool
  | .nan _, _ => false
  | _, .nan _ => false
  | .inf a, .inf b => a && !b
  | .inf a, .fin _ _ _ => a
  | .fin _ _ _, .inf b => !b
  | .fin a m e, .fin b n f =>
    let d := min e f
    decide (sig a m * ((2 ^ (e - d).toNat : Nat) : Int) < sig b n * ((2 ^ (f - d).toNat : Nat) : Int))

/-- a = b for two values; false when either is NaN, and -0 equals +0 (R172). -/
def FVal.eqv (a b : FVal) : Bool :=
  match a, b with
  | .nan _, _ => false
  | _, .nan _ => false
  | _, _ => !(a.lt b) && !(b.lt a)

/-- |x| is at least the largest finite value plus half a unit in its last place (R108). -/
def FPar.overflowRne (p : FPar) (m : Nat) (e : Int) : Bool :=
  !(magLt m e (2 * p.maxFin.1 + 1) (p.maxFin.2 - 1))

/-- |x| is greater than the largest finite value (R112). -/
def FPar.overflowStoch (p : FPar) (m : Nat) (e : Int) : Bool := magLt p.maxFin.1 p.maxFin.2 m e

/-- The value n * 2^u lies below the smallest normal and the test value of R113 is subnormal or zero. -/
def FPar.belowNormal (p : FPar) (n : Nat) (u : Int) : Bool := magLt n u 1 (1 - (p.bias : Int))

/-- Round a value to a floating-point format (R108, R110), flushing under R113 and R119, with the outcomes of R114
for NaN, infinity and overflow. The draw is given for stochastic rounding. NaN keeps its sign here (R114). -/
def FPar.round (p : FPar) (flush : Bool) (draw : Option Nat) (v : FVal) : Nat × NFlags :=
  match v with
  | .nan s =>
    if p.top = 2 then (p.maxCode s, { nanf := true, cnt := 1 }) else (p.nanCode s, { cnt := 1 })
  | .inf s =>
    if p.top = 0 then (p.infCode s, { cnt := 1 }) else (p.maxCode s, { satf := true, cnt := 1 })
  | .fin s m e =>
    if m = 0 then (p.codeOf s 0 p.emin, {})
    else
      let ovr := match draw with | none => p.overflowRne m e | some _ => p.overflowStoch m e
      if ovr then
        if p.top = 0 then (p.infCode s, { cnt := 1 }) else (p.maxCode s, { satf := true })
      else
        let u := unitExp m e (p.mb + 1) (some p.emin)
        let n := match draw with | none => rne m e u | some d => stoch m e u d
        let t : Nat × Int := match draw with
          | none => let w := unitExp m e (p.mb + 1) none; (rne m e w, w)
          | some _ => (n, u)
        if flush && p.belowNormal t.1 t.2 then (p.codeOf s 0 p.emin, { ftzf := true })
        else if magLt p.maxFin.1 p.maxFin.2 n u then (p.maxCode s, {})
        else (p.codeOf s n u, {})

/-- Round an exact integer-valued or real value to an integer format of w bits; out of range saturates with ISATF (R114): after rounding to nearest, or, under
stochastic rounding, where the magnitude itself is above the largest (R112). -/
def roundInt (w : Nat) (draw : Option Nat) (v : FVal) : Nat × NFlags :=
  let lim := fun (s : Bool) => if s then 2 ^ (w - 1) else 2 ^ (w - 1) - 1
  let code := fun (s : Bool) (n : Nat) => uintOf w (sig s n)
  match v with
  | .nan _ => (0, { nanf := true, cnt := 1 })
  | .inf s => (code s (lim s), { isatf := true, cnt := 1 })
  | .fin s m e =>
    let n := match draw with | none => rne m e 0 | some d => stoch m e 0 d
    let past := match draw with | none => decide (lim s < n) | some _ => magLt (lim s) 0 m e
    if past then (code s (lim s), { isatf := true }) else (code s n, {})

/-- R115: an integer narrowed or widened to w bits under the overflow field IOV. -/
def intNarrow (w : Nat) (iov : Bool) (x : Int) : Nat × NFlags :=
  let lo : Int := -((2 ^ (w - 1) : Nat) : Int)
  let hi : Int := ((2 ^ (w - 1) : Nat) : Int) - 1
  if iov then (uintOf w x, {})
  else if x < lo then (uintOf w lo, { isatf := true })
  else if hi < x then (uintOf w hi, { isatf := true })
  else (uintOf w x, {})

/-- R109: the conversion from src to dst belongs to a class that stochastic rounding applies to. -/
def srClass (src dst : Nat) : Bool :=
  match fkind src, fkind dst with
  | .fp a, .fp b => decide (b.mb < a.mb) || decide (b.eb < a.eb)
  | .fp _, .int _ => true
  | .int w, .fp b => decide (b.mb + 1 < w - 1) || magLt b.maxFin.1 b.maxFin.2 (2 ^ (w - 1)) 0
  | _, _ => false

/-- The conversion of R113 to R116 on one element. `draw` is the element's 16-bit draw when stochastic rounding
applies; `iov` is the command's integer overflow field. Equal formats pass unchanged (R113). -/
def convert (nc : NumCfg) (src dst : Nat) (draw : Option Nat) (iov : Bool) (code : Nat) : Nat × NFlags :=
  if src = dst then (code, {})
  else
    let fl := nc.flushed src && subnormalCode src code
    let v0 := valOf src code
    let v : FVal := if fl then .fin v0.sign 0 0 else v0
    let f0 : NFlags := { ftzf := fl }
    match fkind dst with
    | .fp p =>
      let r := p.round (nc.flushed dst) draw v
      (r.1, f0.or r.2)
    | .int w =>
      match fkind src with
      | .int sw =>
        let r := intNarrow w iov (sint sw (code % 2 ^ sw))
        (r.1, f0.or r.2)
      | _ =>
        let r := roundInt w draw v
        (r.1, f0.or r.2)
    | .sgn =>
      let f1 : NFlags := match v with
        | .nan _ => { nanf := true, cnt := 1 }
        | .inf _ => { cnt := 1 }
        | _ => {}
      (b2n v.sign, f0.or f1)
    | .bad => (code, {})

/-- An operand of a floating-point operation: a subnormal of a flushed format reads as zero of its sign (R119). -/
def operand (nc : NumCfg) (f code : Nat) : FVal × NFlags :=
  if nc.flushed f && subnormalCode f code then (.fin (valOf f code).sign 0 0, { ftzf := true }) else (valOf f code, {})

/-- The code that an operation which only moves an operand delivers: a subnormal of a flushed format is read as zero of its sign (R119). -/
def moved (nc : NumCfg) (f code : Nat) : Nat × NFlags :=
  if nc.flushed f && subnormalCode f code then (code / 2 ^ (fmtBits f - 1) % 2 * 2 ^ (fmtBits f - 1), { ftzf := true }) else (code, {})

/-- The result of an arithmetic operation in format f: one rounding to nearest even, canonical NaN of sign 0, flushing
under R119. Only the flag FTZF can be set: non-finite results are counted where they are written (R106, R187). -/
def arith (nc : NumCfg) (f : Nat) (v : FVal) : Nat × NFlags :=
  match fkind f with
  | .fp p =>
    match v with
    | .nan _ => (p.nanCode false, {})
    | _ => let r := p.round (nc.flushed f) none v; (r.1, { ftzf := r.2.ftzf })
  | _ => (0, {})

/-- An operation of two operands in format f with its flags. -/
def arith2 (nc : NumCfg) (f : Nat) (op : FVal → FVal → FVal) (a b : Nat) : Nat × NFlags :=
  let x := operand nc f a
  let y := operand nc f b
  let r := arith nc f (op x.1 y.1)
  (r.1, (x.2.or y.2).or r.2)

/-- Addition in format f (R106). -/
def fAdd (nc : NumCfg) (f a b : Nat) : Nat × NFlags := arith2 nc f FVal.add a b

/-- Subtraction in format f (R106). -/
def fSub (nc : NumCfg) (f a b : Nat) : Nat × NFlags := arith2 nc f FVal.sub a b

/-- Multiplication in format f (R106). -/
def fMul (nc : NumCfg) (f a b : Nat) : Nat × NFlags := arith2 nc f FVal.mul a b

/-- Fused multiply-add in format f with one rounding (R106). -/
def fFma (nc : NumCfg) (f a b c : Nat) : Nat × NFlags :=
  let x := operand nc f a
  let y := operand nc f b
  let z := operand nc f c
  let r := arith nc f ((x.1.mul y.1).add z.1)
  (r.1, ((x.2.or y.2).or z.2).or r.2)

/-- The sign bit of a code inverted (R106: negation acts on the sign only). -/
def fNeg (f c : Nat) : Nat :=
  let k := fmtBits f - 1
  if (c / 2 ^ k) % 2 = 1 then c - 2 ^ k else c + 2 ^ k

/-- The code with sign 0. -/
def fAbs (f c : Nat) : Nat := c % 2 ^ (fmtBits f - 1)

/-- min and max of R172: NaN if either operand is NaN; -0 lies below +0. -/
def fMinMax (isMax : Bool) (x y : FVal) : FVal :=
  match x, y with
  | .nan _, _ => .nan false
  | _, .nan _ => .nan false
  | _, _ =>
    if x.isZero && y.isZero then (if isMax then x.withSign (x.sign && y.sign) else x.withSign (x.sign || y.sign))
    else if isMax then (if x.lt y then y else x)
    else (if y.lt x then y else x)

/-- A compensated pair from an exact value: the high part rounded to FP32, the lining the rounded remainder; a
non-finite high part has a lining of +0 (R124, R125, R145). -/
def pairOf (nc : NumCfg) (v : FVal) : (Nat × Nat) × NFlags :=
  let h := arith nc 0 v
  match valOf 0 h.1 with
  | .fin s m e =>
    let l := arith nc 0 (v.add (.fin (!s) m e))
    ((h.1, l.1), h.2.or l.2)
  | _ => ((h.1, 0), h.2)

/-- FP64 to a pair (R126): the high part converted to FP32, so that a NaN keeps its sign and a non-finite result counts (R114, R117), and the rounded difference. -/
def pairFrom64 (nc : NumCfg) (code : Nat) : (Nat × Nat) × NFlags :=
  let h := convert nc 14 0 none false code
  match valOf 0 h.1, (operand nc 14 code).1 with
  | .fin s m e, v =>
    let l := arith nc 0 (v.add (.fin (!s) m e))
    ((h.1, l.1), h.2.or l.2)
  | _, _ => ((h.1, 0), h.2)

/-- The exact value of a pair (R124); a non-finite high part is the value (R125). -/
def pairVal (nc : NumCfg) (hi lo : Nat) : FVal × NFlags :=
  let h := operand nc 0 hi
  let l := operand nc 0 lo
  match h.1 with
  | .fin _ _ _ => (h.1.add l.1, h.2.or l.2)
  | v => (v, h.2)

/-- A pair to a single floating-point format (R126): its value rounded, a NaN with its sign and a non-finite value counted (R114). -/
def pairTo (nc : NumCfg) (f hi lo : Nat) : Nat × NFlags :=
  let v := pairVal nc hi lo
  match fkind f with
  | .fp p => let r := p.round (nc.flushed f) none v.1; (r.1, v.2.or r.2)
  | _ => (0, v.2)

/-- The code of 1.0 in a floating-point format. -/
def oneOf (f : Nat) : Nat := match fkind f with | .fp p => p.bias * 2 ^ p.mb | _ => 1

/-- R127: the BF16 parts of an FP32 value: the high part rounded to nearest even, the largest finite value where that
would overflow, and the low part; a part that is flushed sets FTZF (R119). -/
def bf16Split (nc : NumCfg) (a : FVal) : (FVal × FVal) × NFlags :=
  let p : FPar := ⟨8, 7, 127, 0⟩
  match a with
  | .fin s m e =>
    let hc := if p.overflowRne m e then (p.maxCode s, {}) else p.round (nc.flushed 2) none a
    let h := p.val hc.1
    let lo := p.round (nc.flushed 2) none (a.add h.neg)
    ((h, p.val lo.1), { ftzf := hc.2.ftzf || lo.2.ftzf })
  | v => ((v, .fin false 0 0), {})

/-- R127, R128: the BF16x3 product of two FP32 values, its three terms summed exactly; the FP32 product itself where an
operand is not finite. -/
def bf16x3 (nc : NumCfg) (a b : FVal) : FVal :=
  match a, b with
  | .fin _ _ _, .fin _ _ _ =>
    let x := (bf16Split nc a).1
    let y := (bf16Split nc b).1
    ((x.1.mul y.1).add (x.1.mul y.2)).add (x.2.mul y.1)
  | _, _ => a.mul b

/-! ## Packing (R103, R105) -/

/-- Elements per 32-bit word: k of R103. FP64 takes two words and is given 0 here. -/
def perWord (f : Nat) : Nat :=
  match f with
  | 0 | 1 | 9 => 1
  | 2 | 3 | 10 => 2
  | 4 | 5 | 11 => 4
  | 6 | 7 => 5
  | 8 | 12 => 8
  | 13 => 32
  | _ => 0

/-- Elements per line of eight words (R105). -/
def perLine (f : Nat) : Nat := if f = 14 then 4 else 8 * perWord f

/-- Element i of a line held as eight words. -/
def lineElem (f : Nat) (ln : List Word) (i : Nat) : Nat :=
  if f = 14 then (ln.getD (2 * i) 0).toNat + (ln.getD (2 * i + 1) 0).toNat * 2 ^ 32
  else
    let k := perWord f
    let w := (ln.getD (i / k) 0).toNat
    if f = 1 then w / 2 ^ 13
    else (w / 2 ^ (fmtBits f * (i % k))) % 2 ^ fmtBits f

/-- A line packed from its elements in ascending order; missing elements and unused bits are 0. -/
def packLine (f : Nat) (es : List Nat) : List Word :=
  if f = 14 then
    (upTo 8).map fun j => BitVec.ofNat 32 (if j % 2 = 0 then es.getD (j / 2) 0 else es.getD (j / 2) 0 / 2 ^ 32)
  else
    let k := perWord f
    (upTo 8).map fun j =>
      if f = 1 then BitVec.ofNat 32 (es.getD j 0 * 2 ^ 13)
      else BitVec.ofNat 32 ((upTo k).foldl (fun a x => a + (es.getD (k * j + x) 0 % 2 ^ fmtBits f) * 2 ^ (fmtBits f * x)) 0)

end Sys2Proof.Machine
end

