-- ==== Sys2Proof/Machine/TileState.lean ====
section
/-! DEFINITION. The state of one tile: sequencer, memory, engines, counters, channels and fault record. -/

namespace Sys2Proof.Machine

/-- A pointer: the place that its .ptr command resolved, and a line offset (R95, R136). -/
structure Ptr where
  handle : Nat := 0
  /-- The handle's entry as it stood at the issue of the .ptr command; VALID = 0 until one is loaded. -/
  entry : BitVec 64 := 0
  /-- First word address of the place. -/
  base : Nat := 0
  /-- The next view of a handle with PAIR = 0 was asked for (R86 view fault at every access). -/
  viewBad : Bool := false
  /-- Line offset, 15 bits. -/
  loff : Nat := 0
  deriving DecidableEq, Repr

/-- A VXE stream descriptor (R174). KIND 3 is absent. -/
structure VStream where
  kind : Nat := 3
  ptr : Ptr := {}
  pr : Bool := false
  itype : Bool := false
  blk : Nat := 0
  bcast : Bool := false
  deriving DecidableEq, Repr

/-- The value of this manual at a pad point of R239: a latency in ACLK cycles; of points 3 and 4 what lies beyond the 4 cycles of a slot. -/
def tpValue (k : Nat) : Nat := [8, 6, 12, 0, 0, 8, 2, 7].getD k 0

/-- What of the package a tile's engines read: the tile's number, ID_CAP, and the die's CDC_RNGKEY words. -/
structure Env where
  num : Nat := 0
  caps : Word := 0
  k0 : Word := 0
  k1 : Word := 0
  deriving DecidableEq, Repr

/-- By how much the latency of a die at each pad point differs from the value of this manual (R239). -/
abbrev Pads := List Int

/-- The latency at a pad point. -/
def Pads.latency (p : Pads) (k : Nat) : Nat := (tpValue k + p.getD k 0).toNat

/-- A command in an engine's queue, with what its issue fixed: cycle, PC, context, kernel argument, parity, pointer; and
the latencies of its die. -/
structure QCmd where
  w : IWord
  pc : Nat := 0
  cyc : Nat := 0
  cuff : Bool := false
  arg : Nat := 255
  p : Bool := false
  ptr : Ptr := {}
  err : Option MulErr := none
  pads : Pads := []
  deriving DecidableEq, Repr

/-- Who makes an access: engine, PC of the command, port and the user of port 7. -/
structure Who where
  eng : Nat := 0
  pc : Nat := 0
  port : Nat := 7
  user : Nat := 0
  deriving DecidableEq, Repr

/-- What a command does in a cycle. A key names a line that the command holds, an output one of its results. -/
inductive Eff where
  /-- A scheduled read of n words at word offset off of a place. -/
  | rd (p : Ptr) (off n key : Nat)
  /-- A scheduled write of n words, an output, at word offset off of a place. -/
  | wr (p : Ptr) (off n out : Nat)
  /-- An accumulate-store of one line, an output (R80). -/
  | acs (p : Ptr) (off out : Nat)
  /-- Line m of the table row that index u of gt.gat or gt.sct names: read, or written (R199). -/
  | row (wr : Bool) (p : Ptr) (u m key : Nat)
  /-- A part of the command's work that takes no port. -/
  | calc (k : Nat)
  /-- A read of a program line by the TSQ (R38). -/
  | fetch (line : Nat)
  /-- A read of one word by the TSQ (R50). -/
  | look (a : Nat)
  /-- A store of one word by the TSQ (R47). -/
  | stash (a : Nat) (v : Word)
  /-- A receive write of the XIF at word offset off of a slot's place (R233), with DATA0 of its line (R238). -/
  | recv (p : Ptr) (off d0 : Nat) (ws : List Word)
  /-- Words that a yielding user stores. -/
  | poke (a : Nat) (ws : List Word)
  /-- sy.commit's effect on what a cycle finds: the streams' positions and NFSTEP (R213, R305). -/
  | commit
  deriving DecidableEq, Repr

/-- An effect in a cycle, of a command by its key among those in flight. -/
structure Act where
  cyc : Nat
  cmd : Nat := 0
  who : Who := {}
  eff : Eff
  deriving DecidableEq, Repr

/-- A command in execution: what its leave cycle fixed, its places and streams as they were then, and the lines and values that it holds. -/
structure Flow where
  q : QCmd := { w := 0 }
  env : Env := {}
  l : Nat := 0
  ps : List Ptr := []
  vs : List VStream := []
  lines : SMap (List Word) := []
  vals : SMap (List Nat) := []
  deriving DecidableEq, Repr

/-- A command that has left its queue and not yet completed: completion cycle and the counter it signals. -/
structure Running where
  done : Nat
  sig : Option Nat := none
  deriving DecidableEq, Repr

/-- One engine's queue: commands that have not left, leave cycles of those that have, the accept cycles of its units,
the last output write, and the commands still running. -/
structure EngQ where
  waiting : List QCmd := []
  leaves : List Nat := []
  accept : Nat := 0
  accept2 : Nat := 0
  lastWrite : Nat := 0
  /-- The latest completion cycle of any command so far. -/
  lastDone : Nat := 0
  running : List Running := []
  deriving DecidableEq, Repr

/-- A scheduled access of a cycle (R81): what it occupies, and whom a fault would name. -/
structure Sched where
  cyc : Nat
  port : Nat
  /-- User of port 7: 0 TSQ fetch, 1 GTE, 2 SIU, 3 SGC (R82, R220). -/
  user : Nat := 0
  eng : Nat := 0
  pc : Nat := 0
  /-- First bank and number of banks (1 or 8). -/
  bank : Nat := 0
  nb : Nat := 8
  /-- The second cycle of an accumulate-store. -/
  hold : Bool := false
  /-- A granted access of a yielding user, which meets no scheduled one (R83). -/
  yields : Bool := false
  deriving DecidableEq, Repr

/-- A block's checksum shadow (R159): predictions and magnitudes of columns and rows, VALID and the integer mark. -/
structure Shadow where
  pc : List Nat := []
  pr : List Nat := []
  mc : List Nat := []
  mr : List Nat := []
  valid : Bool := false
  imark : Bool := false
  deriving DecidableEq, Repr

/-- The MXE's registers (R129): accumulator file (element 256 b + 16 i + j), skip register, shadows, drain buffer, and
the finished-tile queue, whose entries are blocks 4 to 7 in a ring (R132). -/
structure Mxe where
  acc : SMap Word := []
  skip : BitVec 256 := 0
  shadow : SMap Shadow := []
  drainBuf : List Word := []
  e7head : Nat := 0
  e7cnt : Nat := 0
  deriving DecidableEq, Repr

/-- An element program (R167). -/
structure EProg where
  len : Nat := 0
  ops : List Word := []
  consts : List (BitVec 64) := []
  deriving DecidableEq, Repr

/-- PHASE of the TSQ (R36 table of sequencer state): 0 compute, 1 arrived at a sync, 2 guard, 3 exchange. -/
inductive Phase where
  | compute | arrived | guard | exchange
  deriving DecidableEq, Repr

/-- What keeps the next instruction of a context from issuing. -/
inductive Hold where
  /-- Nothing: the instruction issues at the tile's next issue cycle. -/
  | none
  /-- sy.at: the next instruction waits for PCC to reach n (R48). -/
  | untilPcc (n : Nat)
  /-- sy.wait, issued in cycle c: waiting on a local counter (R45). -/
  | wait (ctr c : Nat)
  /-- A drain point whose awaited condition has held since cycle c: waiting for every synchronous engine to be idle (R45). -/
  | drain (c : Nat)
  /-- The blocking channel operation at PC holds at issue since cycle c (R265). -/
  | chan (c : Nat)
  /-- A stall on a full hb., hx. or channel queue (R44). -/
  | stall (eng : Nat)
  deriving DecidableEq, Repr

/-- A sequencer context: PC, what holds its issue, and the program lines it has read, by line address, each with the cycle of its read (R38, R531). -/
structure Ctx where
  pc : BitVec 17 := 0
  hold : Hold := .none
  lines : SMap (Nat × List Word) := []
  deriving DecidableEq, Repr

/-- The hardware loop (R39): first and last instruction of the body, passes left after this one, whether this is the
first pass, and the words the first pass read. -/
structure Loop where
  first : Nat
  last : Nat
  left : Nat
  pass1 : Bool
  buf : SMap IWord
  deriving DecidableEq, Repr

/-- A posted Cuff kernel (R65): entry, argument handle, saved position. -/
structure Kernel where
  entry : BitVec 17
  arg : Nat
  pos : BitVec 17
  deriving DecidableEq, Repr

/-- The kernel run in progress (R532): none; in the Cuff context; in the main context for a sy.cpost on a full queue,
which then appends its own kernel; in the main context for sy.cdrain. -/
inductive CuffMode where
  | off
  | ctx
  | post (k : Kernel)
  | drainAll
  deriving DecidableEq, Repr

/-- A sync that the tile has issued and that has not released (R49 to R52). -/
structure PendSync where
  desc : Nat
  gsel : Bool
  group : Nat
  xguard : Nat
  xlen : Nat
  mask : Nat
  comb : Nat
  payload : Nat
  pc : Nat
  cyc : Nat
  arrived : Bool
  deriving DecidableEq, Repr

/-- The tile sequencer. -/
structure Tsq where
  inJob : Bool := false
  started : Bool := false
  halted : Bool := false
  progBase : BitVec 18 := 0
  /-- Member of the job group; home group (0 none) (R60). -/
  jobGroup : Bool := false
  home : Nat := 0
  entryPc : BitVec 17 := 0
  main : Ctx := {}
  cuff : Ctx := {}
  mode : CuffMode := .off
  /-- In the Cuff context: the main program's condition has held and the kernel returns at its next yield point. -/
  retPend : Bool := false
  queue : List Kernel := []
  /-- The Cuff line buffer: the two lines of the head kernel, and the cycle in which their reads end (R531). -/
  lineBuf : SMap (Nat × List Word) := []
  lineAt : Nat := 0
  loop : Option Loop := .none
  phase : Phase := .compute
  sr : BitVec 19 := 0
  deriving DecidableEq, Repr

/-- Time, parity, step and syncs of the sequencer. -/
structure TsqTime where
  /-- Cycle of the release that PCC counts from; none before the tile is first released. -/
  relAt : Option Nat := .none
  /-- First cycle in which the next instruction may issue. -/
  nextIssue : Nat := 0
  xguard : Nat := 0
  xlen : Nat := 0
  p : Bool := false
  /-- The cycle of the release before the last one, and those of the sy.commit whose cycle is not over: PCC, P and STEP as they were before. -/
  prevRel : Option Nat := .none
  commits : List Nat := []
  step : Word := 0
  /-- REPC, SEQ and RSEQ saved by sy.commit (R417, R271). -/
  repc : BitVec 17 := 0
  pend : Option PendSync := .none
  deriving DecidableEq, Repr

/-- One tile fault, as its record would show it (R219), with its cycle. -/
structure FRec where
  cause : Nat
  sub : Nat
  eng : Nat
  p : Bool
  pc : Nat
  pcc : Nat
  d0 : Nat
  d1 : Nat
  cyc : Nat
  deriving DecidableEq, Repr

/-- The tile fault record (R219). -/
structure Tfr where
  valid : Bool := false
  ovf : Bool := false
  ovfn : Nat := 0
  cause : Nat := 0
  sub : Nat := 0
  eng : Nat := 0
  p : Bool := false
  pc : Nat := 0
  pcc : Nat := 0
  d0 : Nat := 0
  d1 : Nat := 0
  /-- The cycle of the recorded fault. -/
  cyc : Nat := 0
  /-- The fault that the record would show without this one. -/
  alt : Option FRec := .none
  /-- The faulted tile has made its arrival of R62 step 3. -/
  arrived : Bool := false
  /-- The fault's cycle is over: the tile has stopped, and its event has been raised. -/
  told : Bool := false
  deriving DecidableEq, Repr

/-- A local sync counter (R244, R247): count, flags, round-robin pointer and last signaller. -/
structure Lsc where
  value : Nat := 0
  oflag : Bool := false
  uflag : Bool := false
  rr : Nat := 10
  lvalid : Bool := false
  agent : Nat := 0
  /-- The cycle of the last signal. -/
  cyc : Nat := 0
  /-- The cycle of the last change of the count, with the count and the flags at the start of that cycle (R47), its signals less its debits, and its grants. -/
  chg : Nat := 0
  start : Nat := 0
  oflag0 : Bool := false
  uflag0 : Bool := false
  net : Int := 0
  taken : Nat := 0
  deriving DecidableEq, Repr

/-- A receive slot of the XIF (R226, R231): its copy of the pointer, its sender and the lines it has received. -/
structure RSlot where
  armed : Bool := false
  armedAt : Nat := 0
  ptr : Ptr := {}
  n : Nat := 0
  sender : Nat := 0
  got : List Nat := []
  pc : Nat := 0
  sig : Option Nat := .none
  /-- Arming cycle and PC of the xc.recv that armed the slot before. -/
  prev : Option (Nat × Nat) := .none
  deriving DecidableEq, Repr

/-- A record held in a ring (R263): its first word within the ring, its length in lines and whether it is a pad. -/
structure RingRec where
  off : Nat
  rlines : Nat
  pad : Bool
  seq : Nat
  /-- The sender's channel, to which credit returns. -/
  ch : Nat
  deriving DecidableEq, Repr

/-- The run-time state of a receive queue: open, the records of a ring from its head, its tail, RSEQ and its value at
the last sy.commit, and the combining slots that are not free. -/
structure RecvQ where
  opn : Bool := false
  recs : List RingRec := []
  tail : Nat := 0
  rseq : Nat := 0
  rseqSaved : Nat := 0
  /-- Slots not free: slot, its sequence, STATE (1 filling, 2 complete) and contributions received (R272). -/
  slots : List (Nat × Nat × Nat × Nat) := []
  deriving DecidableEq, Repr

/-- A contribution that xc.cadd sent and whose acceptance has not arrived (R273). -/
structure Contrib where
  q : Nat
  elems : List Nat
  fmt : Nat
  pc : Nat
  sig : Option Nat
  /-- The receiver refused it; it is resent 256 ACLK cycles later. -/
  refusedAt : Option Nat
  deriving DecidableEq, Repr

/-- The run-time state of a send channel: credit and tail in words, SEQ and its value at the last sy.commit, closed,
the credit returns under way, and the contributions not yet accepted. -/
structure SendCh where
  credit : Nat := 0
  tail : Nat := 0
  seq : Nat := 0
  seqSaved : Nat := 0
  closed : Bool := false
  out : List Contrib := []
  deriving DecidableEq, Repr

/-- An hb. command that has left its queue (R289 to R292): direction, pointer copy, device address, lines moved so far. -/
structure HbCmd where
  ld : Bool
  ptr : Ptr
  pc : Nat
  l : Nat
  dev : Nat
  n : Nat
  /-- Issue cycle (R309). -/
  cyc : Nat := 0
  donelines : Nat := 0
  /-- The HBM engine that took it (R289), and its first line that could not be corrected (R293). -/
  eng : Nat := 0
  badLine : Option Nat := .none
  sig : Option Nat := .none
  adv : Bool := false
  stride : Nat := 0
  deriving DecidableEq, Repr

/-- Counters and status registers of a tile: CDC_NUMSTAT, CDC_MXERR, CDC_VXSTAT and the non-finite counters. -/
structure TCnt where
  numstat : NFlags := {}
  abftn : Nat := 0
  resn : Nat := 0
  emptyn : Nat := 0
  pinfn : Nat := 0
  nfCvu : Nat := 0
  nfMxe : Nat := 0
  nfVxe : Nat := 0
  /-- NFSTEP (R305). -/
  nfStep : Bool := false
  /-- Exact increments of the three counters (R306). -/
  dCvu : Nat := 0
  dMxe : Nat := 0
  dVxe : Nat := 0
  /-- Memory errors met, by ITG_ECC_k: corrected ones at key 2 k, uncorrectable ones at key 2 k + 1. -/
  ecc : SMap Nat := []
  deriving DecidableEq, Repr

/-- What of a tile's exact counts the die and the package have summed (R306, R411). -/
structure Took where
  cvu : Nat := 0
  mxe : Nat := 0
  vxe : Nat := 0
  ecc : SMap Nat := []
  deriving DecidableEq, Repr

/-- What the acts of a tile's commands find and leave. -/
@[ext] structure Core where
  mem : Mem := []
  bad : List Nat := []
  soft : List Nat := []
  mxe : Mxe := {}
  rng : SMap Nat := []
  sched : List Sched := []
  pipe : SMap Flow := []
  tfr : Tfr := {}
  cnt : TCnt := {}
  deriving DecidableEq, Repr

/-- The locked per-tile configuration: CDC_NUMCFG, CDC_MXCFG.E7Q, CDC_LSCCFG.USAT, CDC_SEGSTATE. -/
structure TCfg where
  num : NumCfg := {}
  e7q : Bool := false
  usat : BitVec 16 := 0
  seg : Word := 0
  deriving DecidableEq, Repr

/-- The loader's tables of a tile (R505). -/
structure Tables where
  handles : SMap (BitVec 64) := []
  syncs : SMap (BitVec 64) := []
  mcast : SMap (BitVec 128) := []
  rqe : SMap (BitVec 64) := []
  sce : SMap (BitVec 64) := []
  progs : SMap EProg := []
  deriving DecidableEq, Repr

/-- One tile. -/
@[ext] structure Tile where
  tsq : Tsq := {}
  tm : TsqTime := {}
  mem : Mem := []
  /-- Words whose check bits are uncorrectable. -/
  bad : List Nat := []
  /-- Words with a single-bit error, which every read corrects until the word is written. -/
  soft : List Nat := []
  cfg : TCfg := {}
  tab : Tables := {}
  ptrs : SMap Ptr := []
  vs : SMap VStream := []
  mxe : Mxe := {}
  engs : SMap EngQ := []
  rng : SMap Nat := []
  sched : List Sched := []
  /-- Commands in execution, by key. -/
  pipe : SMap Flow := []
  /-- The acts of commands that a later command may still meet, in order of their cycles, and the tile as it was before them (log entry 4): what the tile
  shows is what comes of them. -/
  acts : List Act := []
  base : Option Core := .none
  lscs : SMap Lsc := []
  slots : SMap RSlot := []
  rqs : SMap RecvQ := []
  scs : SMap SendCh := []
  /-- Table entries whose check fails on use (R413): kind (0 handle, 1 sync descriptor, 2 multicast descriptor, 3 receive queue
  entry, 4 send channel entry, 5 element program) times 256 plus index. -/
  badTab : List Nat := []
  /-- Accumulator elements that cannot be corrected (R413). -/
  badAcc : List Nat := []
  /-- Alarm causes of ITG_ALARM that this tile has raised and the hub has not yet taken: TBL, CHAN. -/
  almTbl : Bool := false
  almChan : Bool := false
  hb : List HbCmd := []
  /-- An hx.gwait registered at the hub and not granted: counter, signal and PC (R254). -/
  gwait : Option (Nat × Option Nat × Nat) := .none
  dev : SMap (BitVec 64) := []
  tfr : Tfr := {}
  cnt : TCnt := {}
  took : Took := {}
  deriving DecidableEq, Repr

end Sys2Proof.Machine
end

