-- ==== Sys2Proof/Machine/PkgState.lean ====
section
/-! DEFINITION. The state of the package outside the tiles that chapters 2, 8, 9 and 15 give it: sync groups, lines and
channel messages in flight, compute dies, the event controller, the clock. -/

namespace Sys2Proof.Machine

/-- An arrival at a sync (R51, R52, R62): the tile, its cycle, its payload and combine op, whether it arrived faulted, and whether the die
could not count it (R529). -/
structure Arrival where
  tile : Nat
  cyc : Nat
  payload : Nat
  comb : Nat
  faulted : Bool
  excess : Bool
  deriving DecidableEq, Repr

/-- A sync group on the package: arrivals at the pending sync, arrivals held for the next one (R52), the fault mark of an excess
arrival (R529). -/
structure Group where
  arr : List Arrival := []
  early : List Arrival := []
  mark : Bool := false
  deriving DecidableEq, Repr

/-- A step of a compiled line over a link (R223, R234): the link, its cycle, its precedence class (0 continuing, 1 turning, 2 injected), and
the input it comes from (0 x-, 1 x+, 2 y-, 3 y+, and the row at a ring link). -/
structure Hop where
  link : Link
  cyc : Nat
  cls : Nat
  inp : Nat
  deriving DecidableEq, Repr

/-- A compiled line in flight to one receiver (R229, R230, R237). -/
structure XLine where
  dst : Nat
  sender : Nat
  slot : Nat
  idx : Nat
  mc : Bool
  dest : Nat
  data : List Word
  /-- The cycle of injection and the cycle in which the receiver's port 6 writes it. -/
  inj : Nat
  arr : Nat
  hops : List Hop
  /-- The key of its xc.send among the sender's commands in flight. -/
  key : Nat := 0
  deriving DecidableEq, Repr

/-- An event source (R400, R403): counter, pending, the condition of a level source, withdrawn, stamp and data. -/
structure EvSrc where
  count : Nat := 0
  pend : Bool := false
  lvl : Bool := false
  stamp : Nat := 0
  d0 : Word := 0
  d1 : Word := 0
  deriving DecidableEq, Repr

/-- The event controller's own state (R400 to R406). -/
structure Evc where
  srcs : SMap EvSrc := []
  /-- LAST of each group; 4 at reset. -/
  last : SMap Nat := []
  lastSrc : Nat := 0x1FF
  /-- The host staging queue and the four Brim queues: records of eight words. -/
  hostQ : List (List Word) := []
  brimQ : SMap (List (List Word)) := []
  spurn : Nat := 0
  /-- Cores whose event interrupt has been asserted (R406; DEDUCED, log entry 72). -/
  irq : List Nat := []
  deriving DecidableEq, Repr

/-- A compute die's registers and conditions that hardware changes. -/
structure Die where
  /-- Failed lanes of each D2D group 0 to 7 (R20). -/
  lanes : SMap (List Nat) := []
  rowmap : SMap Word := []
  sgrpLast : SMap Word := []
  wdogx : List Nat := []
  xdrop0 : Word := 0
  xdrop1 : Word := 0
  xdrop2 : Word := 0
  xdropn : Nat := 0
  nfsum : SMap Nat := []
  /-- A segment state change in progress; a scrub in progress (CDC_SEGCTL.BUSY, R91, R92). -/
  segBusy : Bool := false
  scrubBusy : Bool := false
  hberr : SMap Word := []
  hbstall : SMap Nat := []
  /-- The hb.ld and hb.st commands that ended with error status since the job was last released, by issue cycle and tile (R292). -/
  hbDead : List (Nat × Nat) := []
  /-- The tile whose hb. queue an HBM engine served last (R289). -/
  hbLast : Nat := 0
  deriving DecidableEq, Repr

/-- A flit in a port's transmit queue or retry buffer: lane, bulk class, load; once sent, its sequence and the credit that it returns (CRV, CRN); and, of a flit
in transit, the port and credit lane of the receive buffer that it leaves when it is forwarded (R355). -/
structure TxFlit where
  vl : Nat
  cls : Nat
  load : FlitLoad
  seq : Nat := 0
  crv : Nat := 0
  crn : Nat := 0
  src : Option (Nat × Nat) := none
  deriving DecidableEq, Repr

/-- A flit on the link: its header and what its payload says; `SentFlit.flit` gives the payload and the CRC. -/
structure SentFlit where
  hdr : Word
  load : FlitLoad
  deriving DecidableEq, Repr

/-- A DIL port (R348 to R355, R366). -/
structure Port where
  present : Bool := false
  up : Bool := false
  /-- WIDTH: 0 down, 1 x4, 2 x8. -/
  width : Nat := 0
  spared : Bool := false
  jrnl : Bool := false
  down : Nat := 0
  /-- Failed lanes, and the position that each active lane holds. -/
  failed : List Nat := []
  pos : SMap Nat := []
  serr : SMap Nat := []
  peer : Word := 0
  retryn : Nat := 0
  uncwn : Nat := 0
  corrn : Nat := 0
  /-- Flits waiting to be sent, flits sent and not acknowledged, and the sequence of the next new flit. -/
  txq : List TxFlit := []
  unacked : List TxFlit := []
  /-- Flits of the retry buffer that are to be sent again. -/
  replay : List TxFlit := []
  txSeq : Nat := 0
  /-- Last sequence received in order, whether later flits are being discarded, and refusals of the same flit in a row. -/
  rxSeq : Nat := 511
  nak : Bool := false
  refused : Nat := 0
  /-- A retrain is under way. -/
  retrain : Bool := false
  /-- Link credits: lane 0 sync, 1 control, 2 bulk B0, 3 bulk B1; credits held, and credits owed to the peer. -/
  credits : SMap Nat := [(0, 32), (1, 16), (2, 192), (3, 192)]
  owed : SMap Nat := []
  /-- Flits of a message still incomplete that the receive buffer holds, by credit lane: their credit is not returned yet. -/
  parts : SMap Nat := []
  /-- The bulk class sent last, which alternates. -/
  lastCls : Nat := 1
  /-- The flit sent in the last flit time. -/
  out : Option SentFlit := none
  deriving DecidableEq, Repr

/-- A sync tree of a group across packages (R361, R362). -/
structure Tree where
  /-- The wait set is being formed. -/
  forming : Bool := false
  formed : Bool := false
  err : Bool := false
  effpar : Nat := 0
  waitset : List Nat := []
  /-- Ports of CHILD and ALTCHILD that have answered with an attach or a decline. -/
  answered : List Nat := []
  /-- Arrivals of the pending sequence, by port; and whether this package has sent its own up. -/
  arr : List (Nat × TreeMsg) := []
  sent : Bool := false
  seq : Nat := 0
  /-- Attach and decline messages that came before this package formed its wait set, and arrivals before its tiles were released. -/
  early : SMap Bool := []
  /-- Ports whose arrival at the restart barrier has come, and whether this package has sent its own (R420). -/
  bar : List Nat := []
  barSent : Bool := false
  held : List (Nat × TreeMsg) := []
  deriving DecidableEq, Repr

/-- The interchip links: ports, trees, the time tree (R365) and EPOCH counts of discarded records (R422). -/
structure Dil where
  ports : SMap Port := []
  trees : SMap Tree := []
  locked : Bool := false
  slew : Bool := false
  hops : Nat := 0
  trim : Int := 0
  offset : Int := 0
  deriving DecidableEq, Repr

/-- The Hatbox (R432, R433): records of 16 words by index, the next index, whether the ring has wrapped, the sequence of the last record, the
last flash copy and its slot, and the two flash slots. -/
structure Hatbox where
  recs : SMap (List Word) := []
  next : Nat := 0
  wrap : Bool := false
  seq : Word := 0
  fcopy : Nat := 0
  fslot : Nat := 0
  /-- A flash copy is under way. -/
  copying : Bool := false
  flash : SMap (SMap (List Word)) := []
  /-- The CRC-32 of each slot. -/
  fcrc : SMap Word := []
  deriving DecidableEq, Repr

/-- Phases of a replay restart (R420). -/
inductive RPhase where
  | idle
  | quiesce
  | barrier
  deriving DecidableEq, Repr

/-- A final digest as a package reports it to the comparing root (R427). -/
structure DigestAt where
  rank : Nat
  step : Nat
  pkg : Nat
  dig : BitVec 64
  lines : Nat
  deriving DecidableEq, Repr

/-- The integrity block (R412 to R434). -/
structure Itg where
  phase : RPhase := .idle
  exhaust : Bool := false
  trig : Nat := 0
  attempt : Nat := 0
  epoch : Nat := 1
  nreplay : Nat := 0
  stale : Nat := 0
  ecc : SMap Nat := []
  eccUe : SMap Nat := []
  fitBusy : Bool := false
  fitSrc : Nat := 0
  gfail : Nat := 0
  fitRuns : Nat := 0
  fenced : Nat := 0
  /-- Tiles of a background fitting run in progress. -/
  fitTiles : List Nat := []
  fitSel : Nat := 0
  cmpValid : Bool := false
  verdict : Nat := 0
  ncmp : Nat := 0
  cmpStep : Word := 0
  cmpMis : BitVec 64 := 0
  reports : List DigestAt := []
  /-- The trigger of R418 that waits to be handled: kind. -/
  pendTrig : Option Nat := none
  /-- Tiles that ITG_ALARM recorded for the table rewrite of R413. -/
  tblTiles : List Nat := []
  /-- Owner and standby ranks of the loaded binary's shards (R327, R345). -/
  shards : List (Nat × Option Nat) := []
  /-- ITG_RGLIVE has been written since the wait sets were formed (R361). -/
  rgWritten : Bool := false
  /-- The restart in progress forms the wait sets again (R361). -/
  forming : Bool := false
  deriving DecidableEq, Repr

/-- A ring in host memory (R376, R377): indices, the phase of the next entry the device writes, stopped, and what the E9 holds for it:
descriptors fetched and not executed, entries waiting to be written (without PHASE), and for a command ring whether a command has
started whose completion is not posted. -/
structure Ring where
  head : Nat := 0
  tail : Nat := 0
  phase : Bool := true
  stopped : Bool := false
  fetched : List (List Word) := []
  waiting : List (List Word) := []
  busy : Bool := false
  deriving DecidableEq, Repr

/-- A command that has started and not completed: its ring, its descriptor, and the head of its ring after it (SQHEAD). -/
structure Cmd where
  ring : Nat
  desc : List Word
  sqhead : Nat
  deriving DecidableEq, Repr

/-- An HBM stack (R287, R288, R296, R297): its registers, its memory by stack-local byte address, its sectors by first byte that the controller cannot
correct (bad) and that it corrects (soft), and whether its controller is recovering from a fault (held). -/
structure Stack where
  present : Bool := false
  trained : Bool := false
  conserv : Bool := false
  failed : Bool := false
  tstate : Nat := 0
  trip : Bool := false
  temp : Nat := 0
  uen : Nat := 0
  cen : Nat := 0
  mem : Mem := []
  bad : List Nat := []
  soft : List Nat := []
  held : Bool := false
  deriving DecidableEq, Repr

/-- The object table (R283 to R286): entries, and the command that runs or ran last. -/
structure ObjTab where
  ents : SMap (BitVec 128) := []
  busy : Bool := false
  err : Nat := 0
  entry : Nat := 0
  gran : Nat := 0
  /-- A migration's mover and new placement. -/
  moving : Option (Nat × BitVec 128) := none
  deriving DecidableEq, Repr

/-- Who runs a transfer on a bulk mover (R281, R295, R322, R388): a tile's hx.move, with its signal and the channel descriptor line; a COPY command;
a SNAP command or an automatic snapshot; a migration. -/
inductive MoverUser where
  | tile (t : Nat) (sig : Option Nat) (pc : Nat)
  | copy (c : Cmd)
  | snap (c : Option Cmd)
  | migrate
  deriving DecidableEq, Repr

/-- A transfer on a bulk mover: source and destination device addresses, lines, and how it signals (SIGK, GSC, TILE, CTR). -/
structure Xfer where
  user : MoverUser
  src : Nat
  dst : Nat
  n : Nat
  sigk : Nat := 0
  gsc : Nat := 0
  stile : Nat := 0
  ctr : Nat := 0
  deriving DecidableEq, Repr

/-- A bulk mover (BMV_STAT_m). -/
structure Mover where
  xfer : Option Xfer := none
  err : Bool := false
  user : Nat := 0
  done : Nat := 0
  deriving DecidableEq, Repr

/-- A query (R319 to R321): its ring, tag, deadline, payload lines and addresses, answer capacity, and whether it has been delivered. -/
structure Query where
  qid : Nat
  ring : Nat
  tag : Word
  plen : Nat
  cap : Nat
  deadline : Nat
  paddr : Nat
  aaddr : Nat
  delivered : Bool := false
  deriving DecidableEq, Repr

/-- A query completion that waits to be written (R392): status 0 stands for an answer whose lateness is decided when it is
written. -/
structure QCpl where
  qid : Option Nat
  tag : Word
  lines : Nat
  status : Nat
  deadline : Nat
  deriving DecidableEq, Repr

/-- A snapshot that copies (R322 to R324): the STEP of its mark, its destination and buffer, extents as source and lines, the timebase at
its start, its mover, the SNAP command that asked for it, and whether a commit mark has torn it. -/
structure Snap where
  step : Word
  dst : Nat
  buf : Option Nat
  exts : List (Nat × Nat)
  start : Nat
  mover : Nat
  cmd : Option Cmd
  /-- A commit mark has stopped the copy: its digest and its first failure, if it met one. -/
  torn : Option (BitVec 64 × Option (Nat × Nat)) := none
  deriving DecidableEq, Repr

/-- The training-watch block (R300 to R325). -/
structure Trw where
  /-- Loss watch: m and v in FP64, n, the last accepted sample and the state before it. -/
  m : Nat := 0
  v : Nat := 0
  n : Nat := 0
  got : Bool := false
  step : Word := 0
  loss : Word := 0
  pm : Nat := 0
  pv : Nat := 0
  pn : Nat := 0
  pappr : Nat := 0
  spike : Bool := false
  approved : Bool := false
  nf : Bool := false
  seqerr : Bool := false
  spkn : Nat := 0
  unappn : Nat := 0
  /-- TRW_NF_k, TRW_OUTCOME_k, the counts of windows not yet closed by their index, the closed window's counts and
start, the index of the window that closes next. -/
  nfs : SMap Nat := []
  outcome : SMap Nat := []
  lastCommit : Option Word := none
  win : SMap (SMap Nat) := []
  winCnt : SMap Nat := []
  winStart : Nat := 0
  winIdx : Nat := 0
  late : SMap Nat := []
  exp : SMap Nat := []
  /-- Snapshots: the one that copies, commit marks counted for R322, MISSED, RESULT and BUF of the last, and the buffer of the last complete one. -/
  snap : Option Snap := none
  marks : Nat := 0
  missed : Nat := 0
  result : Nat := 0
  buf : Nat := 0
  good : Option Nat := none
  deriving DecidableEq, Repr

/-- The digest engine (R339 to R341). -/
structure Digest where
  busy : Bool := false
  ovr : Bool := false
  incomp : Bool := false
  lines : Nat := 0
  run : BitVec 64 := 0
  step : Word := 0
  /-- The last final digest: whether there is one, whether its STEP still refuses lines (a replay forms the digest of its step again), its STEP and value. -/
  isFinal : Bool := false
  closed : Bool := false
  finStep : Word := 0
  fin : BitVec 64 := 0
  deriving DecidableEq, Repr

/-- The states of a job (R386). -/
inductive JobState where
  | idle
  | loaded
  | running
  | paused
  | ended
  deriving DecidableEq, Repr

/-- The host interface (R370 to R396). -/
structure HostIf where
  job : JobState := .idle
  stopReq : Bool := false
  jcBusy : Bool := false
  /-- The START or RESTART that last released the job. -/
  starter : Option Cmd := none
  /-- A START that waits for its sync trees (R361). -/
  starting : Option Cmd := none
  /-- Rings whose fetched job-control commands have not started, in the order of the fetches (R385). -/
  jcOrder : List Nat := []
  /-- Tables of the loaded job's tiles, held in hub SRAM (R413). -/
  copies : SMap Tables := []
  /-- The most compiled lines per cycle that the loaded binary declares for a ring link and direction, at key 2 link + direction (R484). -/
  ringLines : SMap Nat := []
  /-- TPID of the loaded binary. -/
  tpid : Option Nat := none
  /-- A RESTART that has not completed. -/
  restarting : Option Cmd := none
  rings : SMap Ring := []
  err : Word := 0
  ownDrop : Word := 0
  queries : List Query := []
  qcpl : SMap (List QCpl) := []
  /-- PCI Express: the link is up, the IDE stream is secure or has failed, the function is in D3hot, pending bits and messages sent by vector. -/
  linkUp : Bool := true
  pci : PciCfg := {}
  /-- The configuration that the host gives the function whenever the link comes up (R370; DESIGN CHOICE, log entry 88). -/
  host : PciCfg := {}
  ideSecure : Bool := false
  ideFailed : Bool := false
  d3 : Bool := false
  pba : Word := 0
  msix : SMap Nat := []
  /-- Messages with poisoned data or refused accesses reported through AER. -/
  aer : Nat := 0
  /-- The data object that the DOE mailbox returned last for a DOE discovery (R370). -/
  doe : Word := 0
  deriving DecidableEq, Repr

/-- A global sync counter (R253 to R255): as a local one, with the agent last granted and the agents that wait. -/
structure Gsc where
  value : Nat := 0
  oflag : Bool := false
  uflag : Bool := false
  lvalid : Bool := false
  agent : Nat := 0
  rr : Nat := 0xFFFF
  waiters : List Nat := []
  deriving DecidableEq, Repr

/-- Time (R9, R299, R465): ACLK cycles since power-up, the timebase, the part of an ACLK cycle carried over in quarters, and the ACLK
frequency in force with whether ACLK and HCLK run. -/
structure Clk where
  aclk : Nat := 0
  tb : BitVec 64 := 0
  frac : Nat := 0
  /-- Millionths of a nanosecond that the HPLL trim has accumulated (R365). -/
  sub : Nat := 0
  code : Nat := 0
  aclkOn : Bool := false
  hclkOn : Bool := true
  deriving DecidableEq, Repr

/-- The power manager (R458 to R479): operating point, ceilings, caps, package state, timers and clock locks. -/
structure Pw where
  /-- The armed code, and the cycle of the last release since it was armed, which is its frequency point (R57, R466). -/
  armed : Option Nat := none
  point : Option Nat := none
  cth : Nat := 0
  ccap : Nat := 0
  lim : Nat := 0
  /-- Timebase of the previous change of ACLK; the code at which C_max is held (R467). -/
  lastChange : Option Nat := none
  held : Option Nat := none
  /-- CRP_TEMP_u: TEMP, MAXT and TRIP by unit; the highest T of the running thermal interval, and intervals below 92 degrees in a row. -/
  temps : SMap Nat := []
  maxts : SMap Nat := []
  trips : List Nat := []
  hot : Nat := 0
  cool : Nat := 0
  /-- Samples of the running power interval, the last interval's figures, and intervals below 0.85 of the cap in a row. -/
  peak : Nat := 0
  sum : Nat := 0
  cnt : Nat := 0
  lastPeak : Nat := 0
  avg : Nat := 0
  low : Nat := 0
  /-- Package state, cause of the last exit, exits, and the slack hint (R475, R476). -/
  st : Nat := 0
  wake : Nat := 0
  nwake : Nat := 0
  hint : Option Nat := none
  /-- The timer and the expected doorbell as their _HI writes made them, and whether the timer has fired. -/
  timer : Nat := 0
  dbexp : Nat := 0
  fired : Bool := false
  /-- PLL locks: APLL and LPLL masks. -/
  apll : Nat := 0
  hpll : Bool := false
  mpll : Bool := false
  lpll : Nat := 0
  ppll : Bool := false
  xt1 : Bool := false
  /-- Crystal delay: strap balls, OTP field, and the code in force with its source (R459). -/
  straps : Nat := 0
  otpDelay : Option Nat := none
  xsd : Nat := 0
  xsrc : Bool := false
  /-- CRP_SSC as OTP gives it at S0, and as last written (R479). -/
  otpSsc : Word := 0
  ssc : Word := 0
  /-- CRP_RSTCAUSE. -/
  cold : Bool := false
  cause : Nat := 0
  /-- Use of the host link by L0p: current width, 16 to 2 lanes (R477). -/
  l0p : Nat := 16
  deriving DecidableEq, Repr

/-- A journal entry (R453). -/
structure JEntry where
  boot : Nat
  stage : Nat
  cause : Nat
  unit : Nat
  /-- Cleared by JRNLCLR. -/
  clr : Bool := false
  deriving DecidableEq, Repr

/-- A mailbox slot (R455): the request that waits, DONE, ERR, OP of the last request, and the response. -/
structure Mbx where
  req : Option Nat := none
  done : Bool := false
  err : Nat := 0
  op : Nat := 0
  rsp : SMap Word := []
  deriving DecidableEq, Repr

/-- A root slot: the hash of its key pair, valid, revoked (R441). -/
structure Root where
  hash : BitVec 384 := 0
  valid : Bool := false
  revoked : Bool := false
  deriving DecidableEq, Repr

/-- An image in a flash slot (R442): header fields, BODYHASH, and whether its bytes still pass the checks that depend on them alone. -/
structure FlashImg where
  svn : Nat := 0
  flags : Nat := 0
  signer : BitVec 384 := 0
  hash : BitVec 384 := 0
  good : Bool := true
  deriving DecidableEq, Repr

/-- The SPDM responder (R447): negotiated version, capabilities and algorithms, and the session: 0 none, 1 after KEY_EXCHANGE, 2 established; the code of the
last request answered. -/
structure Spdm where
  ver : Bool := false
  cap : Bool := false
  alg : Bool := false
  session : Nat := 0
  last : Nat := 0
  answers : Nat := 0
  errs : Nat := 0
  deriving DecidableEq, Repr

/-- Security and boot (R435 to R457). -/
structure Sec where
  stage : Nat := 0
  done : Bool := false
  parked : Bool := false
  alt : Nat := 0
  slot : Nat := 0
  /-- Fuses: lifecycle, root slots (vendor 0 to 3, owner 4 to 7), SVNs, identity kill, blown leaf blocks. -/
  lcFuse : Nat := 1
  roots : SMap Root := []
  svn : SMap Nat := []
  kill : Bool := false
  f : Nat := 0
  /-- The lifecycle state in force, from S1. -/
  lc : Nat := 0
  lcValid : Bool := false
  /-- W of the open block, where AON holds a valid one; this boot's leaf; leaves exhausted. -/
  w : Option Nat := none
  leaf : Option Nat := none
  exh : Bool := false
  /-- The flash leaf log: leaf, boot count, alias key hash. -/
  leafLog : List (Nat × Nat × BitVec 384) := []
  /-- The journal: AON copy (16) and flash ring (256), newest last. -/
  jaon : List JEntry := []
  jaonOk : Bool := true
  jflash : List JEntry := []
  /-- The flash slots' images, at key 2 slot + image (0 monitor, 1 Brim). -/
  flash : SMap FlashImg := []
  /-- SVNs of the images booted (0 monitor, 1 Brim) and of the fitting bundle verified last (2). -/
  booted : SMap Nat := []
  meas : SMap (BitVec 384) := []
  boxes : SMap Mbx := []
  lastServed : Nat := 1
  /-- SIGNER of the binary-signing certificate verified last (R441). -/
  cert : Option (BitVec 384) := none
  /-- IDE keys written, by set and direction. -/
  ide : SMap (BitVec 256) := []
  /-- Remainder of the last signature, for a repeated SIGN (R455). -/
  sigRest : List Word := []
  /-- Units held in reset or left out of service by alternate forms: dies, stacks and ports. -/
  outDies : List Nat := []
  outStacks : List Nat := []
  outPorts : List Nat := []
  /-- Cap on the link rate at S11: 0 none, 1 32 GT/s, 2 16 GT/s. -/
  rateCap : Nat := 0
  spdm : Spdm := {}
  deriving DecidableEq, Repr

/-- A field fence or fuse entry of the repair map (R28 to R30): die, half, row, physical column, router fence. -/
structure Fence where
  die : Nat
  half : Nat
  row : Nat
  col : Nat
  router : Bool
  deriving DecidableEq, Repr

/-- Balls that hold or show state (R508 to R522): supply groups enabled and good, the thermal trip output, straps, sideband addresses and alert, what JTAG
selects and shows, a supply stop that ends in a cold reset, and a RESET_N that waits for the flash copy. -/
structure Pins where
  pwrEn : Nat := 0
  pgood : Nat := 0x3F
  thermTrip : Bool := false
  supflt : Bool := false
  sbaddr : Nat := 0
  testmode : Bool := false
  dynAddr : Option Nat := none
  alert : Bool := false
  /-- The JTAG instruction that is selected (0 none, 1 IDCODE, 2 boundary scan, 3 any other), and the IDCODE register. -/
  jtag : Nat := 0
  idcode : Word := 0
  supStop : Option Nat := none
  resetWait : Bool := false
  deriving DecidableEq, Repr

end Sys2Proof.Machine
end

