-- ==== Sys2Proof/Machine/Mach.lean ====
section
/-! DEFINITION. The machine without its queue of commands: every register, memory, FIFO, counter and mode of the package. -/

namespace Sys2Proof.Machine

/-- What identifies the part, and what boot has formed of it (R1, R14, R33, R36, R240). -/
structure Part where
  /-- 0 ULX-E9-4X, 1 ULX-E9-4L, 2 ULX-E9-2L. -/
  variant : Nat := 0
  hubStep : Nat := 0x10
  /-- Steppings and Crown revisions of the dies, profile entries and pads (CDC_TPENT_n, CDC_TPPAD_n at key 4 d + n), populated stacks and enabled
  DIL ports. -/
  dieStep : SMap Nat := []
  crowns : SMap Nat := []
  tpEnt : SMap Word := []
  tpPad : SMap Word := []
  /-- By how much the native latencies of a die at the points of R239 differ from the values of the manual, by 8 d + point. -/
  tpNative : SMap Int := []
  stackMask : Nat := 0xFF
  portMask : Nat := 0xFFF
  /-- Bonnet has loaded ID_PART (S1); Brim has loaded the rest (S5); stack revisions are known (S7). -/
  idPart : Bool := false
  idRest : Bool := false
  idHbm : Bool := false
  /-- Native capability set of each die. -/
  dieCaps : SMap Word := []
  /-- Dies in service: present, released at S5 and not held (R453). -/
  dies : List Nat := []
  /-- The package capability set ID_CAP, and whether the profile is formed (R33). -/
  caps : Word := 0
  profValid : Bool := false
  deriving DecidableEq, Repr

/-- The machine. -/
@[ext] structure Mach where
  clk : Clk := {}
  part : Part := {}
  /-- Plain configuration registers, by BAR0 offset; one not listed holds its reset value. -/
  regs : SMap Word := []
  tiles : SMap Tile := []
  dies : SMap Die := []
  groups : SMap Group := []
  flight : List XLine := []
  msgs : List Msg := []
  dil : Dil := {}
  itg : Itg := {}
  hq : HostIf := {}
  trw : Trw := {}
  dig : Digest := {}
  gscs : SMap Gsc := []
  hbms : SMap Stack := []
  ot : ObjTab := {}
  movers : SMap Mover := []
  /-- Shadows that reads of _LO words have latched, by the offset of the _HI word (R500). -/
  shadow : SMap Word := []
  /-- The low words that the hardware uses of 64-bit values held in two registers, taken at the write of the high word (R500). -/
  lows : SMap Word := []
  /-- What the last register or BAR2 read returned: none for a Completer Abort. -/
  rdata : Option (List Word) := some []
  /-- Hub staging SRAM by byte offset, with its uncorrectable and its correctable lines by first byte (R280, R416). -/
  hub : Mem := []
  hubBad : List Nat := []
  hubSoft : List Nat := []
  /-- Host memory by host bus address (R282, R376). -/
  hmem : Mem := []
  /-- The hub's send channels to the intake queues of the query rings (R320), by ring. -/
  qch : SMap SendCh := []
  hbx : Hatbox := {}
  /-- Boots counted by the journal (R439, R452). -/
  boots : Nat := 0
  evc : Evc := {}
  pw : Pw := {}
  sec : Sec := {}
  pins : Pins := {}
  /-- The repair map's entries in fuses and in flash. -/
  fuseFences : List Fence := []
  flashFences : List Fence := []
  /-- The counter that numbers draws of free values (log entry 15). -/
  free : Nat := 0
  deriving DecidableEq, Repr

end Sys2Proof.Machine
end

