-- ==== Sys2Proof/Machine/State.lean ====
section
/-! DEFINITION. The state of the block, the reasons a step can stop, and the state right after a cold reset. -/

namespace Sys2Proof.Machine

/-- The state: the machine and the commands that wait, first in, first out. -/
structure State extends Mach where
  pending : List Instr := []
  deriving DecidableEq, Repr

/-- Why a step ends in a fault: there is no reason. The manual gives every command an effect, an error that the E9 itself reports, or none, so nobody raises
a fault. -/
inductive Fault where
  deriving DecidableEq, Repr

/-- Why a step is refused. -/
inductive Refusal where
  /-- A command whose meaning is not written; raised by exec alone. Safe. -/
  | notModelled (mnemonic : String)
  deriving DecidableEq, Repr

/-- The machine right after a cold reset at power-up (R439, R451, R478): boot is at S0, no die is in service, no clock of the tiles runs, no link is up; every
register holds the value of its reset, and what the manual gives no reset value for holds what log entries 3 and 35 name. -/
def State.reset : State :=
  { clk := { hclkOn := false }
    hq := { linkUp := false }
    pw := { cold := true, cause := 1 }
    sec := { roots := [(0, { valid := true })] }
    pending := [] }

end Sys2Proof.Machine
end

