-- ==== Sys2Proof/Config.lean ====
section
/-! DEFINITION. What the spec leaves to the implementation or to a document it does not hold: free values, each an
opaque constant with no body, so that no statement can rest on its value (notes/assumptions say where each stands). -/

namespace Sys2Proof.Config

/-- FREE VALUE (log entry 10). Whether the reference table of exp2 in FP32 (R171: the tables ship with Zheni and are not in the spec) holds the neighbour above
the exact value, and not the one below, for operands that R171 and R172 do not decide. -/
opaque exp2Up : BitVec 32 → Bool

/-- FREE VALUE (log entry 10). The same of log2 in FP32, for the magnitude. -/
opaque log2Up : BitVec 32 → Bool

/-- FREE VALUE (log entry 10). Units, less 1, that the reference table of tanh in FP32 lies above the floor of the exact magnitude. -/
opaque tanhOff : BitVec 32 → BitVec 2

/-- FREE VALUE (log entry 10). The same of erf. -/
opaque erfOff : BitVec 32 → BitVec 2

/-- FREE VALUE (log entry 10). Whether the reference table of rcp (FP32, then FP64) rounds an inexact quotient away from zero. -/
opaque rcpUp : BitVec 64 → Bool

/-- FREE VALUE (log entry 10). Whether the reference table of rsqrt (FP32, then FP64) rounds an inexact root away from zero. -/
opaque rsqrtUp : BitVec 64 → Bool

/-- FREE VALUE (log entry 89). The CRC-32 over a flash slot of the Hatbox (R433: the spec gives no polynomial). -/
opaque crc32 : List (BitVec 32) → BitVec 32

/-- FREE VALUE (log entry 87). The 256 payload bytes of a flit that carries a message (R349, R353: the spec lays out none). -/
opaque flitPayload : FlitLoad → BitVec 2048

/-- FREE VALUE (log entry 12). ECDSA P-384 verification: key hash, hash of what is signed, signature bytes (R438). -/
opaque ecdsaOk : List (BitVec 8) → List (BitVec 8) → List (BitVec 8) → Bool

/-- FREE VALUE (log entry 12). LMS verification: the same signer's LMS key, the signed bytes, signature bytes (R438). -/
opaque lmsOk : List (BitVec 8) → List (BitVec 8) → List (BitVec 8) → Bool

/-- FREE VALUE (log entry 12). SHA-384 of a byte string (FIPS 180-4; the spec names it and gives no algorithm). -/
opaque sha384 : List (BitVec 8) → BitVec 384

/-- FREE VALUE (log entry 12). The alias key's ECDSA signature (r and s) over a transcript hash, by boot count (R447, SIGN). -/
opaque aliasSign : Nat → Nat → BitVec 384 → BitVec 768

/-- FREE VALUE (log entry 12). The hash of the alias key of boot n, as the flash leaf log keeps it (R445). -/
opaque aliasKeyHash : Nat → BitVec 384

/-- FREE VALUE (log entry 12). Byte b of certificate c (0 device, 1 alias) at boot n (R439, CERT). -/
opaque certByte : Nat → Nat → Nat → BitVec 8

/-- FREE VALUE (log entry 12). Length in bytes of certificate c at boot n. -/
opaque certLen : Nat → Nat → Nat

/-- FREE VALUE (log entry 12). A row of the public fuse map (R455 FUSEREAD; the map is not in the spec). -/
opaque fuseRow : Nat → BitVec 32

/-- FREE VALUE (log entry 12). The IDE key that IDEKEY writes: key set, direction and boot count (R447, R455). -/
opaque ideKey : Nat → Nat → Nat → BitVec 256

/-- FREE VALUE (log entry 13). Ulupex's JEP106 code in IDCODE bits 11:1 (R522: given by the file ULX-E9-BSD). -/
opaque jep106 : BitVec 11

/-- FREE VALUE (log entry 14). The revision byte that a stack reports at S7 (ID_HBMREV_n: the stack maker's own). -/
opaque hbmRev : Nat → BitVec 8

/-- FREE VALUE (log entry 15). A fresh draw of a value the spec leaves open, by a counter that State holds. -/
opaque freeWord : Nat → BitVec 32

/-- FREE VALUE (log entry 12). A measurement of R448, by index and by the numbers that it covers. -/
opaque measHash : Nat → List Nat → BitVec 384

/-- FREE VALUE (log entry 12). The SIGNER value of the key pair that the body of a binary-signing certificate holds (R441). -/
opaque certSigner : List (BitVec 8) → BitVec 384

/-- FREE VALUE (log entry 12). The hash of the device's ECDSA public key (R438 BIND, R444). -/
opaque deviceKeyHash : BitVec 384

/-- FREE VALUE (log entry 12). The owner root that a token into SECURE writes in a slot, and whether it writes that slot (R449). -/
opaque tokenRoot : List (BitVec 8) → Nat → BitVec 384

/-- FREE VALUE (log entry 12). Whether that token writes the slot. -/
opaque tokenHasRoot : List (BitVec 8) → Nat → Bool

end Sys2Proof.Config
end

