-- ==== Sys2Proof/Machine/Flags.lean ====
section
/-! DEFINITION. Flags, counters and the fault record of a tile: every way a tile's status is changed by an engine. -/

namespace Sys2Proof.Machine

/-- The error counter of a tile memory word (ITG_ECC_k): 0 on the compute die, 1 on the Crown. -/
def eccOf (a : Nat) : Nat := if a < 0x10000 then 0 else 1

/-- What the acts of commands find in a tile. -/
def Tile.core (t : Tile) : Core :=
  { mem := t.mem, bad := t.bad, soft := t.soft, mxe := t.mxe, rng := t.rng, sched := t.sched, pipe := t.pipe, tfr := t.tfr, cnt := t.cnt }

/-- The tile with what acts find in it replaced. -/
def Tile.withCore (t : Tile) (c : Core) : Tile :=
  { t with mem := c.mem, bad := c.bad, soft := c.soft, mxe := c.mxe, rng := c.rng, sched := c.sched, pipe := c.pipe, tfr := c.tfr, cnt := c.cnt }

/-- A tile with its MXE's registers changed. -/
def Tile.setMxe (t : Tile) (m : Mxe) : Tile := { t with mxe := m }

/-- A tile with its counters changed. -/
def Tile.setCnt (t : Tile) (c : TCnt) : Tile := { t with cnt := c }

/-- A tile with its scheduled accesses changed. -/
def Tile.setSched (t : Tile) (l : List Sched) : Tile := { t with sched := l }

/-- Change a tile, and in the same way the tile that its acts in flight start from. -/
def Tile.both (t : Tile) (f : Tile → Tile) : Tile :=
  match t.base with
  | none => f t
  | some b => { f t with base := some (f { t.withCore b with base := none, acts := [] }).core }

/-- n errors for ITG_ECC_k, corrected or uncorrectable. -/
def Tile.eccSeen (t : Tile) (k : Nat) (ue : Bool) (n : Nat) : Tile :=
  if n = 0 then t else t.both fun t => { t with cnt := { t.cnt with ecc := SMap.upd 0 t.cnt.ecc (2 * k + b2n ue) fun x => x + n } }

/-- How many of the words a..a+n-1 are in a list. -/
def countIn (l : List Nat) (a n : Nat) : Nat := (l.filter fun b => decide (a ≤ b) && decide (b < a + n)).length

/-- A read of the words a..a+n-1, which lie in one line, corrects single-bit errors and counts what it meets (R85, R411). -/
def Tile.seen (t : Tile) (a n : Nat) : Tile := (t.eccSeen (eccOf a) false (countIn t.soft a n)).eccSeen (eccOf a) true (countIn t.bad a n)

/-- PCC at a cycle (table of sequencer state): ACLK cycles since the release, saturating; 0 before the first release. -/
def Tile.pccAt (t : Tile) (cyc : Nat) : Nat :=
  match t.tm.relAt with
  | some r => satTo 0xFFFFFFFF (cyc - if cyc < r then t.tm.prevRel.getD r else r)
  | none => 0

/-- The step parity at a cycle: a sy.commit inverts it after its issue cycle (DEDUCED, log entry 91). -/
def Tile.pAt (t : Tile) (cyc : Nat) : Bool :=
  t.tm.p != decide ((t.tm.commits.filter fun c => decide (cyc ≤ c)).length % 2 = 1)

/-- FAULTED at a cycle (R62): the fault of the record has arisen. -/
def Tile.faultedAt (t : Tile) (cyc : Nat) : Bool := t.tfr.valid && decide (t.tfr.cyc ≤ cyc)

/-- The tile has stopped by a cycle: what happens in the cycle of a fault still happens (R219: several faults may arise in one cycle; DEDUCED,
log entry 49). -/
def Tile.stoppedAt (t : Tile) (cyc : Nat) : Bool := t.tfr.valid && decide (t.tfr.cyc < cyc)

/-- The fault record as it reads in a cycle. -/
def Tile.tfrShown (t : Tile) (cyc : Nat) : Tfr := if t.faultedAt cyc then t.tfr else {}

/-- The consequences of a tile's first fault that lie in the tile (R62, R251), once the fault's cycle is over: the Cuff queue and the commands
that wait in engine queues are discarded. -/
def Tile.faultStops (t : Tile) : Tile :=
  { t.both fun t => { t with tfr := { t.tfr with told := true } } with
    tsq := { t.tsq with queue := [], mode := .off, retPend := false, lineBuf := [] }
    engs := t.engs.map fun e => (e.1, { e.2 with waiting := [] }) }

/-- The fault that a record shows. -/
def Tfr.shown (r : Tfr) : FRec := { cause := r.cause, sub := r.sub, eng := r.eng, p := r.p, pc := r.pc, pcc := r.pcc, d0 := r.d0, d1 := r.d1, cyc := r.cyc }

/-- A record that shows a fault. -/
def Tfr.put (r : Tfr) (f : FRec) : Tfr :=
  { r with cause := f.cause, sub := f.sub, eng := f.eng, p := f.p, pc := f.pc, pcc := f.pcc, d0 := f.d0, d1 := f.d1, cyc := f.cyc }

/-- A fault comes before another: the earlier cycle, and in one cycle the lower CAUSE. -/
def FRec.before (a b : FRec) : Bool := decide (a.cyc < b.cyc) || (a.cyc == b.cyc && decide (a.cause < b.cause))

/-- A fault enters a tile's record: the first fault stands in it; of several, the one of the earliest cycle is the first, and of one cycle the lowest CAUSE;
every other fault sets OVF and adds to OVFN (R219). -/
def Tile.record (t : Tile) (cause sub eng pc cyc d0 d1 : Nat) : Tile :=
  let r : FRec := { cause := cause, sub := sub, eng := eng, p := t.pAt cyc, pc := pc, pcc := t.pccAt cyc, d0 := d0, d1 := d1, cyc := cyc }
  if t.tfr.valid then
    let x := { t.tfr with ovf := true, ovfn := satTo 255 (t.tfr.ovfn + 1) }
    if r.before t.tfr.shown then { t with tfr := { x.put r with alt := some t.tfr.shown } }
    else { t with tfr := { x with alt := some (match t.tfr.alt with | some a => if r.before a then r else a | none => r) } }
  else { t with tfr := { (({} : Tfr).put r) with valid := true } }

/-- A tile fault (R62, R219). -/
def Tile.fault (t : Tile) (cause sub eng pc cyc d0 d1 : Nat) : Tile := t.both fun t => t.record cause sub eng pc cyc d0 d1

/-- A fault of a cycle leaves a tile's record. -/
def Tile.erase (t : Tile) (cause cyc d0 : Nat) : Tile :=
  let hit := fun (r : FRec) => r.cause == cause && r.cyc == cyc && r.d0 == d0
  if !t.tfr.valid || t.tfr.told then t
  else
    let x := { t.tfr with ovf := decide (1 < t.tfr.ovfn), ovfn := t.tfr.ovfn - 1, alt := none }
    if hit t.tfr.shown then
      match t.tfr.alt with
      | some a => { t with tfr := x.put a }
      | none => { t with tfr := {} }
    else { t with tfr := { x with alt := t.tfr.alt.filter fun a => !(hit a) } }

/-- A fault of a cycle did not arise after all: what came later in that cycle took away its reason (R247, R251). -/
def Tile.unfault (t : Tile) (cause cyc d0 : Nat) : Tile := t.both fun t => t.erase cause cyc d0

/-- The record of a fault whose cycle a sy.commit or a release has now been found to precede: its P and PCC (R219). -/
def Tile.restamp (t : Tile) : Tile :=
  t.both fun t => if t.tfr.valid && !t.tfr.told then { t with tfr := { t.tfr with p := t.pAt t.tfr.cyc, pcc := t.pccAt t.tfr.cyc } } else t

/-- Set sticky flags of CDC_NUMSTAT (R122) and count in the CVU non-finite counter (R117). -/
def Tile.flag (t : Tile) (f : NFlags) : Tile :=
  t.both fun t => { t with cnt := { t.cnt with
      numstat := { (t.cnt.numstat.or f) with cnt := 0 }
      nfCvu := satTo 0xFFFF (t.cnt.nfCvu + f.cnt)
      dCvu := t.cnt.dCvu + f.cnt
      nfStep := t.cnt.nfStep || f.cnt != 0 } }

/-- Set sticky flags without counting. -/
def Tile.flagOnly (t : Tile) (f : NFlags) : Tile := t.flag { f with cnt := 0 }

/-- Count in the MXE non-finite counter (R107, R148). -/
def Tile.nfMxe (t : Tile) (n : Nat) : Tile :=
  t.both fun t => { t with cnt := { t.cnt with
      nfMxe := satTo 0xFFFF (t.cnt.nfMxe + n)
      dMxe := t.cnt.dMxe + n
      nfStep := t.cnt.nfStep || n != 0 } }

/-- Count in the VXE non-finite counter (R187). -/
def Tile.nfVxe (t : Tile) (n : Nat) : Tile :=
  t.both fun t => { t with cnt := { t.cnt with
      nfVxe := satTo 0xFFFF (t.cnt.nfVxe + n)
      dVxe := t.cnt.dVxe + n
      nfStep := t.cnt.nfStep || n != 0 } }

/-- A counter in a cycle: at the first change in a cycle, the count and the flags at its start are kept. -/
def Lsc.inCyc (l : Lsc) (cyc : Nat) : Lsc :=
  if l.chg = cyc then l else { l with chg := cyc, start := l.value, oflag0 := l.oflag, uflag0 := l.uflag, net := 0, taken := 0 }

/-- The count of the cycle before its grants, not yet held to 0 and 0xFFFF: the count at its start, its signals less its debits (R247). -/
def Lsc.raw (l : Lsc) : Int := l.start + l.net

/-- A signal (1) or a debit (-1) in a cycle (R247): count and flags follow from all of the cycle's. -/
def Lsc.move (l : Lsc) (cyc : Nat) (d : Int) : Lsc :=
  let x := l.inCyc cyc
  let y := { x with net := x.net + d }
  { y with value := min 0xFFFF y.raw.toNat - y.taken, oflag := y.oflag0 || decide (0xFFFF < y.raw), uflag := y.uflag0 || decide (y.raw < 0) }

/-- Waits of a cycle that succeed take their counts (R247). -/
def Lsc.take (l : Lsc) (cyc n : Nat) : Lsc :=
  let x := l.inCyc cyc
  { x with value := x.value - n, taken := x.taken + n }

/-- The count at the start of a cycle, which sy.br reads (R47). -/
def Lsc.startOf (l : Lsc) (cyc : Nat) : Nat := if cyc ≤ l.chg then l.start else l.value

/-- Signal a local counter (R244, R247): the count saturates at 0xFFFF with OFLAG, and LAST takes the agent, of several in one cycle the lowest (R251). -/
def Lsc.signal (c : Lsc) (agent cyc : Nat) : Lsc :=
  { c.move cyc 1 with lvalid := true, agent := if c.lvalid && c.cyc == cyc then min c.agent agent else agent, cyc := max c.cyc cyc }

/-- Signal counter c of a tile in a cycle: an underflow that it makes good did not happen (R251). -/
def Tile.signal (t : Tile) (c agent cyc : Nat) : Tile :=
  let l := t.lscs.get ({} : Lsc) c
  let t1 := { t with lscs := SMap.upd {} t.lscs c fun l => l.signal agent cyc }
  if (l.inCyc cyc).raw = -1 ∧ t.cfg.usat.toNat.testBit c = false then t1.unfault 0x48 cyc c else t1

/-- Debit counter c (R247, R249): below 0 it stays at 0, UFLAG is set, and with USAT = 0 the counter-underflow fault arises. -/
def Tile.debit (t : Tile) (c pc cyc : Nat) : Tile :=
  let l := (t.lscs.get ({} : Lsc) c).move cyc (-1)
  let t1 := { t with lscs := t.lscs.put c l }
  if decide (l.raw < 0) && !(t.cfg.usat.toNat.testBit c) then t1.fault 0x48 0 0 pc cyc c 0 else t1

/-- The value of a local counter. -/
def Tile.lsc (t : Tile) (c : Nat) : Nat := (t.lscs.get {} c).value

end Sys2Proof.Machine
end

