-- ==== Sys2Proof/Machine/Ops.lean ====
section
/-! DEFINITION. The operations of a tile over its memory: pointers and places, the ports and their conflicts, line and
word accesses, random draws, and the accumulator file (R73 to R99, R211 to R214). -/

namespace Sys2Proof.Machine

/-! ## Places (R93 to R97) -/

/-- FMT of a pointer's handle. -/
def Ptr.fmt (p : Ptr) : Nat := fld p.entry 59 56

/-- The handle may be used: VALID = 1, and FMT 15 is treated as VALID = 0 (R94). -/
def Ptr.ok (p : Ptr) : Bool := bit p.entry 63 && p.fmt != 15

/-- SREN of the handle. -/
def Ptr.sren (p : Ptr) : Bool := bit p.entry 60

/-- Length of the place in words. -/
def Ptr.len (p : Ptr) : Nat := fld p.entry 55 38 + 1

/-- Resolve a handle and a view under the step parity (R95, R97). -/
def resolve (handles : SMap (BitVec 64)) (p : Bool) (handle : Nat) (view : Bool) (loff : Nat) : Ptr :=
  let e := handles.get 0 handle
  let pair := bit e 62
  let useB := pair && (p != view)
  { handle := handle, entry := e, base := 8 * (if useB then fld e 37 23 else fld e 22 8),
    viewBad := view && !pair, loff := loff }

/-- The pointer moved on by n lines. -/
def Ptr.adv (p : Ptr) (n : Nat) : Ptr := { p with loff := p.loff + n }

/-- All that refuses an access of n words at word offset off of a pointer's place (R86): causes with DATA0 and DATA1. A handle with VALID = 0 names no place. -/
def Ptr.refusals (p : Ptr) (seg : Word) (off n : Nat) (wr : Bool) : List (Nat × Nat × Nat) :=
  if !p.ok then [(0x13, 0, p.handle)]
  else
    let a := p.base + off
    let sg := a / 0x4000
    (if decide (a < 0x40000) && fld seg (2 * sg + 1) (2 * sg) != 2 then [(0x12, a + sg * 2 ^ 24, 0)] else []) ++
    (if (n == 8 && off % 8 != 0) || decide (p.len < off + n) || decide (0x40000 < p.base + off + n) || (n == 1 && p.fmt == 14 && off % 2 == 1)
      then [(0x14, off % 2 ^ 18, p.handle)] else []) ++
    (if wr && bit p.entry 61 then [(0x15, 0, p.handle)] else []) ++
    (if p.viewBad then [(0x16, 0, p.handle)] else [])

/-- The fault that the record of a refused access shows (R219): that of the lowest CAUSE. -/
def Ptr.refusal (p : Ptr) (seg : Word) (off n : Nat) (wr : Bool) : Option (Nat × Nat × Nat) := (p.refusals seg off n wr).head?

/-- The segment of a word address is on (R87). -/
def Tile.segOn (t : Tile) (a : Nat) : Bool := fld t.cfg.seg (2 * (a / 0x4000) + 1) (2 * (a / 0x4000)) == 2

/-- The states that a write of CDC_SEGSTATE_t leaves: a field written with 3 keeps its value. -/
def segsWritten (old v : Word) : Word :=
  mkWord ((upTo 16).map fun g => (2 * g, if fld v (2 * g + 1) (2 * g) = 3 then fld old (2 * g + 1) (2 * g) else fld v (2 * g + 1) (2 * g)))

/-- A write of CDC_SEGSTATE_t (R87, R88, R91): segments that are off, or go from off to on, hold nothing that was written before (DEDUCED, log entry 62). -/
def Tile.setSegs (t : Tile) (w : Word) : Tile :=
  let v := segsWritten t.cfg.seg w
  let lost := fun (a : Nat) =>
    let g := a / 0x4000
    let old := fld t.cfg.seg (2 * g + 1) (2 * g)
    let new := fld v (2 * g + 1) (2 * g)
    old == 0 || new == 0
  t.both fun t =>
    { t with cfg := { t.cfg with seg := v }, mem := t.mem.filter fun c => !(lost (c.1 / 4)),
             bad := t.bad.filter fun w => !(lost w), soft := t.soft.filter fun w => !(lost w) }

/-- Every segment of a tile put in one state. -/
def Tile.allSegs (t : Tile) (st : Nat) : Tile := t.setSegs (mkWord ((upTo 16).map fun g => (2 * g, st)))

/-! ## Ports and banks (R75 to R85) -/

/-- The banks of two accesses meet in one cycle. -/
def Sched.meets (a b : Sched) : Bool :=
  a.cyc == b.cyc && decide (a.bank < b.bank + b.nb) && decide (b.bank < a.bank + a.nb)

/-- Two scheduled accesses occupy a bank in one cycle (R81). Those of one port other than 7 belong to one engine, or to the exchange's own rule (R233)
(DESIGN CHOICE, log entry 5). -/
def Sched.clashes (a b : Sched) : Bool := a.meets b && !(a.port == b.port && a.port != 7 && !a.hold && !b.hold)

/-- Two scheduled users request port 7 in one cycle (R81). -/
def Sched.port7 (a b : Sched) : Bool := a.cyc == b.cyc && a.port == 7 && b.port == 7

/-- The order of R82: a held accumulate-store wins, then the lower port, then the order of port 7's users; of the TSQ's own accesses the fetch
(DEDUCED, log entry 5). -/
def Sched.beats (a b : Sched) : Bool :=
  if b.hold then false
  else if a.hold then true
  else decide (a.port < b.port) || (a.port == b.port && (decide (a.user < b.user) || (a.user == b.user && decide (b.nb < a.nb))))

/-- The banks that n words at word address a occupy: the first, and how many. -/
def bankOf (a n : Nat) : Nat := if n = 8 then 8 * (a / 8 % 8) else a % 64

/-- The scheduled occupation of an access of n words at word address a. -/
def Who.sched (w : Who) (cyc a n : Nat) (hold : Bool) : Sched :=
  { cyc := cyc, port := w.port, user := w.user, eng := w.eng, pc := w.pc, bank := bankOf a n, nb := n, hold := hold }

/-- Eight zero words. -/
def zeroLine : List Word := List.replicate 8 0

/-- The words a..a+n-1 that are uncorrectable, lowest first (DESIGN CHOICE, log entry 9). -/
def Tile.firstBad (t : Tile) (a n : Nat) : Option Nat :=
  (t.bad.filter fun b => decide (a ≤ b) && decide (b < a + n)).head?

/-- Words stored at a word address with fresh check bits. -/
def Tile.poke (t : Tile) (a : Nat) (ws : List Word) : Tile :=
  { t with mem := t.mem.setWords a ws,
           bad := t.bad.filter fun b => decide (b < a) || decide (a + ws.length ≤ b)
           soft := t.soft.filter fun b => decide (b < a) || decide (a + ws.length ≤ b) }

/-- A cycle's act that needs an access: position among the cycle's acts, the act, word address, number of words, and all that refuses it. -/
structure Req where
  i : Nat
  act : Act
  a : Nat
  n : Nat
  refs : List (Nat × Nat × Nat)
  deriving DecidableEq, Repr

/-- What an allowed access occupies. -/
def Req.sched (r : Req) : Sched := r.act.who.sched r.act.cyc r.a r.n false

/-- An absolute access of the TSQ meets the segment alone (R86). -/
def Tile.segRefusal (t : Tile) (a : Nat) : List (Nat × Nat × Nat) := if t.segOn a then [] else [(0x12, a + a / 0x4000 * 2 ^ 24, 0)]

/-- The line of a table row that an index of gt.gat or gt.sct names; none for 0xFFFF (R199). The indices are the command's line 0. -/
def Flow.rowLine (f : Flow) (u m : Nat) : Option Nat :=
  let idx := lineElem 10 (f.lines.get [] 0) u
  if idx = 0xFFFF then none else some (8 * (fld f.q.w 34 31 + 1) * idx + m)

/-- The access that an act needs: word address, words and what refuses it; none for an act that needs none. -/
def Tile.ask (t : Tile) (a : Act) : Option (Nat × Nat × List (Nat × Nat × Nat)) :=
  let at' := fun (p : Ptr) (off n : Nat) (wr : Bool) => some (p.base + off, n, p.refusals t.cfg.seg off n wr)
  match a.eff with
  | .rd p off n _ => at' p off n false
  | .wr p off n _ => at' p off n true
  | .acs p off _ => at' p off 8 true
  | .recv p off _ _ => at' p off 8 true
  | .row wr p u m _ => ((t.pipe.get {} a.cmd).rowLine u m).bind fun l => at' p (8 * (p.loff + l)) 8 wr
  | .fetch l => some (8 * l, 8, t.segRefusal (8 * l))
  | .look x => some (x, 1, t.segRefusal x)
  | .stash x _ => some (x, 1, t.segRefusal x)
  | .calc _ | .poke _ _ | .commit => none

/-- The list's items numbered from 0. -/
def numbered {α : Type} (l : List α) : List (Nat × α) := (upTo l.length).zip l

/-- The accesses that the acts of a cycle need. -/
def Tile.reqs (t : Tile) (as : List Act) : List Req :=
  (numbered as).filterMap fun x => (t.ask x.2).map fun q => { i := x.1, act := x.2, a := q.1, n := q.2.1, refs := q.2.2 }

/-- What the scheduled accesses of a cycle occupy apart from one of them: an access that R86 refuses occupies nothing (DESIGN CHOICE, log entry 20). -/
def Tile.others (t : Tile) (c : Nat) (rs : List Req) (x : Req) : List Sched :=
  ((rs.filter fun r => r.i != x.i && r.refs.isEmpty).map Req.sched) ++ t.sched.filter fun b => b.cyc == c && !b.yields

/-- The lowest bank that an access loses (R82), if any. -/
def Tile.lostBank (t : Tile) (c : Nat) (rs : List Req) (x : Req) : Option Nat :=
  match (t.others c rs x).filter fun y => x.sched.clashes y && !(x.sched.beats y) with
  | [] => none
  | y :: l => some (minOr 0 ((y :: l).map fun b => max x.sched.bank b.bank))

/-- The user of port 7 that an access loses the port to, if any. -/
def Tile.lostPort (t : Tile) (c : Nat) (rs : List Req) (x : Req) : Option Nat :=
  ((t.others c rs x).find? fun y => x.sched.port7 y && !(x.sched.beats y)).map fun y => y.user

/-- The access is performed: nothing refuses it, and it wins at every bank and at its port (R82). -/
def Tile.performs (t : Tile) (c : Nat) (rs : List Req) (x : Req) : Bool :=
  x.refs.isEmpty && (t.lostBank c rs x).isNone && (t.lostPort c rs x).isNone

/-- The two lowest-numbered ports that request a bank in a cycle (R86), as DATA0 shows them. -/
def Tile.portsAt (t : Tile) (c bank : Nat) (rs : List Req) : Nat :=
  let ss := ((rs.filter fun r => r.refs.isEmpty).map Req.sched) ++ t.sched.filter fun b => b.cyc == c && !b.yields
  let ps := (ss.filter fun b => decide (b.bank ≤ bank) && decide (bank < b.bank + b.nb)).foldl (fun l b => insSorted b.port l) []
  ps.getD 0 0 * 2 ^ 8 + ps.getD 1 (ps.getD 0 0) * 2 ^ 12

/-- Raise the faults of a cycle's accesses: what refuses them (R86), and of the suppressed ones the conflict, lowest bank first (R81, R82). -/
def Tile.accessFaults (t : Tile) (c : Nat) (rs : List Req) : Tile :=
  let refuse := fun (t : Tile) (x : Req) => x.refs.foldl (fun t r => t.fault r.1 0 x.act.who.eng x.act.who.pc c r.2.1 r.2.2) t
  let lost := (rs.filter fun x => x.refs.isEmpty).filterMap fun x => (t.lostBank c rs x).map fun b => (b, x)
  let banks := lost.foldl (fun l x => insSorted x.1 l) []
  let t1 := rs.foldl refuse t
  let t2 := banks.foldl (fun t1 b => (lost.filter fun x => x.1 == b).foldl (fun t1 x =>
    t1.fault 0x10 0 x.2.act.who.eng x.2.act.who.pc c (b + t.portsAt c b rs) 0) t1) t1
  rs.foldl (fun t2 x => if x.refs.isEmpty then
      match t.lostPort c rs x with
      | some u => t2.fault 0x11 0 x.act.who.eng x.act.who.pc c (min x.act.who.user u + max x.act.who.user u * 16) 0
      | none => t2
    else t2) t2

/-- Keep a line, or what stands for one, among those that a command holds. -/
def Tile.putLine (t : Tile) (cmd key : Nat) (ws : List Word) : Tile :=
  { t with pipe := SMap.upd {} t.pipe cmd fun (f : Flow) => { f with lines := f.lines.put key ws } }

/-- Keep a list of values among those that a command holds. -/
def Tile.putVals (t : Tile) (cmd key : Nat) (xs : List Nat) : Tile :=
  { t with pipe := SMap.upd {} t.pipe cmd fun (f : Flow) => { f with vals := f.vals.put key xs } }

/-- What an act reads into, if it reads. -/
def Eff.reads : Eff → Option Nat
  | .rd _ _ _ key => some key
  | .row false _ _ _ key => some key
  | .fetch _ => some 0
  | .look _ => some 1
  | _ => none

/-- A cycle's read (R78, R85): a suppressed or uncorrectable one delivers zero words. -/
def Tile.readReq (t : Tile) (c : Nat) (x : Req) (key : Nat) (ok : Bool) : Tile :=
  if ok then
    match t.firstBad x.a x.n with
    | some b => ((t.fault 0x17 0 x.act.who.eng x.act.who.pc c b 0).seen x.a x.n).putLine x.act.cmd key (List.replicate x.n 0)
    | none => (t.seen x.a x.n).putLine x.act.cmd key (t.mem.words x.a x.n)
  else t.putLine x.act.cmd key (List.replicate x.n 0)

/-- Add FP32 words to memory words at the banks (R80, R107): an uncorrectable old word counts as zero and faults. -/
def Tile.accWords (nc : NumCfg) (w : Who) (cyc : Nat) : Nat → List Word → Tile → Tile
  | _, [], t => t
  | a, x :: r, t =>
    let isBad := t.bad.contains a
    let old := if isBad then 0 else (t.mem.word a).toNat
    let s := fAdd nc 0 old x.toNat
    let t1 := ((t.seen a 1).poke a [BitVec.ofNat 32 s.1]).flagOnly s.2
    let t2 := t1.nfMxe (b2n (nonFinite 0 s.1))
    let t3 := if isBad then t2.fault 0x17 0 w.eng w.pc cyc a 0 else t2
    Tile.accWords nc w cyc (a + 1) r t3

/-- The bank of an accumulate-store stays held in the cycle after its access (R80). -/
def Tile.holdBank (t : Tile) (w : Who) (cyc a : Nat) : Tile := { t with sched := w.sched (cyc + 1) a 8 true :: t.sched }

/-! ## Random draws (R211 to R214) -/

/-- The high and low words of a 32 x 32 product. -/
def mulHiLo (a b : Nat) : Nat × Nat := (a * b / 2 ^ 32, a * b % 2 ^ 32)

/-- n rounds of Philox-4x32 with the key raised between rounds. -/
def philoxRounds : Nat → Nat → Nat → Nat × Nat × Nat × Nat → Nat × Nat × Nat × Nat
  | 0, _, _, c => c
  | n + 1, k0, k1, (c0, c1, c2, c3) =>
    let a := mulHiLo 0xD2511F53 c0
    let b := mulHiLo 0xCD9E8D57 c2
    philoxRounds n ((k0 + 0x9E3779B9) % 2 ^ 32) ((k1 + 0xBB67AE85) % 2 ^ 32)
      (Nat.xor (Nat.xor b.1 c1) k0, b.2, Nat.xor (Nat.xor a.1 c3) k1, a.2)

/-- A block of the generator (R211): words x0 to x3 for a stream, a position, STEP and the logical tile number. -/
def rngBlock (e : Env) (step : Word) (stream pos : Nat) : List Nat :=
  let x := philoxRounds 10 e.k0.toNat e.k1.toNat
    (pos % 2 ^ 32, pos / 2 ^ 32 % 2 ^ 16, step.toNat, stream % 16 * 2 ^ 28 + e.num % 2 ^ 13)
  [x.1, x.2.1, x.2.2.1, x.2.2.2]

/-- Draw number d of a stream, counted from the last return to position 0 (R212). -/
def rngDraw (e : Env) (step : Word) (stream d : Nat) : Nat :=
  ((rngBlock e step stream (d / 8 % 2 ^ 48)).getD (d % 8 / 2) 0) / 2 ^ (16 * (d % 2)) % 2 ^ 16

/-- STEP in a cycle: a sy.commit raises it after its issue cycle (R213; DEDUCED, log entry 91). -/
def Tile.stepAt (t : Tile) (cyc : Nat) : Word :=
  t.tm.step - BitVec.ofNat 32 (t.tm.commits.filter fun c => decide (cyc ≤ c)).length

/-- The next n draws of a stream, in a cycle. -/
def Tile.draws (t : Tile) (e : Env) (cyc stream n : Nat) : List Nat × Tile :=
  let d := t.rng.get 0 stream
  ((upTo n).map fun i => rngDraw e (t.stepAt cyc) stream (d + i), { t with rng := t.rng.put stream (d + n) })

/-- The draws of a store (R109, R111): one for each of n elements where the handle has SREN = 1 and the conversion's class
rounds, from stream 1 for a command of a Cuff kernel and stream 0 otherwise. -/
def Tile.storeDraws (t : Tile) (e : Env) (p : Ptr) (cyc src n : Nat) (cuff : Bool) : List (Option Nat) × Tile :=
  if p.sren && srClass src p.fmt then
    let r := t.draws e cyc (b2n cuff) n
    (r.1.map some, r.2)
  else (List.replicate n none, t)

/-- Convert a list of elements with their draws (R113), with the flags of all. -/
def convertAll (nc : NumCfg) (src dst : Nat) (iov : Bool) : List Nat → List (Option Nat) → List Nat × NFlags
  | [], _ => ([], {})
  | x :: r, ds =>
    let a := convert nc src dst (ds.headD none) iov x
    let b := convertAll nc src dst iov r (ds.drop 1)
    (a.1 :: b.1, a.2.or b.2)

/-! ## The accumulator file (R129, R130) -/

/-- Element n of the file: block n / 256, row, column. -/
def Mxe.elem (m : Mxe) (n : Nat) : Nat := (m.acc.get 0 n).toNat

/-- Store elements from element n on. -/
def Mxe.setElems : Mxe → Nat → List Nat → Mxe
  | m, _, [] => m
  | m, n, x :: r => Mxe.setElems { m with acc := m.acc.set 0 n (BitVec.ofNat 32 x) } (n + 1) r

/-- The 256 elements of a block. -/
def Mxe.block (m : Mxe) (b : Nat) : List Nat := (upTo 256).map fun i => m.elem (256 * b + i)

/-- A shadow with every field zero. -/
def Shadow.zero (valid : Bool) : Shadow :=
  let z := List.replicate 16 0
  { pc := z, pr := z, mc := z, mr := z, valid := valid, imark := false }

/-- Mark the shadow of a block invalid (R159). -/
def Mxe.spoil (m : Mxe) (b : Nat) : Mxe :=
  { m with shadow := m.shadow.put b { (m.shadow.get {} b) with valid := false } }

/-- Lines cut out of a list of elements, k per line, packed in a format. -/
def packLines (f : Nat) (es : List Nat) : List (List Word) :=
  let k := perLine f
  (upTo (cdiv es.length k)).map fun j => packLine f ((es.drop (j * k)).take k)

/-- All the elements of a list of lines. -/
def lineElems (f : Nat) (ls : List (List Word)) : List Nat :=
  ls.flatMap fun l => (upTo (perLine f)).map fun i => lineElem f l i

end Sys2Proof.Machine
end

