-- ==== Sys2Proof/Machine/Operands.lean ====
section
/-! DEFINITION. The fields of an instruction word (R40), the operation table of every engine with its operand bits, and
the conditions that make an encoding illegal (R41). -/

namespace Sys2Proof.Machine

/-- ENG. -/
def iEng (w : IWord) : Nat := fld w 63 60
/-- OP. -/
def iOp (w : IWord) : Nat := fld w 59 52
/-- SIGEN. -/
def iSigen (w : IWord) : Bool := bit w 51
/-- SIGCTR. -/
def iSigctr (w : IWord) : Nat := fld w 50 47
/-- WAITEN. -/
def iWaiten (w : IWord) : Bool := bit w 46
/-- WAITCTR. -/
def iWaitctr (w : IWord) : Nat := fld w 45 42

/-- The counter a command signals at its completion. -/
def iSig (w : IWord) : Option Nat := if iSigen w then some (iSigctr w) else none

/-- The bits lo..hi of an operand mask. -/
def span (hi lo : Nat) : Nat := (2 ^ (hi - lo + 1) - 1) * 2 ^ lo

/-- The defined operations: engine, OP and the operand bits the operation's table lists. -/
def opTable : List (Nat × Nat × Nat) :=
  [ (0, 0x00, 0), (0, 0x01, span 41 33 + span 17 0), (0, 0x02, span 31 0), (0, 0x03, span 41 38), (0, 0x04, span 41 37),
    (0, 0x05, span 41 21 + span 19 0), (0, 0x06, span 41 20), (0, 0x08, span 41 17), (0, 0x09, 0), (0, 0x0A, 0),
    (0, 0x0B, 0), (0, 0x0C, span 17 0), (0, 0x0D, 0), (0, 0x0E, 0) ]
  ++
  [ (1, 0x01, span 41 16), (1, 0x02, span 39 16), (1, 0x10, span 41 20), (1, 0x20, span 41 30), (1, 0x21, span 41 30),
    (1, 0x22, span 41 30), (1, 0x23, span 41 30), (1, 0x24, span 41 30), (1, 0x25, span 41 30),
    (2, 0x01, span 41 8), (2, 0x10, span 41 13), (2, 0x20, span 35 10) ]
  ++
  [ (3, 0x01, span 41 16), (3, 0x10, span 41 30 + 3), (3, 0x11, span 41 40 + 3), (3, 0x12, span 41 31 + 3),
    (3, 0x13, span 41 31 + 3), (3, 0x14, span 41 26 + 3),
    (4, 0x01, span 41 16), (4, 0x10, span 41 30 + 3), (4, 0x11, span 41 38 + 3), (4, 0x12, span 41 22 + 3),
    (5, 0x01, span 41 16), (5, 0x10, span 41 28 + 3), (5, 0x11, span 41 36 + 3) ]
  ++
  [ (6, 0x01, span 41 16), (6, 0x10, span 41 11 + 1), (6, 0x11, span 41 16 + 1), (6, 0x20, span 41 8 + 1),
    (6, 0x21, span 41 36 + span 35 25 + 1), (6, 0x22, span 41 38), (6, 0x24, span 41 24 + 1), (6, 0x25, span 41 36 + 1) ]
  ++
  [ (7, 0x01, span 41 16), (7, 0x02, span 41 40 + span 38 0), (7, 0x10, span 41 2 + 1), (7, 0x11, span 41 2 + 1),
    (8, 0x10, span 41 32), (8, 0x11, span 41 32), (8, 0x12, span 41 32), (8, 0x18, span 17 3), (8, 0x19, span 41 20),
    (8, 0x20, span 17 0), (8, 0x21, span 17 0), (8, 0x22, span 41 40), (8, 0x28, span 17 3), (8, 0x30, span 41 3),
    (8, 0x38, span 41 18) ]

/-- The operand bits of a defined operation; none for an OP the engine does not define. -/
def opMask (eng op : Nat) : Option Nat :=
  (opTable.find? fun r => r.1 == eng && r.2.1 == op).map fun r => r.2.2

/-- The operation's only use is a feature that ID_CAP lacks (R502). -/
def opLacks (caps : Word) (eng op : Nat) : Bool :=
  (eng == 5 && !bit caps 0) || (eng == 1 && op == 0x24 && !bit caps 1) || (eng == 1 && op == 0x02 && !bit caps 3)
    || (eng == 6 && (op == 0x24 || op == 0x25) && !bit caps 6)

/-- A field holds a value its table reserves (R47, R174, R192, R194, R225). -/
def fieldReserved (w : IWord) : Bool :=
  match iEng w, iOp w with
  | 0, 0x05 => decide (10 ≤ fld w 24 21)
  | 2, 0x01 => fld w 41 40 == 3
  | 3, 0x01 => fld w 41 40 == 3
  | 3, 0x11 => fld w 41 40 == 3
  | 3, 0x14 => decide (fld w 29 26 < 2)
  | 4, 0x01 => fld w 41 40 == 3
  | 5, 0x10 => fld w 35 28 == 255
  | 6, 0x10 => bit w 41 && fld w 40 34 != 0
  | 8, 0x22 => fld w 41 40 == 3
  | _, _ => false

/-- The encoding is reserved or unavailable (R41, R47, R134, R174, R192, R224, R502). -/
def illegalEnc (caps : Word) (w : IWord) : Bool :=
  match opMask (iEng w) (iOp w) with
  | none => true
  | some m =>
    (w.toNat % 2 ^ 42) &&& m != w.toNat % 2 ^ 42 || opLacks caps (iEng w) (iOp w) || fieldReserved w
      || (iEng w == 0 && (iSigen w || iWaiten w))

/-- The handle a .ptr command, mx.zmap or vx.ptr names, with its view and line offset; handle 255 in a kernel run is the
kernel's argument handle (R47). -/
def iHandle (w : IWord) : Nat × Bool × Nat :=
  if iEng w = 2 then (fld w 36 29, bit w 37, fld w 28 14) else (fld w 38 31, bit w 39, fld w 30 16)

/-- Resolve the place an instruction names in its issue cycle (R95, R136). -/
def Tile.resolveFor (t : Tile) (w : IWord) (inKernel : Bool) (arg : Nat) : Ptr :=
  let h := iHandle w
  resolve t.tab.handles t.tm.p (if inKernel && h.1 == 255 then arg else h.1) h.2.1 h.2.2

/-- The key of a pointer: engine and PSEL. -/
def ptrKey (eng psel : Nat) : Nat := 4 * eng + psel

/-- A pointer of an engine. -/
def Tile.ptr (t : Tile) (eng psel : Nat) : Ptr := t.ptrs.get {} (ptrKey eng psel)

/-- Load a pointer. -/
def Tile.setPtr (t : Tile) (eng psel : Nat) (p : Ptr) : Tile := { t with ptrs := t.ptrs.put (ptrKey eng psel) p }

/-- Advance a pointer by n lines where ADV is set. -/
def Tile.advPtr (t : Tile) (adv : Bool) (eng psel n : Nat) : Tile :=
  if adv then t.setPtr eng psel ((t.ptr eng psel).adv n) else t

/-- An engine's queue. -/
def Tile.eng (t : Tile) (e : Nat) : EngQ := t.engs.get {} e

/-- Change an engine's queue. -/
def Tile.updEng (t : Tile) (e : Nat) (f : EngQ → EngQ) : Tile := { t with engs := SMap.upd {} t.engs e f }

/-- Raise the handle-invalid fault in cycle L for each pointer of a list that has VALID = 0 (R133, R86). -/
def Tile.badHandles (t : Tile) (eng pc l : Nat) (ps : List Ptr) : Tile :=
  ps.foldl (fun t p => if p.ok then t else t.fault 0x13 0 eng pc l 0 p.handle) t

/-- A command in execution: the command, its engine's environment and the cycle L in which it leaves its queue. -/
structure Job where
  q : QCmd
  env : Env
  l : Nat
  deriving DecidableEq, Repr

/-- A command that has begun: it completes in a cycle, and then signals where SIGEN is set (R135). -/
def Tile.finish (t : Tile) (j : Job) (done : Nat) : Tile :=
  t.updEng (iEng j.q.w) fun e =>
    { e with running := e.running ++ [{ done := done, sig := iSig j.q.w }], lastDone := max e.lastDone done }

end Sys2Proof.Machine
end

