-- ==== Sys2Proof/Machine/Mxe.lean ====
section
/-! DEFINITION. The matrix engine (R129 to R164): what each mx. command does from the cycle L in which it leaves its queue. -/

namespace Sys2Proof.Machine

/-! ## Commands in execution -/

/-- The key of a command among those in flight: at most one leaves an engine's queue in a cycle. -/
def Job.key (j : Job) : Nat := 16 * j.l + iEng j.q.w

/-- An act of a command on a port. -/
def Job.act (j : Job) (port cyc : Nat) (e : Eff) : Act :=
  { cyc := cyc, cmd := j.key, who := { eng := iEng j.q.w, pc := j.q.pc, port := port, user := if port = 7 then iEng j.q.w - 2 else 0 }, eff := e }

/-- A scheduled line read: line m of a pointer's stream (R136) into a key. -/
def Job.rdLine (j : Job) (port cyc : Nat) (p : Ptr) (m key : Nat) : Act := j.act port cyc (.rd p (8 * (p.loff + m)) 8 key)

/-- A scheduled line write: an output to line m of a pointer's stream. -/
def Job.wrLine (j : Job) (port cyc : Nat) (p : Ptr) (m out : Nat) : Act := j.act port cyc (.wr p (8 * (p.loff + m)) 8 out)

/-- The command in execution, with the places and the streams that it works on. -/
def Job.flow (j : Job) (ps : List Ptr) (vs : List VStream) : Flow := { q := j.q, env := j.env, l := j.l, ps := ps, vs := vs }

/-- Insert an act in the order of the cycles. -/
def insAct (a : Act) : List Act → List Act
  | [] => [a]
  | b :: r => if a.cyc ≤ b.cyc then a :: b :: r else b :: insAct a r

/-- A command's acts join those in flight (log entry 4). -/
def Tile.plan (t : Tile) (key : Nat) (f : Flow) (as : List Act) : Tile :=
  let t1 := t.both fun t => { t with pipe := t.pipe.put key f }
  { t1 with base := some (t1.base.getD t1.core), acts := as.foldr insAct t1.acts }

/-- MXE command fault (R161): subcode and block. -/
def Tile.mxFault (t : Tile) (j : Job) (sub : Nat) : Tile :=
  t.fault 0x20 sub 1 j.q.pc j.l (fld j.q.w 41 39) 0

/-- The array accepts its next command from a cycle. -/
def Tile.mxArray (t : Tile) (c : Nat) : Tile := t.updEng 1 fun e => { e with accept := c }

/-- The drain unit accepts its next command from a cycle. -/
def Tile.mxDrain (t : Tile) (c : Nat) : Tile := t.updEng 1 fun e => { e with accept2 := c }

/-- The finished-tile queue is configured, and the package has it (R132, R502) (DEDUCED, log entry 63). -/
def Tile.e7 (t : Tile) (e : Env) : Bool := t.cfg.e7q && bit e.caps 1

/-- ACC breaches R131 or R132. -/
def Tile.badBlock (t : Tile) (j : Job) (acc : Nat) (cmp : Bool) : Bool :=
  (cmp && acc % 2 == 1) || (t.e7 j.env && decide (4 ≤ acc))

/-- mx.ptr (R136). -/
def Tile.runMxPtr (t : Tile) (j : Job) : Tile :=
  (t.setPtr 1 (fld j.q.w 41 40) j.q.ptr).finish j j.l

/-- The 256 bits of a line. -/
def lineBits (ws : List Word) : BitVec 256 :=
  BitVec.ofNat 256 ((numbered ws).foldl (fun a x => a + x.2.toNat * 2 ^ (32 * x.1)) 0)

/-- mx.zmap (R137): the line that it reads is in force from the cycle of its delivery on. -/
def Tile.runMxZmap (t : Tile) (j : Job) : Tile :=
  let d := j.l + j.q.pads.latency 1
  ((t.plan j.key (j.flow [] []) [j.rdLine 0 (j.l + 1) j.q.ptr 0 0, j.act 0 d (.calc 0)]).mxArray (j.l + 1)).finish j (d + 1)

/-- The union of a list of flag settings. -/
def flagsOf : List NFlags → NFlags
  | [] => {}
  | f :: r => f.or (flagsOf r)

/-! ## mx.mma -/

/-- A class of R139: twice "ac per k", elements per line of A and B, group size, integer, and the K quantum (R140). -/
structure MClass where
  c2 : Nat
  e : Nat
  g : Nat
  int : Bool
  q : Nat
  deriving DecidableEq, Repr

/-- The allowed operand pairs (R139) with the quantum for SPARSE (R140). -/
def mmaClass (fa fb : Nat) (x3 : Bool) (sparse : Nat) : Option MClass :=
  let qs (d s1 s2 : Nat) := if sparse = 0 then d else if sparse = 1 then s1 else s2
  if x3 then
    (if fa = 0 ∧ fb = 0 then some ⟨12, 8, 1, false, qs 1 16 32⟩ else none)
  else match fa, fb with
  | 8, 8 => some ⟨1, 64, 8, false, qs 4 16 32⟩
  | 12, 12 => some ⟨1, 64, 8, true, qs 4 16 32⟩
  | 6, 6 | 6, 7 | 7, 6 | 7, 7 => some ⟨2, 40, 4, false, qs 5 80 160⟩
  | 4, 4 | 4, 5 | 5, 4 | 5, 5 => some ⟨2, 32, 4, false, qs 2 16 32⟩
  | 11, 11 => some ⟨2, 32, 4, true, qs 2 16 32⟩
  | 2, 2 | 2, 3 | 3, 2 | 3, 3 => some ⟨4, 16, 1, false, qs 1 16 32⟩
  | 10, 10 => some ⟨8, 16, 1, true, qs 1 16 32⟩
  | 1, 1 => some ⟨8, 8, 1, false, qs 1 16 32⟩
  | 0, 0 => some ⟨16, 8, 1, false, qs 1 16 32⟩
  | _, _ => none

/-- The cycle of a line read of one port of an mx.mma (R142): access i of n in a command of N cycles. -/
def mmaCycle (l nn n i : Nat) : Nat := l + 1 + i * nn / n

/-- A kept or dense element of A: its row, its logical k and its value. -/
structure ATerm where
  row : Nat
  k : Nat
  v : FVal
  deriving DecidableEq, Repr

/-- A quadrant is skipped for row i, column j and k (R137, R150). -/
def skipped (skip : BitVec 256) (i j k : Nat) : Bool :=
  bit skip (2 * (k / 8) + i / 8) || bit skip (128 + 2 * (k / 8) + j / 8)

/-- A product with a multiplier error (R158): its significand product changed by the error. -/
def FVal.disturb (v : FVal) (d : Int) : FVal :=
  match v with
  | .fin s m e => .fin s ((m : Int) + d).toNat e
  | x => x

/-- The exact sum of a list of values; an empty list, such as a group whose products are all pruned or skipped, sums to +0 (DESIGN CHOICE, log entry 80). -/
def sumVals : List FVal → FVal
  | [] => .fin false 0 0
  | x :: r => r.foldl FVal.add x

/-- A group sum that overflows when rounded to FP32 is an infinity of its sign (R144). -/
def groupSum (v : FVal) : FVal :=
  match v with
  | .fin s m e => if (⟨8, 23, 127, 0⟩ : FPar).overflowRne m e then .inf s else v
  | x => x

/-- Everything an mx.mma works on: class, K, SPARSE, the formats of its operands and the lines read (line m of PA at key 3 m, of PB at 3 m + 1, metadata line n at
3 n + 2), the skip register where ZSKIP is set, the command's fields and the number configuration. -/
structure MmaIn where
  cls : MClass
  k : Nat
  sp : Nat
  x3 : Bool
  iov : Bool
  fa : Nat
  fb : Nat
  lines : SMap (List Word)
  skip : Option (BitVec 256)
  err : Option MulErr
  nc : NumCfg
  deriving DecidableEq, Repr

/-- Element n of a stream whose line m is at key 3 m + o. -/
def MmaIn.code (x : MmaIn) (f o n : Nat) : Nat := lineElem f (x.lines.get [] (3 * (n / x.cls.e) + o)) (n % x.cls.e)

/-- Logical k of a unit of sparse A (R149). -/
def MmaIn.unit (x : MmaIn) : Nat := if x.sp = 1 then 16 else 32

/-- The elements of A at a logical k: row and code. Dense A (R141): element 16 k + i of the stream. Sparse A (R149): of the kept elements of k's group within its unit,
those whose metadata names k. -/
def MmaIn.aCodes (x : MmaIn) (k : Nat) : List (Nat × Nat) :=
  if x.sp = 0 then (upTo 16).map fun i => (i, x.code x.fa 0 (16 * k + i))
  else
    let u := x.unit
    let s := if x.sp = 1 then 2 else 1
    let e := x.cls.e
    let a := cdiv 128 e
    let mb := (lineBits (x.lines.get [] (3 * (k / u) + 2))).toNat
    (upTo (16 * s)).filterMap fun y =>
      let n := k % u / 4 * 16 * s + y
      if mb / 2 ^ (2 * n) % 4 = k % 4 then some (n / s % 16, x.code x.fa 0 (e * (k / u * a) + n)) else none

/-- The elements of A at k, with the flushes of R119. Widening them counts nothing in the CVU counter (DESIGN CHOICE, log entry 81). -/
def MmaIn.aAt (x : MmaIn) (k : Nat) : List ATerm := (x.aCodes k).map fun c => { row := c.1, k := k, v := (operand x.nc x.fa c.2).1 }

/-- B's element at k and column j. -/
def MmaIn.bAt (x : MmaIn) (k j : Nat) : FVal := (operand x.nc x.fb (x.code x.fb 1 (16 * k + j))).1

/-- The flags of the operands at k. -/
def MmaIn.opFlags (x : MmaIn) (k : Nat) : NFlags :=
  let split := fun (v : FVal × NFlags) => if x.x3 then v.2.or (bf16Split x.nc v.1).2 else v.2
  (flagsOf ((x.aCodes k).map fun c => split (operand x.nc x.fa c.2))).or (flagsOf ((upTo 16).map fun j => split (operand x.nc x.fb (x.code x.fb 1 (16 * k + j)))))

/-- A product is formed: it is not in a skipped quadrant. -/
def MmaIn.forms (x : MmaIn) (i j k : Nat) : Bool :=
  match x.skip with
  | some s => !(skipped s i j k)
  | none => true

/-- One product (R144, R127, R128), disturbed where the command carries a multiplier error for it. -/
def MmaIn.prod (x : MmaIn) (i j k : Nat) (a : FVal) : FVal :=
  let p := if x.x3 then bf16x3 x.nc a (x.bAt k j) else a.mul (x.bAt k j)
  match x.err with
  | some e => if e.row = i ∧ e.col = j ∧ e.k = k then p.disturb e.add else p
  | none => p

/-- The products of element (i, j) in group g (R144). -/
def MmaIn.products (x : MmaIn) (i j g : Nat) : List FVal :=
  (upTo x.cls.g).flatMap fun d =>
    let k := g * x.cls.g + d
    if k < x.k && x.forms i j k then
      ((x.aAt k).filter fun t => t.row == i).map fun t => x.prod i j k t.v
    else []

/-- The exact integer of a finite value. -/
def FVal.int : FVal → Int
  | .fin s m e => sig s (shiftI m e)
  | _ => 0

/-- One FP element after all its groups (R144): one rounding per group. -/
def MmaIn.accFp (x : MmaIn) (i j : Nat) : List Nat → Nat → NFlags → Nat × NFlags
  | [], c, f => (c, f)
  | g :: r, c, f =>
    let o := operand x.nc 0 c
    let s := arith x.nc 0 (o.1.add (groupSum (sumVals (x.products i j g))))
    MmaIn.accFp x i j r s.1 ((f.or o.2).or s.2)

/-- One pair element after all its groups (R145). -/
def MmaIn.accPair (x : MmaIn) (i j : Nat) : List Nat → Nat → Nat → NFlags → (Nat × Nat) × NFlags
  | [], h, l, f => ((h, l), f)
  | g :: r, h, l, f =>
    let o := pairVal x.nc h l
    let s := pairOf x.nc (o.1.add (groupSum (sumVals (x.products i j g))))
    MmaIn.accPair x i j r s.1.1 s.1.2 ((f.or o.2).or s.2)

/-- One INT32 element after all its groups (R146). -/
def MmaIn.accInt (x : MmaIn) (i j : Nat) : List Nat → Nat → NFlags → Nat × NFlags
  | [], c, f => (c, f)
  | g :: r, c, f =>
    let s := (x.products i j g).foldl (fun a v => a + v.int) 0
    let y := intNarrow 32 x.iov (sint 32 c + s)
    MmaIn.accInt x i j r y.1 (f.or y.2)

/-- |v|. -/
def FVal.abs (v : FVal) : FVal := v.withSign false

/-- A value rounded to FP32 (for the predictions of R159). -/
def round32 (nc : NumCfg) (v : FVal) : FVal := valOf 0 (arith nc 0 v).1

/-- The prediction terms of one k for a column j: the rounded column sum of A times B(k, j), over the products formed;
mag takes magnitudes (R159). -/
def MmaIn.colTerm (x : MmaIn) (mag : Bool) (j k : Nat) : FVal :=
  let as := ((x.aAt k).filter fun t => x.forms t.row j k).map fun t => if mag then t.v.abs else t.v
  let b := if mag then (x.bAt k j).abs else x.bAt k j
  (round32 x.nc (sumVals as)).mul b

/-- The prediction term of one k for a row i. -/
def MmaIn.rowTerm (x : MmaIn) (mag : Bool) (i k : Nat) : FVal :=
  let bs := ((upTo 16).filter fun j => x.forms i j k).map fun j => if mag then (x.bAt k j).abs else x.bAt k j
  (sumVals (((x.aAt k).filter fun t => t.row == i).map fun t => if mag then t.v.abs else t.v)).mul (round32 x.nc (sumVals bs))

/-- A prediction after all the groups of a command. -/
def MmaIn.predict (x : MmaIn) (term : Nat → FVal) : List Nat → Nat → Nat
  | [], c => c
  | g :: r, c =>
    let ts := ((upTo x.cls.g).filter fun d => decide (g * x.cls.g + d < x.k)).map fun d => term (g * x.cls.g + d)
    MmaIn.predict x term r (arith x.nc 0 ((operand x.nc 0 c).1.add (groupSum (sumVals ts)))).1

/-- The logical k of some groups of a command. -/
def MmaIn.ks (x : MmaIn) (gs : List Nat) : List Nat :=
  gs.flatMap fun g => ((upTo x.cls.g).map fun d => g * x.cls.g + d).filter fun k => decide (k < x.k)

/-- An integer prediction: the terms' sum wraps in INT32. -/
def MmaIn.predictInt (x : MmaIn) (term : Nat → Int) (gs : List Nat) (c : Nat) : Nat := uintOf 32 ((x.ks gs).foldl (fun a k => a + term k) (c : Int))

/-- The integer term of a column or a row: sums wrap in INT32 (R159). -/
def MmaIn.colTermInt (x : MmaIn) (j k : Nat) : Int :=
  ((((x.aAt k).filter fun t => x.forms t.row j k).foldl (fun a t => a + t.v.int) 0) * (x.bAt k j).int)

/-- The integer term of row i. -/
def MmaIn.rowTermInt (x : MmaIn) (i k : Nat) : Int :=
  ((((x.aAt k).filter fun t => t.row == i).foldl (fun a t => a + t.v.int) 0)
    * (((upTo 16).filter fun j => x.forms i j k).foldl (fun a j => a + (x.bAt k j).int) 0))

/-- The shadow after some groups of a command with CHK = 1 (R159). -/
def MmaIn.shadow (x : MmaIn) (gs : List Nat) (sat : Bool) (s : Shadow) : Shadow :=
  let ix := upTo 16
  if x.cls.int then
    { s with
      pc := ix.map fun j => x.predictInt (x.colTermInt j) gs (s.pc.getD j 0)
      pr := ix.map fun i => x.predictInt (x.rowTermInt i) gs (s.pr.getD i 0)
      imark := s.imark || sat }
  else
    { s with
      pc := ix.map fun j => x.predict (x.colTerm false j) gs (s.pc.getD j 0)
      pr := ix.map fun i => x.predict (x.rowTerm false i) gs (s.pr.getD i 0)
      mc := ix.map fun j => x.predict (x.colTerm true j) gs (s.mc.getD j 0)
      mr := ix.map fun i => x.predict (x.rowTerm true i) gs (s.mr.getD i 0) }

/-- The residue of the disturbed product differs (R158): the error names a product that is formed and changes it by no
multiple of 7. -/
def MmaIn.residue (x : MmaIn) : Bool :=
  match x.err with
  | some e => e.add % 7 != 0 && decide (e.row < 16) && decide (e.col < 16) && decide (e.k < x.k) && x.forms e.row e.col e.k
      && ((x.aAt e.k).any fun t => t.row == e.row)
  | none => false

/-- What the operand checks of an mx.mma refuse (R131, R132, R139, R140, R502): a subcode of R161; of several breaches the first in the order here, and CMP = 1 with
an integer class is a format breach (DESIGN CHOICE, log entry 82). -/
def Tile.mmaBreach (t : Tile) (j : Job) : Option Nat :=
  let w := j.q.w
  let sp := fld w 27 26
  let kk := fld w 38 28 + 1
  let cls := mmaClass (t.ptr 1 0).fmt (t.ptr 1 1).fmt (bit w 24) sp
  if (bit w 24 && !bit j.env.caps 4) || ((sp == 1 || sp == 2) && !bit j.env.caps 2) || (bit w 23 && !bit j.env.caps 3) then some 7
  else match cls with
  | none => some 1
  | some c =>
    if bit w 25 && c.int then some 1
    else if sp != 3 && kk % c.q != 0 then some 2
    else if bit w 23 && (decide (512 < kk) || kk % 8 != 0) then some 2
    else if sp == 3 then some 3
    else if t.badBlock j (fld w 41 39) (bit w 25) then some 4
    else none

/-- One group of an mx.mma on its block or pair block (R144 to R146): each element as it was before the cycle, with the group added; and the flags. -/
def Tile.mmaGroup (t : Tile) (old : Mxe) (x : MmaIn) (acc : Nat) (cmp : Bool) (g : Nat) : Tile × NFlags :=
  let ix := upTo 256
  if cmp then
    let rs := ix.map fun n => x.accPair (n / 16) (n % 16) [g] (old.elem (256 * acc + n)) (old.elem (256 * (acc + 1) + n)) {}
    (t.setMxe ((t.mxe.setElems (256 * acc) (rs.map fun r => r.1.1)).setElems (256 * (acc + 1)) (rs.map fun r => r.1.2)), flagsOf (rs.map fun r => r.2))
  else
    let rs := ix.map fun n =>
      let c := old.elem (256 * acc + n)
      if x.cls.int then x.accInt (n / 16) (n % 16) [g] c {} else x.accFp (n / 16) (n % 16) [g] c {}
    (t.setMxe (t.mxe.setElems (256 * acc) (rs.map fun r => r.1)), flagsOf (rs.map fun r => r.2))

/-- The class of a command's operands, as its places in flight give it. -/
def Flow.cls (f : Flow) : MClass :=
  (mmaClass (f.ps.getD 0 {}).fmt (f.ps.getD 1 {}).fmt (bit f.q.w 24) (fld f.q.w 27 26)).getD ⟨1, 1, 1, false, 1⟩

/-- What an mx.mma in flight works on; its skip register is the one that group g found. -/
def Flow.mma (f : Flow) (nc : NumCfg) (g : Nat) : MmaIn :=
  let w := f.q.w
  { cls := f.cls, k := fld w 38 28 + 1, sp := fld w 27 26, x3 := bit w 24, iov := bit w 20, fa := (f.ps.getD 0 {}).fmt, fb := (f.ps.getD 1 {}).fmt, lines := f.lines,
    skip := if bit w 23 then some (BitVec.ofNat 256 ((f.vals.get [] g).getD 0 0)) else none, err := f.q.err, nc := nc }

/-- Array time N (R142). -/
def mmaTime (c : MClass) (w : IWord) : Nat := if fld w 27 26 = 0 then (fld w 38 28 + 1) * c.c2 / 2 else (fld w 38 28 + 1) * c.c2 / 4

/-- W (R143, R239). -/
def mmaTail (p : Pads) (w : IWord) : Nat := p.latency 2 + (if fld w 27 26 = 0 then 0 else 2) + (if bit w 25 then 2 else 0)

/-- The part of an mx.mma's array time that has passed when the products of group g are formed. -/
def mmaPart (c : MClass) (w : IWord) (g : Nat) : Nat := min ((g + 1) * c.g) (fld w 38 28 + 1) * mmaTime c w / (fld w 38 28 + 1)

/-- The acts of an mx.mma: its line reads (R142, R149), its groups' products and sums, and what its completion cycle finds. Group g's products are formed when
its part of the array time has passed and the lines are there, and its sums are written so much before the final one as its part ends before the last
(DEDUCED from R142 and R143, log entry 4). -/
def mmaActs (j : Job) (c : MClass) (pa pb pm : Ptr) : List Act :=
  let w := j.q.w
  let sp := fld w 27 26
  let kk := fld w 38 28 + 1
  let nn := mmaTime c w
  let wt := mmaTail j.q.pads w
  let a := cdiv 128 c.e
  let units := kk / (if sp = 1 then 16 else 32)
  let nA := 16 * kk / c.e
  let n0 := if sp = 0 then nA else units * (1 + a)
  let at0 := fun (i : Nat) => mmaCycle j.l nn n0 i
  let gs := upTo (cdiv kk c.g)
  (if sp = 0 then (upTo nA).map fun m => j.rdLine 0 (at0 m) pa m (3 * m)
    else (upTo units).flatMap fun n => j.rdLine 0 (at0 (n * (1 + a))) pm n (3 * n + 2) ::
      (upTo a).map fun r => j.rdLine 0 (at0 (n * (1 + a) + 1 + r)) pa (n * a + r) (3 * (n * a + r)))
  ++ ((upTo nA).map fun m => j.rdLine 1 (mmaCycle j.l nn nA m) pb m (3 * m + 1))
  ++ (if bit w 23 then gs.map fun g => j.act 0 (j.l + j.q.pads.latency 1 + mmaPart c w g) (.calc (3 * g)) else [])
  ++ (gs.map fun g => j.act 0 (j.l + wt - 1 + mmaPart c w g) (.calc (3 * g + 1)))
  ++ [j.act 0 (j.l + nn + wt) (.calc 2)]

/-- A part of an mx.mma in its cycle: the skip register for a group's products, a group's sums with the shadow in step (R159), or what the completion cycle
counts and reports (R148, R158). -/
def Tile.mmaCalc (t : Tile) (old : Mxe) (f : Flow) (cmd cyc k : Nat) : Tile :=
  let w := f.q.w
  let acc := fld w 41 39
  let cmp := bit w 25
  let g := k / 3
  if k % 3 = 0 then t.putVals cmd g [old.skip.toNat]
  else if k % 3 = 1 then
    let x := f.mma t.cfg.num g
    let r := t.mmaGroup old x acc cmp g
    let t1 := r.1.flagOnly (r.2.or (flagsOf ((x.ks [g]).map x.opFlags)))
    let sh : Shadow := t1.mxe.shadow.get {} acc
    t1.setMxe { t1.mxe with shadow := t1.mxe.shadow.put acc (if bit w 22 then x.shadow [g] r.2.isatf sh else { sh with valid := false }) }
  else
    let t1 := if f.cls.int then t else t.nfMxe (((old.block acc).filter fun c => nonFinite 0 c).length)
    match f.q.err with
    | some e => if (f.mma t.cfg.num (e.k / f.cls.g)).residue then
        (t1.setCnt { t1.cnt with resn := satTo 0xFFFF (t1.cnt.resn + 1) }).fault 0x22 0 1 f.q.pc cyc
          (acc + e.row * 2 ^ 4 + e.col * 2 ^ 8 + e.k * 2 ^ 16) 0
      else t1
    | none => t1

/-- mx.mma (R138 to R150, R158, R159). -/
def Tile.runMxMma (t : Tile) (j : Job) : Tile :=
  let w := j.q.w
  let sp := fld w 27 26
  let pa := t.ptr 1 0
  let pb := t.ptr 1 1
  let pm := t.ptr 1 2
  let ps := [pa, pb] ++ (if sp = 1 ∨ sp = 2 then [pm] else [])
  if ps.all Ptr.ok then
    match t.mmaBreach j, mmaClass pa.fmt pb.fmt (bit w 24) sp with
    | none, some c =>
      let kk := fld w 38 28 + 1
      let units := kk / (if sp = 1 then 16 else 32)
      let nA := 16 * kk / c.e
      let t1 := t.plan j.key (j.flow [pa, pb] []) (mmaActs j c pa pb pm)
      let adv := bit w 21
      let t2 := ((t1.advPtr adv 1 0 (if sp = 0 then nA else cdiv 128 c.e * units)).advPtr adv 1 1 nA).advPtr (adv && sp != 0) 1 2 units
      (t2.mxArray (j.l + mmaTime c w)).finish j (j.l + mmaTime c w + mmaTail j.q.pads w)
    | some sub, _ => t.mxFault j sub
    | none, none => t.mxFault j 1
  else t.badHandles 1 j.q.pc j.l ps

/-! ## Drain commands (R151 to R157, R160) -/

/-- Lines of a block in PD's format (R152). -/
def blockLines (f : Nat) (pair : Bool) : Nat :=
  if f = 14 then 64 else if f = 0 && pair then 64 else cdiv 256 (perLine f)

/-- The engine format of a block: INT32 for ITYPE = 1, FP32 otherwise. -/
def blockFmt (w : IWord) : Nat := if bit w 37 then 9 else 0

/-- PACE's step. -/
def paceOf (w : IWord) : Nat := if bit w 34 then 2 else 1

/-- mx.zero (R153). A pair command changes the shadow of block 2p alone; that of block 2p + 1 stays (DESIGN CHOICE, log entry 83). -/
def Tile.runMxZero (t : Tile) (j : Job) : Tile :=
  let acc := fld j.q.w 41 39
  if t.badBlock j acc (bit j.q.w 38) then t.mxFault j 4
  else ((t.plan j.key (j.flow [] []) [j.act 2 (j.l + 1) (.calc 0)]).mxDrain (j.l + 1)).finish j (j.l + 2)

/-- mx.zero in its cycle. -/
def Tile.zeroCalc (t : Tile) (f : Flow) : Tile :=
  let acc := fld f.q.w 41 39
  let m := t.mxe.setElems (256 * acc) (List.replicate (if bit f.q.w 38 then 512 else 256) 0)
  t.setMxe { m with shadow := m.shadow.put acc (Shadow.zero true) }

/-- Sums of R159 and R160 over the rows or the columns of a block, in FP32 in ascending index order. -/
def fpSums (nc : NumCfg) (mag : Bool) (es : List Nat) (col : Bool) (n : Nat) : Nat :=
  let g := fun i => let c := es.getD (if col then 16 * i + n else 16 * n + i) 0; if mag then fAbs 0 c else c
  ((upTo 15).map fun i => i + 1).foldl (fun a i => (fAdd nc 0 a (g i)).1) (g 0)

/-- The integer sums, modulo 2^32. -/
def intSums (es : List Nat) (col : Bool) (n : Nat) : Nat :=
  ((upTo 16).foldl (fun a i => a + es.getD (if col then 16 * i + n else 16 * n + i) 0) 0) % 2 ^ 32

/-- The FP32 values of a block or of the pairs of a pair block (R126, R159). -/
def Mxe.values (m : Mxe) (nc : NumCfg) (acc : Nat) (cmp : Bool) : List Nat :=
  if cmp then (upTo 256).map fun i => (arith nc 0 (pairVal nc (m.elem (256 * acc + i)) (m.elem (256 * (acc + 1) + i))).1).1
  else m.block acc

/-- The shadow that mx.ld with CHK = 1 sets, with the integer mark as it is to be (R159). -/
def loadedShadow (nc : NumCfg) (int mark : Bool) (es : List Nat) : Shadow :=
  let ix := upTo 16
  if int then
    { pc := ix.map (intSums es true), pr := ix.map (intSums es false), mc := List.replicate 16 0, mr := List.replicate 16 0,
      valid := true, imark := mark }
  else
    { pc := ix.map (fpSums nc false es true), pr := ix.map (fpSums nc false es false),
      mc := ix.map (fpSums nc true es true), mr := ix.map (fpSums nc true es false), valid := true, imark := mark }

/-- mx.ld (R154). -/
def Tile.runMxLd (t : Tile) (j : Job) : Tile :=
  let w := j.q.w
  let acc := fld w 41 39
  let cmp := bit w 38
  let pd := t.ptr 1 3
  if !pd.ok then t.badHandles 1 j.q.pc j.l [pd]
  else if t.badBlock j acc cmp then t.mxFault j 4
  else if cmp && pd.fmt != 0 then t.mxFault j 5
  else
    let n := blockLines pd.fmt cmp
    let p := paceOf w
    let d := j.q.pads.latency 1
    let as := (upTo n).flatMap fun m => [j.rdLine 2 (j.l + 1 + p * m) pd m m, j.act 2 (j.l + 1 + p * m + d) (.calc m)]
    (((t.plan j.key (j.flow [pd] []) (as.foldr insAct [])).advPtr (bit w 35) 1 3 n).mxDrain (j.l + 1 + p * (n - 1))).finish j (j.l + 2 + d + p * (n - 1))

/-- mx.ld writes what line m of n holds into its block (R154), with the block's shadow (R159). -/
def Tile.ldCalc (t : Tile) (f : Flow) (cmd m : Nat) : Tile :=
  let w := f.q.w
  let nc := t.cfg.num
  let acc := fld w 41 39
  let cmp := bit w 38
  let pd := f.ps.getD 0 {}
  let e := perLine pd.fmt
  let es := lineElems pd.fmt [f.lines.get [] m]
  let sat0 := (f.vals.get [] 0).length != 0
  let r : Tile × Bool :=
    if cmp then
      let hs := (upTo 4).map fun i => es.getD (2 * i) 0
      let ls := (upTo 4).map fun i => es.getD (2 * i + 1) 0
      (t.setMxe ((t.mxe.setElems (256 * acc + 4 * m) hs).setElems (256 * (acc + 1) + 4 * m) ls), false)
    else
      let c := convertAll nc pd.fmt (blockFmt w) false (es.take (256 - e * m)) []
      ((t.setMxe (t.mxe.setElems (256 * acc + e * m) c.1)).flag c.2, c.2.isatf)
  let sat := sat0 || (bit w 37 && r.2)
  let t1 := if sat && !sat0 then r.1.putVals cmd 0 [1] else r.1
  let sh0 := t1.mxe.shadow.get ({} : Shadow) acc
  let sh := if !(bit w 33) then { sh0 with valid := false }
    else if m + 1 = blockLines pd.fmt cmp then loadedShadow nc (bit w 37) (sh0.imark || sat) (t1.mxe.values nc acc cmp)
    else sh0
  t1.setMxe { t1.mxe with shadow := t1.mxe.shadow.put acc sh }

/-- The elements of line m that mx.st writes, from the copy of the block in the drain buffer: their codes, flags and draws (R155). -/
def Tile.stLine (t : Tile) (f : Flow) (cyc m : Nat) : List Word × Tile :=
  let w := f.q.w
  let nc := t.cfg.num
  let pd := f.ps.getD 0 {}
  let buf := f.vals.get [] 0
  if bit w 38 then
    let e := if pd.fmt = 0 then 4 else perLine pd.fmt
    let ps := ((upTo e).map fun i => e * m + i).filterMap fun i => if i < 256 then some (buf.getD i 0, buf.getD (256 + i) 0) else none
    if pd.fmt = 0 then (packLine 0 (ps.flatMap fun x => [x.1, x.2]), t)
    else if pd.fmt = 14 then
      let rs := ps.map fun x => pairTo nc 14 x.1 x.2
      (packLine 14 (rs.map fun r => r.1), t.flag (flagsOf (rs.map fun r => r.2)))
    else
      let rs := ps.map fun x => let r := pairTo nc 0 x.1 x.2; (r.1, { r.2 with cnt := 0 })
      let d := t.storeDraws f.env pd cyc 0 ps.length f.q.cuff
      let c := convertAll nc 0 pd.fmt (bit w 36) (rs.map fun r => r.1) d.1
      (packLine pd.fmt c.1, d.2.flag ((flagsOf (rs.map fun r => r.2)).or c.2))
  else
    let e := perLine pd.fmt
    let es := ((upTo e).map fun i => e * m + i).filterMap fun i => if i < 256 then some (buf.getD i 0) else none
    let d := t.storeDraws f.env pd cyc (blockFmt w) es.length f.q.cuff
    let c := convertAll nc (blockFmt w) pd.fmt (bit w 36) es d.1
    (packLine pd.fmt c.1, d.2.flag c.2)

/-- mx.st (R155). -/
def Tile.runMxSt (t : Tile) (j : Job) : Tile :=
  let w := j.q.w
  let pd := t.ptr 1 3
  if !pd.ok then t.badHandles 1 j.q.pc j.l [pd]
  else if t.badBlock j (fld w 41 39) (bit w 38) then t.mxFault j 4
  else
    let n := blockLines pd.fmt (bit w 38)
    let p := paceOf w
    let as := j.act 2 (j.l + 1) (.calc 0) :: (upTo n).map fun m => j.wrLine 2 (j.l + 2 + p * m) pd m m
    (((t.plan j.key (j.flow [pd] []) as).advPtr (bit w 35) 1 3 n).mxDrain (j.l + 2 + p * (n - 1))).finish j (j.l + 3 + p * (n - 1))

/-- mx.st and mx.acs copy the block into the drain buffer (R155, R156): a copy holds what stood there before the cycle (R130). -/
def Tile.copyCalc (t : Tile) (old : Mxe) (f : Flow) (cmd : Nat) : Tile :=
  let acc := fld f.q.w 41 39
  let n := if bit f.q.w 38 then 512 else 256
  let es := (upTo n).map fun i => old.elem (256 * acc + i)
  (t.setMxe { t.mxe with drainBuf := es.map fun x => BitVec.ofNat 32 x }).putVals cmd 0 es

/-- mx.acs (R156). -/
def Tile.runMxAcs (t : Tile) (j : Job) : Tile :=
  let w := j.q.w
  let pd := t.ptr 1 3
  if !pd.ok then t.badHandles 1 j.q.pc j.l [pd]
  else if t.badBlock j (fld w 41 39) false then t.mxFault j 4
  else if pd.fmt != 0 || bit w 37 || bit w 38 then t.mxFault j 5
  else
    let p := paceOf w
    let as := j.act 2 (j.l + 1) (.calc 0) :: (upTo 32).map fun m => j.act 2 (j.l + 2 + p * m) (.acs pd (8 * (pd.loff + m)) m)
    (((t.plan j.key (j.flow [pd] []) as).advPtr (bit w 35) 1 3 32).mxDrain (j.l + 2 + p * 31)).finish j (j.l + 4 + p * 31)

/-- Line m of an accumulate-store's copy. -/
def Flow.acsLine (f : Flow) (m : Nat) : List Word := (upTo 8).map fun i => BitVec.ofNat 32 ((f.vals.get [] 0).getD (8 * m + i) 0)

/-- mx.push (R157). -/
def Tile.runMxPush (t : Tile) (j : Job) : Tile :=
  let acc := fld j.q.w 41 39
  if !t.cfg.e7q || decide (4 ≤ acc) then t.mxFault j 4
  else ((t.plan j.key (j.flow [] []) [j.act 2 (j.l + 1) (.calc 0)]).mxDrain (j.l + 1)).finish j (j.l + 2)

/-- The first element of the finished-tile queue's tail entry, one of blocks 4 to 7. -/
def Mxe.tail (m : Mxe) : Nat := 256 * (4 + (m.e7head + m.e7cnt) % 4)

/-- mx.push in its cycle: the entry written is the queue's tail; a full queue overruns (R157). -/
def Tile.pushCalc (t : Tile) (old : Mxe) (f : Flow) (cyc : Nat) : Tile :=
  let acc := fld f.q.w 41 39
  if old.e7cnt = 4 then t.fault 0x21 0 1 f.q.pc cyc acc 0
  else t.setMxe { (t.mxe.setElems old.tail (old.block acc)) with e7cnt := t.mxe.e7cnt + 1 }

/-- |S - P| is above 2^-T times M, for finite values (R160). -/
def abftOver (tol s p m : Nat) : Bool :=
  if nonFinite 0 s || nonFinite 0 p || nonFinite 0 m then false
  else match valOf 0 m with
    | .fin _ mm me => FVal.lt (.fin false mm (me - ((10 + tol : Nat) : Int))) ((valOf 0 s).sub (valOf 0 p)).abs
    | _ => false

/-- The first mismatch of mx.chk, columns and then rows (R160): 0 or 1, and the index. -/
def Mxe.abft (m : Mxe) (nc : NumCfg) (w : IWord) : Option (Nat × Nat) :=
  let sh : Shadow := m.shadow.get {} (fld w 41 39)
  let es := m.values nc (fld w 41 39) (bit w 38)
  let ix := upTo 16
  let col := fun j => if bit w 37 then !sh.imark && intSums es true j != sh.pc.getD j 0
    else abftOver (fld w 32 30) (fpSums nc false es true j) (sh.pc.getD j 0) (sh.mc.getD j 0)
  let row := fun i => if bit w 37 then !sh.imark && intSums es false i != sh.pr.getD i 0
    else abftOver (fld w 32 30) (fpSums nc false es false i) (sh.pr.getD i 0) (sh.mr.getD i 0)
  match ix.find? col with
  | some j => some (0, j)
  | none => (ix.find? row).map fun i => (1, i)

/-- mx.chk compares from its first cycle on, and reports in its last (R160; DEDUCED, log entry 4). -/
def Tile.chkCalc (t : Tile) (old : Mxe) (f : Flow) (cmd cyc k : Nat) : Tile :=
  if k = 0 then
    match old.abft t.cfg.num f.q.w with
    | some (rc, i) => t.putVals cmd 0 [rc, i]
    | none => t
  else
    match f.vals.get [] 0 with
    | rc :: i :: _ => (t.setCnt { t.cnt with abftn := satTo 0xFFFF (t.cnt.abftn + 1) }).fault 0x23 0 1 f.q.pc cyc
        (fld f.q.w 41 39 + rc * 2 ^ 4 + i * 2 ^ 8) 0
    | _ => t

/-- A part of an mx. command in its cycle; old is the accumulator file before the cycle. -/
def Tile.mxCalc (t : Tile) (old : Mxe) (f : Flow) (cmd cyc k : Nat) : Tile :=
  match iOp f.q.w with
  | 0x02 => t.setMxe { t.mxe with skip := lineBits (f.lines.get [] 0) }
  | 0x10 => t.mmaCalc old f cmd cyc k
  | 0x20 => t.zeroCalc f
  | 0x21 => t.ldCalc f cmd k
  | 0x22 | 0x23 => t.copyCalc old f cmd
  | 0x24 => t.pushCalc old f cyc
  | 0x25 => t.chkCalc old f cmd cyc k
  | _ => t

/-- The accumulator elements that an mx. command writes in a part of its work: first element and how many. -/
def Flow.mxWrites (f : Flow) (old : Mxe) (k : Nat) : List (Nat × Nat) :=
  let acc := fld f.q.w 41 39
  match iOp f.q.w with
  | 0x10 => if k % 3 = 1 then [(256 * acc, if bit f.q.w 25 then 512 else 256)] else []
  | 0x20 => [(256 * acc, if bit f.q.w 38 then 512 else 256)]
  | 0x21 =>
    let e := perLine (f.ps.getD 0 {}).fmt
    if bit f.q.w 38 then [(256 * acc + 4 * k, 4), (256 * (acc + 1) + 4 * k, 4)] else [(256 * acc + e * k, min e (256 - e * k))]
  | 0x24 => if old.e7cnt = 4 then [] else [(old.tail, 256)]
  | _ => []

end Sys2Proof.Machine
end

