-- ==== Sys2Proof/Machine/Port7.lean ====
section
/-! DEFINITION. The engines of port 7 (R191 to R218): gather and transpose engine, sparse index unit, sign compressor. -/

namespace Sys2Proof.Machine

/-- PACE's step P (R193). -/
def p7Pace (w : IWord) : Nat := if bit w 1 then 2 else 1

/-- The cycle of slot s (R193). -/
def slotCyc (j : Job) (s : Nat) : Nat := j.l + 1 + p7Pace j.q.w * s

/-- The end of a command whose last mapped slot is z - 1 (R193): accept and completion cycles. -/
def Tile.p7End (t : Tile) (j : Job) (z : Nat) : Tile :=
  (t.updEng (iEng j.q.w) fun e => { e with accept := slotCyc j z }).finish j (slotCyc j (z - 1) + 1)

/-- A .ptr command of these engines (R194). -/
def Tile.runP7Ptr (t : Tile) (j : Job) : Tile :=
  (t.setPtr (iEng j.q.w) (fld j.q.w 41 40) j.q.ptr).finish j j.l

/-- A pointer of the command's own engine. -/
def Tile.own (t : Tile) (j : Job) (psel : Nat) : Ptr := t.ptr (iEng j.q.w) psel

/-- Advance a pointer of the command's own engine where ADV is set. -/
def Tile.ownAdv (t : Tile) (j : Job) (psel n : Nat) : Tile := t.advPtr (bit j.q.w 0) (iEng j.q.w) psel n

/-! ## GTE (R195 to R199) -/

/-- Line reads of a pointer in slots: for each, its line, its key and its slot. -/
def p7Reads (j : Job) (p : Ptr) (xs : List (Nat × Nat × Nat)) : List Act := xs.map fun x => j.rdLine 7 (slotCyc j x.2.2) p x.1 x.2.1

/-- Line writes of a pointer in slots: for each, its line, its output and its slot. -/
def p7Writes (j : Job) (p : Ptr) (xs : List (Nat × Nat × Nat)) : List Act := xs.map fun x => j.wrLine 7 (slotCyc j x.2.2) p x.1 x.2.1

/-- A command of these engines begins: its acts, and its last mapped slot z - 1. -/
def Tile.p7Begin (t : Tile) (j : Job) (z : Nat) (ps : List Ptr) (as : List Act) : Tile := (t.plan j.key (j.flow ps []) as).p7End j z

/-- The slots between a line's read and the first that holds what the engine makes of it (R197, R201, R239). -/
def Job.pipe7 (j : Job) : Nat := j.q.pads.latency 7

/-- gt.cpy: line n is read into key n and written from it. -/
def Tile.runGtCpy (t : Tile) (j : Job) : Tile :=
  let n := fld j.q.w 41 30 + 1
  let nb := cdiv n 8
  let as := p7Reads j (t.own j 0) ((upTo n).map fun m => (m, m, m / 8 * 16 + m % 8)) ++
    p7Writes j (t.own j 1) ((upTo n).map fun m => (m, m, m / 8 * 16 + 8 + m % 8))
  ((t.p7Begin j (16 * (nb - 1) + 8 + (n - 8 * (nb - 1))) [] as).ownAdv j 0 n).ownAdv j 1 n

/-- The bits of elements of w bits in a line, lowest first. -/
def rawElems (w : Nat) (ws : List Word) : List Nat :=
  let x := (lineBits ws).toNat
  (upTo (256 / w)).map fun i => x / 2 ^ (w * i) % 2 ^ w

/-- A line made of elements of w bits. -/
def rawLine (w : Nat) (es : List Nat) : List Word :=
  let x := (numbered es).foldl (fun a y => a + y.2 * 2 ^ (w * y.1)) 0
  (upTo 8).map fun i => BitVec.ofNat 32 (x / 2 ^ (32 * i))

/-- gt.tr (R198): input line m is at key m, output line i at key n + i. -/
def Tile.runGtTr (t : Tile) (j : Job) : Tile :=
  let n := 8 * 2 ^ fld j.q.w 41 40
  let d := j.pipe7
  let as := p7Reads j (t.own j 0) ((upTo n).map fun m => (m, m, m)) ++ [j.act 7 (slotCyc j (n + d)) (.calc 0)] ++
    p7Writes j (t.own j 1) ((upTo n).map fun m => (m, n + m, n + d + m))
  ((t.p7Begin j (2 * n + d) [] as).ownAdv j 0 n).ownAdv j 1 n

/-- Keep a list of lines among those that a command holds, from a key on. -/
def Tile.putLines (t : Tile) (cmd key : Nat) (ls : List (List Word)) : Tile := (numbered ls).foldl (fun t x => t.putLine cmd (key + x.1) x.2) t

/-- gt.tr transposes what it has read. -/
def Tile.trCalc (t : Tile) (f : Flow) (cmd : Nat) : Tile :=
  let n := 8 * 2 ^ fld f.q.w 41 40
  let w := 256 / n
  let es := (upTo n).map fun m => rawElems w (f.lines.get [] m)
  t.putLines cmd n ((upTo n).map fun i => rawLine w (es.map fun l => l.getD i 0))

/-- gt.gat and gt.sct (R199): the indices are line 0, line m of row u at key 1 + 8 u + m. -/
def Tile.runGtRows (t : Tile) (j : Job) (gather : Bool) : Tile :=
  let w := j.q.w
  let ni := fld w 41 38 + 1
  let rl := fld w 37 35 + 1
  let gs := t.own j 0
  let gd := t.own j 1
  let us := (upTo ni).flatMap fun u => (upTo rl).map fun m => (u, m)
  let rd := us.map fun x => let c := slotCyc j (8 + 16 * x.1 + x.2)
    if gather then j.act 7 c (.row false gs x.1 x.2 (1 + 8 * x.1 + x.2)) else j.rdLine 7 c gs (rl * x.1 + x.2) (1 + 8 * x.1 + x.2)
  let wr := us.map fun x => let c := slotCyc j (16 + 16 * x.1 + x.2)
    if gather then j.wrLine 7 c gd (rl * x.1 + x.2) (1 + 8 * x.1 + x.2) else j.act 7 c (.row true gd x.1 x.2 (1 + 8 * x.1 + x.2))
  let t1 := t.p7Begin j (16 * ni + rl) [] (j.rdLine 7 (slotCyc j 0) (t.own j 2) 0 0 :: rd ++ wr)
  (t1.ownAdv j 2 1).ownAdv j (if gather then 1 else 0) (rl * ni)

/-- gt.rnd (R212). -/
def Tile.runGtRnd (t : Tile) (j : Job) : Tile :=
  let n := fld j.q.w 41 30 + 1
  (t.p7Begin j n [] (p7Writes j (t.own j 1) ((upTo n).map fun m => (m, m, m)))).ownAdv j 1 n

/-- A line of gt.rnd (R212): word w is the pair of draws 2w and 2w + 1. -/
def Tile.rndLine (t : Tile) (f : Flow) (cyc : Nat) : List Word × Tile :=
  let d := t.draws f.env cyc (fld f.q.w 29 26) 16
  ((upTo 8).map fun i => BitVec.ofNat 32 (d.1.getD (2 * i) 0 + d.1.getD (2 * i + 1) 0 * 2 ^ 16), d.2)

/-! ## SIU (R200 to R205) -/

/-- The zero test of R200. -/
def siuZero (f c : Nat) : Bool :=
  if f = 13 then false
  else if isFp f then fAbs f c == 0
  else c == 0

/-- SIU command fault (R217). -/
def Tile.siFault (t : Tile) (j : Job) (sub : Nat) : Tile := t.fault 0x30 sub 4 j.q.pc j.l 0 0

/-- The lines at keys 0..n-1 of a command. -/
def Flow.held (f : Flow) (n : Nat) : List (List Word) := (upTo n).map fun m => f.lines.get [] m

/-- Lines 0..n-1 of a pointer, read into the keys from k on, at slots from s on. -/
def p7In (j : Job) (p : Ptr) (k n s : Nat) : List Act := p7Reads j p ((upTo n).map fun m => (m, k + m, s + m))

/-- Lines m0..m0+n-1 of a pointer, written from the outputs from k on, at slots from s on. -/
def p7Out (j : Job) (p : Ptr) (m0 k n s : Nat) : List Act := p7Writes j p ((upTo n).map fun m => (m0 + m, k + m, s + m))

/-- The words of si.zmap's half skip line (R202). -/
def zmapWords (f k : Nat) (es : List Nat) : List Word :=
  let zero := fun g h => (upTo 8).all fun a => (upTo 8).all fun b => siuZero f (es.getD (16 * (8 * g + a) + 8 * h + b) 0)
  let bits := (upTo (k / 8)).foldl (fun a g =>
    a + b2n (zero g 0) * 2 ^ (2 * g) + b2n (zero g 1) * 2 ^ (2 * g + 1)) 0
  (upTo 4).map fun w => BitVec.ofNat 32 (bits / 2 ^ (32 * w))

/-- Word writes of n outputs from k on, at consecutive word offsets and slots. -/
def p7Words (j : Job) (p : Ptr) (off k n s : Nat) : List Act :=
  (upTo n).map fun i => j.act 7 (slotCyc j (s + i)) (.wr p (off + i) 1 (k + i))

/-- The line count of si.zmap's input. -/
def zmapLines (w : IWord) (f : Nat) : Nat := cdiv (16 * (fld w 41 31 + 1)) (perLine f)

/-- si.zmap (R202): its input lines are at keys from 0, the words that it writes follow. -/
def Tile.runSiZmap (t : Tile) (j : Job) : Tile :=
  let w := j.q.w
  let ss := t.own j 0
  let sd := t.own j 1
  let k := fld w 41 31 + 1
  if !(ss.ok && sd.ok) then t.badHandles 4 j.q.pc j.l [ss, sd]
  else if ss.fmt == 14 || sd.fmt != 9 then t.siFault j 1
  else if k % 8 != 0 || decide (512 < k) then t.siFault j 2
  else
    let nl := zmapLines w ss.fmt
    let d := nl + j.pipe7
    let as := p7In j ss 0 nl 0 ++ [j.act 7 (slotCyc j d) (.calc 0)] ++ p7Words j sd (8 * sd.loff + (if bit w 30 then 4 else 0)) nl 4 d
    ((t.p7Begin j (d + 4) [ss] as).ownAdv j 0 nl).ownAdv j 1 1

/-- si.zmap's bitmap from what it has read. -/
def Tile.zmapCalc (t : Tile) (f : Flow) (cmd : Nat) : Tile :=
  let fm := (f.ps.getD 0 {}).fmt
  let nl := zmapLines f.q.w fm
  t.putLines cmd nl ((zmapWords fm (fld f.q.w 41 31 + 1) (lineElems fm (f.held nl))).map fun x => [x])

/-- INT16 codes packed into n lines, the remaining slots holding fill. -/
def packFill (n fill : Nat) (xs : List Nat) : List (List Word) :=
  packLines 10 ((upTo (16 * n)).map fun i => xs.getD i fill)

/-- si.cmp (R203): its input lines are at keys from 0; its values, its columns' numbers and its count follow. -/
def Tile.runSiCmp (t : Tile) (j : Job) : Tile :=
  let w := j.q.w
  let ss := t.own j 0
  let sd := t.own j 1
  let sx := t.own j 2
  let cols := 16 * (fld w 41 38 + 1)
  if !(ss.ok && sd.ok && sx.ok) then t.badHandles 4 j.q.pc j.l [ss, sd, sx]
  else if ss.fmt == 14 || sd.fmt != ss.fmt || sx.fmt != 10 then t.siFault j 1
  else
    let nv := cdiv cols (perLine ss.fmt)
    let nx := cols / 16
    let d := nv + j.pipe7
    let as := p7In j ss 0 nv 0 ++ [j.act 7 (slotCyc j d) (.calc 0)] ++ p7Out j sd 0 nv nv d ++ p7Out j sx 0 (2 * nv) nx (d + nv) ++
      p7Words j sx (8 * (sx.loff + nx)) (2 * nv + nx) 1 (d + nv + nx)
    (((t.p7Begin j (d + nv + nx + 1) [ss] as).ownAdv j 0 nv).ownAdv j 1 nv).ownAdv j 2 (nx + 1)

/-- si.cmp's results from what it has read. -/
def Tile.cmpCalc (t : Tile) (f : Flow) (cmd : Nat) : Tile :=
  let fm := (f.ps.getD 0 {}).fmt
  let cols := 16 * (fld f.q.w 41 38 + 1)
  let nv := cdiv cols (perLine fm)
  let kept := (numbered ((lineElems fm (f.held nv)).take cols)).filter fun x => !(siuZero fm x.2)
  t.putLines cmd nv (packLines fm ((upTo (nv * perLine fm)).map fun i => (kept.map fun x => x.2).getD i 0)
    ++ packFill (cols / 16) 0xFFFF (kept.map fun x => x.1) ++ [[BitVec.ofNat 32 kept.length]])

/-- The tokens that chose an expert, in ascending order, each once (R204). -/
def routeList (kc e : Nat) (es : List Nat) : List Nat :=
  ((numbered es).filter fun x => x.2 == e).foldl (fun l x => insSorted (x.1 / kc) l) []

/-- si.route (R204): its input lines are at keys from 0; its lists and its counts follow. -/
def Tile.runSiRoute (t : Tile) (j : Job) : Tile :=
  let w := j.q.w
  let ss := t.own j 0
  let sd := t.own j 1
  let sx := t.own j 2
  let ne := fld w 41 36 + 1
  let cap := 16 * (fld w 35 30 + 1)
  let kc := fld w 29 28 + 1
  let nen := 16 * (fld w 27 22 + 1)
  if !(ss.ok && sd.ok && sx.ok) then t.badHandles 4 j.q.pc j.l [ss, sd, sx]
  else if ss.fmt != 10 || sd.fmt != 10 || sx.fmt != 10 then t.siFault j 1
  else if decide (4096 < ne * cap) || nen % kc != 0 then t.siFault j 3
  else
    let ni := nen / 16
    let nx := ne * cap / 16
    let nc := cdiv (ne + 2) 16
    let d := ni + j.pipe7
    let as := p7In j ss 0 ni 0 ++ [j.act 7 (slotCyc j d) (.calc 0)] ++ p7Out j sx 0 ni nx d ++ p7Out j sd 0 (ni + nx) nc (d + nx)
    (((t.p7Begin j (d + nx + nc) [ss] as).ownAdv j 0 ni).ownAdv j 1 nc).ownAdv j 2 nx

/-- si.route's lists and counts from what it has read. -/
def Tile.routeCalc (t : Tile) (f : Flow) (cmd : Nat) : Tile :=
  let w := f.q.w
  let ne := fld w 41 36 + 1
  let cap := 16 * (fld w 35 30 + 1)
  let kc := fld w 29 28 + 1
  let ni := fld w 27 22 + 1
  let es := lineElems 10 (f.held ni)
  let lists := (upTo ne).map fun e => routeList kc e es
  let dropped := lists.foldl (fun a l => a + (l.length - cap)) 0
  let invalid := (es.filter fun c => decide (ne ≤ c) && decide (c ≤ 0xFFFE)).length
  let counts := (lists.map fun l => min l.length cap) ++ [dropped, invalid]
  t.putLines cmd ni ((lists.flatMap fun l => packFill (cap / 16) 0xFFFF (l.take cap)) ++ packFill (cdiv (ne + 2) 16) 0 counts)

/-! ## SGC (R206 to R209) -/

/-- SGC command fault (R217). -/
def Tile.sgFault (t : Tile) (j : Job) : Tile := t.fault 0x31 1 5 j.q.pc j.l 0 0

/-- One entry of sg.pack (R207): the next error memory, the sign, flags and count. -/
def packEntry (nc : NumCfg) (alpha g e : Nat) : Nat × Nat × NFlags :=
  let v := fAdd nc 0 g e
  let s := v.1 / 2 ^ 31
  if nonFinite 0 g || nonFinite 0 e || nonFinite 0 v.1 then (0, s, { v.2 with cnt := 1 })
  else
    let n := if s = 0 then fSub nc 0 v.1 alpha else fAdd nc 0 v.1 alpha
    (n.1, s, v.2.or n.2)

/-- sg.pack (R206, R207): of block b, the lines of S0, S1, D0 and the line of D1 are at keys 128 b, 128 b + 32, 128 b + 64 and 128 b + 96. -/
def Tile.runSgPack (t : Tile) (j : Job) : Tile :=
  let p := t.own j
  let nb := fld j.q.w 41 36 + 1
  if !((p 0).ok && (p 1).ok && (p 2).ok && (p 3).ok) then t.badHandles 5 j.q.pc j.l [p 0, p 1, p 2, p 3]
  else if (p 0).fmt != 0 || (p 1).fmt != 0 || (p 2).fmt != 0 || (p 3).fmt != 13 then t.sgFault j
  else
    let as := (upTo nb).flatMap fun b =>
      p7Reads j (p 0) ((upTo 32).map fun m => (32 * b + m, 128 * b + m, 97 * b + 2 * m)) ++
      p7Reads j (p 1) ((upTo 32).map fun m => (32 * b + m, 128 * b + 32 + m, 97 * b + 2 * m + 1)) ++
      ((upTo 32).map fun m => j.act 7 (slotCyc j (97 * b + 64 + m)) (.calc (32 * b + m))) ++
      p7Out j (p 2) (32 * b) (128 * b + 64) 32 (97 * b + 64) ++ p7Out j (p 3) b (128 * b + 96) 1 (97 * b + 96)
    ((((t.p7Begin j (97 * nb) [] as).ownAdv j 0 (32 * nb)).ownAdv j 1 (32 * nb)).ownAdv j 2 (32 * nb)).ownAdv j 3 nb

/-- sg.pack's entries of line m of a block, as that line is written, with the signs of the block so far. -/
def Tile.packCalc (t : Tile) (f : Flow) (cmd k : Nat) : Tile :=
  let b := k / 32
  let m := k % 32
  let es := ((lineElems 0 [f.lines.get [] (128 * b + m)]).zip (lineElems 0 [f.lines.get [] (128 * b + 32 + m)])).map fun x =>
    packEntry t.cfg.num (fld f.q.w 35 28 * 2 ^ 23) x.1 x.2
  let signs := f.vals.get [] b ++ es.map fun x => x.2.1
  let t1 := ((t.flag (flagsOf (es.map fun x => x.2.2))).putLine cmd (128 * b + 64 + m) (packLine 0 (es.map fun x => x.1))).putVals cmd b signs
  if m = 31 then t1.putLine cmd (128 * b + 96) (packLine 13 signs) else t1

/-- sg.vote (R206, R208): of block b, the line of S0 is at key 64 b, those of S1 follow, and those of D0 begin at 64 b + 17. -/
def Tile.runSgVote (t : Tile) (j : Job) : Tile :=
  let p := t.own j
  let nb := fld j.q.w 41 36 + 1
  if !((p 0).ok && (p 1).ok && (p 2).ok) then t.badHandles 5 j.q.pc j.l [p 0, p 1, p 2]
  else if (p 0).fmt != 13 || (p 1).fmt != 10 || (p 2).fmt != 10 then t.sgFault j
  else
    let as := (upTo nb).flatMap fun b =>
      p7Reads j (p 0) [(b, 64 * b, 33 * b)] ++ p7Reads j (p 1) ((upTo 16).map fun m => (16 * b + m, 64 * b + 1 + m, 33 * b + 1 + m)) ++
      ((upTo 16).map fun m => j.act 7 (slotCyc j (33 * b + 17 + m)) (.calc (16 * b + m))) ++ p7Out j (p 2) (16 * b) (64 * b + 17) 16 (33 * b + 17)
    (((t.p7Begin j (33 * nb) [] as).ownAdv j 0 nb).ownAdv j 1 (16 * nb)).ownAdv j 2 (16 * nb)

/-- sg.vote's votes of line m of a block, as that line is written (R208). -/
def Tile.voteCalc (t : Tile) (f : Flow) (cmd k : Nat) : Tile :=
  let b := k / 16
  let m := k % 16
  let es := (((lineElems 13 [f.lines.get [] (64 * b)]).drop (16 * m)).zip (lineElems 10 [f.lines.get [] (64 * b + 1 + m)])).map fun x =>
    intNarrow 16 false (sint 16 x.2 + (if x.1 = 0 then 1 else -1))
  (t.flag (flagsOf (es.map fun x => x.2))).putLine cmd (64 * b + 17 + m) (packLine 10 (es.map fun x => x.1))

/-- A part of a command of these engines in its cycle. -/
def Tile.p7Calc (t : Tile) (f : Flow) (cmd k : Nat) : Tile :=
  match iEng f.q.w, iOp f.q.w with
  | 3, 0x11 => t.trCalc f cmd
  | 4, 0x10 => t.zmapCalc f cmd
  | 4, 0x11 => t.cmpCalc f cmd
  | 4, 0x12 => t.routeCalc f cmd
  | 5, 0x10 => t.packCalc f cmd k
  | 5, 0x11 => t.voteCalc f cmd k
  | _, _ => t

end Sys2Proof.Machine
end

