-- ==== Sys2Proof/Machine/Transc.lean ====
section
/-! DEFINITION. The transcendental micro-ops (R171, R172). Special operands and powers of two are decided by the rules; of
every other result the model computes the exact value's neighbours, and a free value chooses among those within the bound of R171, since the reference tables are
not in the spec (log entry 10). -/

namespace Sys2Proof.Machine

/-- The integer square root, by bits from 2^n down. -/
def isqrtGo (x : Nat) : Nat → Nat → Nat
  | 0, r => r
  | n + 1, r => let c := r + 2 ^ n; isqrtGo x n (if c * c ≤ x then c else r)

/-- floor(sqrt(x)). -/
def isqrt (x : Nat) : Nat := isqrtGo x (bitLen x / 2 + 1) 0

/-- m is a power of two. -/
def isPow2 (m : Nat) : Bool := m != 0 && m == 2 ^ (bitLen m - 1)

/-- The integer value of m 2^e, when it is one. -/
def asInt (s : Bool) (m : Nat) (e : Int) : Option Int :=
  if 0 ≤ e then some (sig s (m * 2 ^ e.toNat))
  else if m % 2 ^ (-e).toNat = 0 then some (sig s (m / 2 ^ (-e).toNat)) else none

/-! Magnitudes are computed with 256 fractional bits, far beyond what decides the floor of a 24-bit significand. -/

/-- The greatest significand of a format at or below m 2^k, with its unit: precision in bits and least exponent are given. -/
def floorPrec (p : Nat × Int) (m : Nat) (k : Int) : Nat × Int :=
  let u := max ((bitLen m : Int) + k - p.1) p.2
  (shiftI m (k - u), u)

/-- The product of the roots 2^(2^-i) for the bits of a fraction f / 2^k, first bit first: s is the root before. -/
def exp2Frac (f : Nat) : Nat → Nat → Nat → Nat
  | 0, _, y => y
  | k + 1, s, y =>
    let s1 := isqrt (s * 2 ^ 256)
    exp2Frac f k s1 (if f.testBit k then y * s1 / 2 ^ 256 else y)

/-- The first n bits of the logarithm of y / 2^256, which lies from 1 to 2, by squaring; r holds the bits so far. -/
def log2Bits : Nat → Nat → Nat → Nat
  | 0, _, r => r
  | n + 1, y, r =>
    let y2 := y * y / 2 ^ 256
    if 2 ^ 257 ≤ y2 then log2Bits n (y2 / 2) (2 * r + 1) else log2Bits n y2 (2 * r)

/-- A sum of n terms of a series, term k times c k: each term is the last one times -y / k, with y in 256 fractional bits. -/
def altSum (c : Nat → Nat) (y : Nat) : Nat → Nat → Int → Int → Int
  | 0, _, _, acc => acc
  | n + 1, k, term, acc =>
    let t1 := -(term * (y : Int)) / ((2 ^ 256 * (k + 1) : Nat) : Int)
    altSum c y n (k + 1) t1 (acc + t1 / (c (k + 1) : Int))

/-- exp(-y) with 256 fractional bits, for y up to 20. -/
def expNeg (y : Nat) : Nat := (altSum (fun _ => 1) y 160 0 (2 ^ 256) (2 ^ 256)).toNat

/-- tanh of m 2^e as a magnitude with its unit: near 0 it lies just below its operand, and from 10 on just below 1. -/
def tanhMag (m : Nat) (e : Int) : Nat × Int :=
  if magLt m e 1 (-12) then (m * 2 ^ 300 - 1, e - 300)
  else if !(magLt m e 10 0) then (2 ^ 256 - 1, -256)
  else
    let t := expNeg (shiftI m (e + 257))
    ((2 ^ 256 - t) * 2 ^ 256 / (2 ^ 256 + t), -256)

/-- 2 / sqrt(pi) with 256 fractional bits. -/
def twoRootPi : Nat := 0x120dd750429b6d11ae3a914fed7fd8688281341d7587cea2e7342b06199cc4161

/-- erf of m 2^e as a magnitude with its unit, by its series; from 4 on just below 1. -/
def erfMag (m : Nat) (e : Int) : Nat × Int :=
  if !(magLt m e 4 0) then (2 ^ 256 - 1, -256)
  else
    let y := shiftI (m * m) (2 * e + 256)
    (m * (altSum (fun k => 2 * k + 1) y 160 0 (2 ^ 256) (2 ^ 256)).toNat * twoRootPi, e - 512)

/-- exp2 in FP32. An exponent beyond 200 or below -1000 gives what the bound itself gives: it overflows, or rounds to zero. -/
def exp2F (nc : NumCfg) (a : Nat) : Nat × NFlags :=
  let o := operand nc 0 a
  let r := match o.1 with
    | .nan _ => arith nc 0 (.nan false)
    | .inf s => if s then (0, {}) else arith nc 0 (.inf false)
    | .fin s m e =>
      match asInt s m e with
      | some n => arith nc 0 (.fin false 1 (max (-1000) (min 200 n)))
      | none =>
        if !s && !(magLt m e 128 0) then arith nc 0 (.inf false)
        else
          let k := (-e).toNat
          let x := sig s m
          let n := x / ((2 ^ k : Nat) : Int)
          let q := floorPrec (24, -149) (exp2Frac (x % ((2 ^ k : Nat) : Int)).toNat k (2 ^ 257) (2 ^ 256)) (n - 256)
          arith nc 0 (.fin false (q.1 + b2n (Config.exp2Up (BitVec.ofNat 32 a))) q.2)
  (r.1, o.2.or r.2)

/-- log2 in FP32. -/
def log2F (nc : NumCfg) (a : Nat) : Nat × NFlags :=
  let o := operand nc 0 a
  let r := match o.1 with
    | .nan _ => arith nc 0 (.nan false)
    | .inf s => arith nc 0 (if s then .nan false else .inf false)
    | .fin s m e =>
      if m = 0 then arith nc 0 (.inf true)
      else if s then arith nc 0 (.nan false)
      else if isPow2 m then
        let n := e + (bitLen m : Int) - 1
        arith nc 0 (.fin (decide (n < 0)) n.natAbs 0)
      else
        let n := e + (bitLen m : Int) - 1
        let v := n * ((2 ^ 80 : Nat) : Int) + (log2Bits 80 (m * 2 ^ (257 - bitLen m)) 0 : Int)
        let q := floorPrec (24, -149) (if v < 0 then (-v).toNat - 1 else v.toNat) (-80)
        arith nc 0 (.fin (decide (v < 0)) (q.1 + b2n (Config.log2Up (BitVec.ofNat 32 a))) q.2)
  (r.1, o.2.or r.2)

/-- The precision of a working format in bits, and its least exponent. -/
def precOf (f : Nat) : Nat × Int := match fkind f with | .fp p => (p.mb + 1, p.emin) | _ => (24, -149)

/-- rcp in FP32 (f = 0) or FP64 (f = 14): exact for powers of two, otherwise a neighbour of the exact value. -/
def rcpF (nc : NumCfg) (f a : Nat) : Nat × NFlags :=
  let o := operand nc f a
  let r := match o.1 with
    | .nan _ => arith nc f (.nan false)
    | .inf s => arith nc f (.fin s 0 0)
    | .fin s m e =>
      if m = 0 then arith nc f (.inf s)
      else if isPow2 m then arith nc f (.fin s 1 (1 - e - (bitLen m : Int)))
      else
        let p := precOf f
        let u := max (-(bitLen m : Int) - e - ((p.1 : Int) - 1)) p.2
        let q := if 0 ≤ -e - u then 2 ^ (-e - u).toNat / m else 0
        arith nc f (.fin s (q + b2n (Config.rcpUp (BitVec.ofNat 64 a))) u)
  (r.1, o.2.or r.2)

/-- rsqrt in FP32 or FP64. -/
def rsqrtF (nc : NumCfg) (f a : Nat) : Nat × NFlags :=
  let o := operand nc f a
  let r := match o.1 with
    | .nan _ => arith nc f (.nan false)
    | .inf s => arith nc f (if s then .nan false else .fin false 0 0)
    | .fin s m e =>
      if m = 0 then arith nc f (.inf s)
      else if s then arith nc f (.nan false)
      else
        let m1 := if e % 2 = 0 then m else 2 * m
        let h := (if e % 2 = 0 then e else e - 1) / 2
        if isPow2 m1 && bitLen m1 % 2 == 1 then arith nc f (.fin false 1 (-h - (((bitLen m1 - 1) / 2 : Nat) : Int)))
        else
          let p := precOf f
          let lead : Int := -h - (((bitLen m1 + 1) / 2 : Nat) : Int)
          let u := max (lead - ((p.1 : Int) - 1)) p.2
          let k := (-h - u).toNat
          arith nc f (.fin false (isqrt (2 ^ (2 * k) / m1) + b2n (Config.rsqrtUp (BitVec.ofNat 64 a))) u)
  (r.1, o.2.or r.2)

/-- tanh and erf in FP32: the floor of the magnitude, less 1 to plus 2 units (R171). -/
def oddTable (nc : NumCfg) (mag : Nat → Int → Nat × Int) (off : BitVec 32 → BitVec 2) (a : Nat) : Nat × NFlags :=
  let o := operand nc 0 a
  let r := match o.1 with
    | .nan _ => arith nc 0 (.nan false)
    | .inf s => arith nc 0 (.fin s 1 0)
    | .fin s m e =>
      if m = 0 then arith nc 0 (.fin s 0 0)
      else
        let x := mag m e
        let q := floorPrec (24, -149) x.1 x.2
        arith nc 0 (.fin s (q.1 + (off (BitVec.ofNat 32 a)).toNat - 1) q.2)
  (r.1, o.2.or r.2)

/-- A transcendental of a working format: in BF16 the FP32 result rounded once to BF16, with no flush in between, so that BF16 keeps its subnormals (R165). -/
def transc (nc : NumCfg) (f : Nat) (g : NumCfg → Nat → Nat × NFlags) (a : Nat) : Nat × NFlags :=
  if f = 2 then
    let o := operand nc 2 a
    let whole := { nc with ftz := false }
    let r := g whole (arith whole 0 o.1).1
    let y := arith nc 2 (valOf 0 r.1)
    (y.1, o.2.or y.2)
  else g nc a

end Sys2Proof.Machine
end

