-- ==== Sys2Proof/Machine/Vxe.lean ====
section
/-! DEFINITION. The vector engine (R165 to R190): element programs, streams, vx.run and vx.smx. -/

namespace Sys2Proof.Machine

/-! ## Element programs (R167 to R173) -/

/-- The working format of WF (R165). -/
def wfFmt (wf : Nat) : Nat := match wf with | 0 => 0 | 1 => 2 | _ => 14

/-- Lanes of WF. -/
def wfLanes (wf : Nat) : Nat := match wf with | 0 => 16 | 1 => 32 | _ => 4

/-- Slot cost of an operation in a width; none where it is not allowed (R169). -/
def opSlots (opc wf : Nat) : Option Nat :=
  if 1 ≤ opc ∧ opc ≤ 0x0C then some 1
  else if opc = 0x10 ∨ opc = 0x11 then (if wf = 2 then none else some 2)
  else if opc = 0x12 ∨ opc = 0x13 then (if wf = 2 then some 4 else some 2)
  else if opc = 0x14 ∨ opc = 0x15 then (if wf = 2 then none else some 4)
  else if opc = 0x20 ∨ opc = 0x21 ∨ opc = 0x22 then (if wf = 0 then some 3 else none)
  else none

/-- A pair field: an even temporary from 0 to 6. -/
def pairField (x : Nat) : Bool := decide (x < 8) && x % 2 == 0

/-- A micro-op breaches R169. -/
def opBad (wf : Nat) (o : Word) : Bool :=
  let opc := fld o 31 26
  (opSlots opc wf).isNone
    || (opc == 0x0A && decide (6 ≤ fld o 10 8))
    || (opc == 0x0C && !(isFp (fld o 7 4)))
    || (decide (0x20 ≤ opc) && !(pairField (fld o 25 23) && pairField (fld o 22 19) && pairField (fld o 18 15)))

/-- The micro-ops a program runs. -/
def EProg.run (p : EProg) : List Word := p.ops.take p.len

/-- The first micro-op that breaches R169; LEN of 0 counts as micro-op 0. -/
def EProg.breach (p : EProg) (wf : Nat) : Option Nat :=
  if p.len = 0 ∨ 32 < p.len then some 0
  else ((numbered p.run).find? fun x => opBad wf x.2).map fun x => x.1

/-- S, the slot total. -/
def EProg.slots (p : EProg) (wf : Nat) : Nat := p.run.foldl (fun a o => a + (opSlots (fld o 31 26) wf).getD 0) 0

/-- The constants in the working format (R167). -/
def EProg.constsIn (p : EProg) (nc : NumCfg) (f : Nat) : List Nat :=
  (upTo 8).map fun i =>
    let c := (p.consts.getD i 0).toNat
    if f = 14 then (if nc.flushed 14 && subnormalCode 14 c then c / 2 ^ 63 * 2 ^ 63 else c)
    else (convert nc 14 f none false c).1

/-- two_sum of R173. -/
def twoSum (nc : NumCfg) (x y : Nat) : (Nat × Nat) × NFlags :=
  let s := fAdd nc 0 x y
  let z := fSub nc 0 s.1 x
  let a := fSub nc 0 s.1 z.1
  let b := fSub nc 0 x a.1
  let c := fSub nc 0 y z.1
  let e := fAdd nc 0 b.1 c.1
  ((s.1, e.1), ((((s.2.or z.2).or a.2).or b.2).or c.2).or e.2)

/-- fast_two_sum of R173, with the lining of R125 for a non-finite high part. -/
def fastTwoSum (nc : NumCfg) (x y : Nat) : (Nat × Nat) × NFlags :=
  let s := fAdd nc 0 x y
  let a := fSub nc 0 s.1 x
  let e := fSub nc 0 y a.1
  ((s.1, if nonFinite 0 s.1 then 0 else e.1), (s.2.or a.2).or e.2)

/-- padd of R173; a high part that is not finite is delivered with a lining of +0 (R125). -/
def padd (nc : NumCfg) (a b : Nat × Nat) : (Nat × Nat) × NFlags :=
  let t := twoSum nc a.1 b.1
  let l := fAdd nc 0 a.2 b.2
  let e := fAdd nc 0 t.1.2 l.1
  let r := fastTwoSum nc t.1.1 e.1
  if nonFinite 0 t.1.1 then ((t.1.1, 0), t.2) else (r.1, ((t.2.or l.2).or e.2).or r.2)

/-- psub of R173. -/
def psub (nc : NumCfg) (a b : Nat × Nat) : (Nat × Nat) × NFlags := padd nc a (fNeg 0 b.1, fNeg 0 b.2)

/-- pmul of R173, with the lining of R125 likewise. -/
def pmul (nc : NumCfg) (a b : Nat × Nat) : (Nat × Nat) × NFlags :=
  let p := fMul nc 0 a.1 b.1
  let e := fFma nc 0 a.1 b.1 (fNeg 0 p.1)
  let m := fMul nc 0 a.2 b.1
  let f := fFma nc 0 a.1 b.2 m.1
  let g := fAdd nc 0 e.1 f.1
  let r := fastTwoSum nc p.1 g.1
  if nonFinite 0 p.1 then ((p.1, 0), p.2) else (r.1, ((((p.2.or e.2).or m.2).or f.2).or g.2).or r.2)

/-- A comparison of cmp (R168, R172). -/
def cmpHolds (cnd : Nat) (a b : FVal) : Bool :=
  let nan := match a, b with | .nan _, _ => true | _, .nan _ => true | _, _ => false
  match cnd with
  | 0 => a.eqv b
  | 1 => !(a.eqv b)
  | 2 => a.lt b
  | 3 => !nan && !(b.lt a)
  | 4 => b.lt a
  | _ => !nan && !(a.lt b)

/-- The format FMTC holds every value of the working format. -/
def holdsAll (wf fmtc : Nat) : Bool :=
  match wf with
  | 0 => fmtc == 0 || fmtc == 14
  | 1 => fmtc == 0 || fmtc == 1 || fmtc == 2 || fmtc == 14
  | _ => fmtc == 14

/-- cvt (R169): through FMTC and back into the working format. -/
def cvtOp (nc : NumCfg) (wf f fmtc a : Nat) : Nat × NFlags :=
  if holdsAll wf fmtc then (a, {})
  else
    let c := convert nc f fmtc none false a
    let v := valOf fmtc c.1
    let back := match fkind f with | .fp p => (p.round false none v).1 | _ => 0
    (back, { c.2 with cnt := 0 })

/-- One micro-op on the temporaries (R169). -/
def stepOp (nc : NumCfg) (wf : Nat) (cs : List Nat) (o : Word) (ts : List Nat) : List Nat × NFlags :=
  let f := wfFmt wf
  let src := fun n => if n < 8 then ts.getD n 0 else cs.getD (n - 8) 0
  let d := fld o 25 23
  let a := src (fld o 22 19)
  let b := src (fld o 18 15)
  let c := src (fld o 14 11)
  let pa := (a, src (fld o 22 19 + 1))
  let pb := (b, src (fld o 18 15 + 1))
  let oa := operand nc f a
  let ob := operand nc f b
  let ma := moved nc f a
  let one := fun (r : Nat × NFlags) => (ts.set d r.1, r.2)
  let two := fun (r : (Nat × Nat) × NFlags) => ((ts.set d r.1.1).set (d + 1) r.1.2, r.2)
  match fld o 31 26 with
  | 0x01 => one ma
  | 0x02 => one (fAdd nc f a b)
  | 0x03 => one (fSub nc f a b)
  | 0x04 => one (fMul nc f a b)
  | 0x05 => one (fFma nc f a b c)
  | 0x06 => let r := arith nc f (fMinMax false oa.1 ob.1); one (r.1, (oa.2.or ob.2).or r.2)
  | 0x07 => let r := arith nc f (fMinMax true oa.1 ob.1); one (r.1, (oa.2.or ob.2).or r.2)
  | 0x08 => one (fAbs f ma.1, ma.2)
  | 0x09 => one (fNeg f ma.1, ma.2)
  | 0x0A => one (if cmpHolds (fld o 10 8) oa.1 ob.1 then oneOf f else 0, oa.2.or ob.2)
  | 0x0B => one (if oa.1.isZero then (moved nc f c).1 else (moved nc f b).1, (oa.2.or (moved nc f b).2).or (moved nc f c).2)
  | 0x0C => one (cvtOp nc wf f (fld o 7 4) a)
  | 0x10 => one (transc nc f exp2F a)
  | 0x11 => one (transc nc f log2F a)
  | 0x12 => one (if f = 14 then rcpF nc 14 a else transc nc f (fun n x => rcpF n 0 x) a)
  | 0x13 => one (if f = 14 then rsqrtF nc 14 a else transc nc f (fun n x => rsqrtF n 0 x) a)
  | 0x14 => one (transc nc f (fun n x => oddTable n tanhMag Config.tanhOff x) a)
  | 0x15 => one (transc nc f (fun n x => oddTable n erfMag Config.erfOff x) a)
  | 0x20 => two (padd nc pa pb)
  | 0x21 => two (psub nc pa pb)
  | 0x22 => two (pmul nc pa pb)
  | _ => (ts, {})

/-- A program on one element (R170). -/
def runOps (nc : NumCfg) (wf : Nat) (cs : List Nat) : List Word → List Nat → NFlags → List Nat × NFlags
  | [], ts, f => (ts, f)
  | o :: r, ts, f => let x := stepOp nc wf cs o ts; runOps nc wf cs r x.1 (f.or x.2)

/-! ## Streams (R174 to R176) -/

/-- vx.ptr (R174). -/
def Tile.runVxPtr (t : Tile) (j : Job) : Tile :=
  let w := j.q.w
  let v : VStream := { kind := fld w 39 38, ptr := j.q.ptr, pr := bit w 13, itype := bit w 12, blk := fld w 11 9, bcast := bit w 8 }
  ({ t with vs := t.vs.put (fld w 41 40) v }).finish j j.l

/-- A stream descriptor: 0 input 0, 1 input 1, 2 output. -/
def Tile.strm (t : Tile) (n : Nat) : VStream := t.vs.get {} n

/-- Elements per line of a tile-memory stream (R175). -/
def VStream.perLine (v : VStream) : Nat := if v.pr then 4 else Machine.perLine v.ptr.fmt

/-- Lines per row. -/
def VStream.rowLines (v : VStream) (cols : Nat) : Nat := cdiv cols v.perLine

/-- Read or write cycles a tile-memory stream reserves per beat (R180). -/
def VStream.rs (v : VStream) (lanes : Nat) : Nat := if v.kind = 0 then cdiv lanes v.perLine else 0

/-- The blocks an accumulator-file stream of n elements spans. -/
def VStream.blocks (v : VStream) (n : Nat) : Nat := cdiv n 256 * (if v.pr then 2 else 1)

/-- The shape of a command: rows, columns, working width, lanes, beats per row. -/
structure VShape where
  rows : Nat
  cols : Nat
  wf : Nat
  deriving DecidableEq, Repr

/-- Beats per row. -/
def VShape.nb (s : VShape) : Nat := cdiv s.cols (wfLanes s.wf)

/-- A tile-memory stream's format breaches R175 for a role (0, 1 inputs, 2 output). -/
def VStream.fmtBad (v : VStream) (wf role : Nat) : Bool :=
  (v.pr && wf != 0) ||
  (v.kind == 0 && ((v.pr && v.ptr.fmt != 0 && v.ptr.fmt != 14) || v.ptr.fmt == 6 || v.ptr.fmt == 7
    || (role == 2 && v.ptr.fmt == 13)))

/-- A stream's kind breaches R176 for a role; E7Q has no effect on a package without the feature (R502). -/
def Tile.kindBad (t : Tile) (e : Env) (v : VStream) (role n : Nat) : Bool :=
  (v.kind == 2 && (role != 0 || v.pr || !(t.e7 e)))
    || (v.kind == 1 && t.e7 e && decide (4 < v.blk + v.blocks n))

/-- The elements a stream covers. -/
def VShape.count (s : VShape) (v : VStream) (role : Nat) : Nat := if role = 1 && v.bcast then s.cols else s.rows * s.cols

/-- What refuses a vx.run or vx.smx in cycle L (R189): subcode and micro-op index. roles are the streams used; outN the elements the
output receives. -/
def Tile.vxBreach (t : Tile) (e : Env) (s : VShape) (smx : Bool) (red : Nat) (prog : EProg) (roles : List Nat) : Option (Nat × Nat) :=
  let n := fun r => if r = 2 && red != 0 then s.rows else s.count (t.strm r) r
  let us := roles.map fun r => (r, t.strm r)
  if us.any fun x => x.2.kind == 2 && !bit e.caps 1 then some (7, 0)
  else if !smx && s.wf == 2 && !bit e.caps 5 then some (7, 0)
  else if !smx && s.wf == 3 then some (4, 0)
  else if us.any fun x => x.2.fmtBad s.wf x.1 || (smx && x.2.pr) then some (1, 0)
  else if smx && roles.contains 1 && !((t.strm 1).kind == 0 && (t.strm 1).ptr.fmt == 13) then some (1, 0)
  else match (if smx then none else prog.breach s.wf) with
    | some i => some (2, i)
    | none =>
      if us.any fun x => t.kindBad e x.2 x.1 (n x.1) then some (3, 0)
      else if red != 0 && (t.strm 2).pr then some (4, 0)
      else if us.any fun x => x.2.kind == 1 && decide (8 < x.2.blk + x.2.blocks (n x.1)) then some (5, 0)
      else if (us.any fun x => x.2.kind == 1 || x.2.kind == 2) && s.cols % wfLanes s.wf != 0 then some (5, 0)
      else if smx && decide (1024 < s.cols) then some (6, 0)
      else none

/-- VXE command fault (R189, R220). -/
def Tile.vxFault (t : Tile) (j : Job) (sub ep idx : Nat) : Tile := t.fault 0x28 sub 2 j.q.pc j.l (ep + idx * 2 ^ 8) 0

/-- The line reads of an input stream: line of row r, line within the stream, and cycle, where cyc gives the cycle of a line read by row, the beat of the row that
first needs it and its number within that beat. The key of a line is its place among the rows' lines, times 2, plus the role. -/
def VStream.reads (v : VStream) (j : Job) (s : VShape) (role : Nat) (cyc : Nat → Nat → Nat → Nat) : List Act :=
  let w := wfLanes s.wf
  let e := v.perLine
  let nl := v.rowLines s.cols
  if v.kind != 0 then []
  else (upTo s.rows).flatMap fun r => (upTo nl).map fun li =>
    let b := li * e / w
    j.rdLine (3 + role) (cyc r b (li - cdiv (b * w) e)) v.ptr ((if role = 1 && v.bcast then 0 else r * nl) + li) (2 * (r * nl + li) + role)

/-- An element of a stream in the working format: its high part, and its lining for a pair stream. -/
abbrev VElem := Nat × Nat

/-- Convert an input element (R175): codes of the stream's format, or of the accumulator file. -/
def inElem (nc : NumCfg) (wf src : Nat) (pr : Bool) (hi lo : Nat) : VElem × NFlags :=
  if pr then
    if src = 14 then
      pairFrom64 nc hi
    else ((hi, lo), {})
  else let c := convert nc src (wfFmt wf) none false hi; ((c.1, 0), c.2)

/-- Element c of row r of a tile-memory input, from the lines read. -/
def VStream.memElem (v : VStream) (nc : NumCfg) (s : VShape) (lines : SMap (List Word)) (role r c : Nat) : VElem × NFlags :=
  let e := v.perLine
  let l := lines.get [] (2 * (r * v.rowLines s.cols + c / e) + role)
  if v.pr && v.ptr.fmt == 0 then inElem nc s.wf 0 true (lineElem 0 l (2 * (c % e))) (lineElem 0 l (2 * (c % e) + 1))
  else inElem nc s.wf v.ptr.fmt v.pr (lineElem v.ptr.fmt l (c % e)) 0

/-- Where element n of an accumulator-file stream stands: its element of the file, and for a pair that of its lining. -/
def VStream.accAt (v : VStream) (n : Nat) : Nat × Nat :=
  if v.pr then
    let b := v.blk / 2 * 2 + 2 * (n / 256)
    (256 * b + n % 256, 256 * (b + 1) + n % 256)
  else (256 * v.blk + n, 256 * v.blk + n)

/-- Element c of row r of an accumulator-file input. -/
def VStream.accElem (v : VStream) (nc : NumCfg) (s : VShape) (old : Mxe) (role r c : Nat) : VElem × NFlags :=
  let a := v.accAt (if role = 1 && v.bcast then c else r * s.cols + c)
  if v.pr then inElem nc s.wf 0 true (old.elem a.1) (old.elem a.2)
  else inElem nc s.wf (if v.itype then 9 else 0) false (old.elem a.1) 0

/-- Element n of a finished-tile queue input: of the head entry, or zero where there is none (R176). -/
def VStream.queueElem (v : VStream) (nc : NumCfg) (s : VShape) (old : Mxe) (n : Nat) : VElem × NFlags :=
  if old.e7cnt = 0 then ((0, 0), {}) else inElem nc s.wf (if v.itype then 9 else 0) false (old.elem (256 * (4 + old.e7head) + n % 256)) 0

/-- The head entry leaves the finished-tile queue. -/
def Mxe.pop (m : Mxe) : Mxe := if m.e7cnt = 0 then m else { m with e7head := (m.e7head + 1) % 4, e7cnt := m.e7cnt - 1 }

/-- The columns of beat b of a row. -/
def VShape.beat (s : VShape) (b : Nat) : List Nat := ((upTo (wfLanes s.wf)).map fun i => wfLanes s.wf * b + i).filter fun c => decide (c < s.cols)

/-- A beat's elements of one input enter, converted, with flags (R175): those of the accumulator file and of the finished-tile queue are read in that cycle, whose head
entry leaves with its last element; an empty queue underruns (R176). -/
def Tile.vxEnter (t : Tile) (old : Mxe) (f : Flow) (s : VShape) (role cyc r b : Nat) : List VElem × Tile :=
  let v := f.vs.getD role {}
  let nc := t.cfg.num
  let cs := s.beat b
  match v.kind with
  | 0 => let es := cs.map fun c => v.memElem nc s f.lines role r c; (es.map fun x => x.1, t.flag (flagsOf (es.map fun x => x.2)))
  | 1 => let es := cs.map fun c => v.accElem nc s old role r c; (es.map fun x => x.1, t.flag (flagsOf (es.map fun x => x.2)))
  | 2 =>
    let es := cs.map fun c => v.queueElem nc s old (r * s.cols + c)
    let t1 := t.flag (flagsOf (es.map fun x => x.2))
    let t2 := if old.e7cnt = 0 then t1.fault 0x29 0 2 f.q.pc cyc 0 0 else t1
    (es.map fun x => x.1, if cs.any fun c => (r * s.cols + c) % 256 == 255 then t2.setMxe t2.mxe.pop else t2)
  | _ => (cs.map fun _ => (0, 0), t)

/-- Convert results for the output stream (R175, R178): the codes written, high and low parts, with the draws of R111. A conversion to FP32 for an accumulator-file
output counts like one on an input (DESIGN CHOICE, log entry 84). -/
def Tile.vxConvert (t : Tile) (f : Flow) (cyc wf : Nat) (v : VStream) (es : List VElem) : List VElem × Tile :=
  let nc := t.cfg.num
  match v.kind with
  | 0 =>
    if v.pr then
      if v.ptr.fmt = 14 then
        let rs := es.map fun x => pairTo nc 14 x.1 x.2
        (rs.map fun r => (r.1, 0), t.flag (flagsOf (rs.map fun r => r.2)))
      else (es, t)
    else
      let d := t.storeDraws f.env v.ptr cyc (wfFmt wf) es.length f.q.cuff
      let c := convertAll nc (wfFmt wf) v.ptr.fmt false (es.map fun x => x.1) d.1
      (c.1.map fun x => (x, 0), d.2.flag c.2)
  | 1 =>
    if v.pr then (es, t)
    else
      let c := convertAll nc (wfFmt wf) 0 false (es.map fun x => x.1) []
      (c.1.map fun x => (x, 0), t.flag c.2)
  | _ => (es, t)

/-- How many written elements are NaN or infinite (R187). -/
def VStream.nonFin (v : VStream) (es : List VElem) : Nat :=
  let f := if v.kind = 0 && !(v.pr && v.ptr.fmt == 0) then v.ptr.fmt else 0
  (es.filter fun x => nonFinite f x.1).length

/-- The output line of its elements. -/
def VStream.outLine (v : VStream) (es : List VElem) : List Word :=
  if v.pr && v.ptr.fmt == 0 then packLine 0 (es.flatMap fun x => [x.1, x.2]) else packLine v.ptr.fmt (es.map fun x => x.1)

/-- Store converted results into the accumulator file from element n on, but for those that the array or the drain unit writes in the cycle (R130, R182): the shadows of the
blocks written are spoilt (R159), and what is NaN or infinite is counted (R187). -/
def Tile.vxAccStore (t : Tile) (lost : Nat → Bool) (v : VStream) (n : Nat) (es : List VElem) : Tile :=
  (numbered es).foldl (fun t x =>
    let a := v.accAt (n + x.1)
    let put := fun (t : Tile) (k y : Nat) => if lost k then t else t.setMxe ((t.mxe.setElems k [y]).spoil (k / 256))
    let t1 := put t a.1 x.2.1
    let t2 := if v.pr then put t1 a.2 x.2.2 else t1
    if lost a.1 then t2 else t2.nfVxe (b2n (nonFinite 0 x.2.1))) t

/-- Advance the descriptors (R175, R178): a tile-memory stream by the lines its rows span, an accumulator-file stream by blocks. -/
def Tile.vxAdv (t : Tile) (adv : Bool) (role lines blocks : Nat) : Tile :=
  if !adv then t else
    let v := t.strm role
    match v.kind with
    | 0 => { t with vs := t.vs.put role { v with ptr := v.ptr.adv lines } }
    | 1 => { t with vs := t.vs.put role { v with blk := (v.blk + blocks) % 8 } }
    | _ => t

/-- The advance of an input stream. -/
def Tile.vxAdvIn (t : Tile) (adv : Bool) (s : VShape) (role : Nat) : Tile :=
  let v := t.strm role
  let rows := if role = 1 && v.bcast then 1 else s.rows
  t.vxAdv adv role (rows * v.rowLines s.cols) (v.blocks (rows * s.cols))

/-! ## Reductions (R178) -/

/-- The identity of a reduction: -0, -infinity, +infinity. -/
def redId (f red : Nat) : Nat :=
  let sgn := 2 ^ (fmtBits f - 1)
  match fkind f with
  | .fp p => if red = 1 then sgn else p.infCode (decide (red = 2))
  | _ => 0

/-- One combine. -/
def redOp (nc : NumCfg) (f red a b : Nat) : Nat × NFlags :=
  if red = 1 then fAdd nc f a b
  else
    let x := operand nc f a
    let y := operand nc f b
    let r := arith nc f (fMinMax (decide (red = 2)) x.1 y.1)
    (r.1, (x.2.or y.2).or r.2)

/-- Fold one lane. -/
def redLane (nc : NumCfg) (f red : Nat) : List Nat → Nat → NFlags → Nat × NFlags
  | [], a, fl => (a, fl)
  | x :: r, a, fl => let y := redOp nc f red a x; redLane nc f red r y.1 (fl.or y.2)

/-- Combine neighbours. -/
def redPairs (nc : NumCfg) (f red : Nat) : List Nat → List Nat × NFlags
  | a :: b :: r => let x := redOp nc f red a b; let y := redPairs nc f red r; (x.1 :: y.1, x.2.or y.2)
  | l => (l, {})

/-- Repeat until one remains. -/
def redTree (nc : NumCfg) (f red : Nat) : Nat → List Nat → NFlags → Nat × NFlags
  | 0, l, fl => (l.getD 0 0, fl)
  | n + 1, l, fl => if l.length ≤ 1 then (l.getD 0 0, fl) else let r := redPairs nc f red l; redTree nc f red n r.1 (fl.or r.2)

/-- The reduction of a row: each entry is a column and its value; a column not listed takes no part. -/
def reduceRow (nc : NumCfg) (f red lanes : Nat) (xs : List (Nat × Nat)) : Nat × NFlags :=
  let ls := (upTo lanes).map fun l =>
    redLane nc f red ((xs.filter fun x => x.1 % lanes == l).map fun x => x.2) (redId f red) {}
  redTree nc f red 8 (ls.map fun x => x.1) (flagsOf (ls.map fun x => x.2))

/-! ## vx.run (R177 to R180) -/

/-- The timing of a vx.run (R180): B, the delay from a beat's begin to its elements' entry, the program latency and nb. -/
structure VTime where
  b : Nat
  inp : Nat
  lat : Nat
  nb : Nat
  deriving DecidableEq, Repr

/-- The program latency (R180): 4 cycles a slot, at the profile's latencies (R239). -/
def EProg.latency (p : EProg) (q : Pads) (wf : Nat) : Nat :=
  ((4 * p.slots wf : Nat) + p.run.foldl (fun (a : Int) o =>
    let opc := fld o 31 26
    a + if 0x10 ≤ opc ∧ opc ≤ 0x15 then q.getD 3 0 else (opSlots opc wf).getD 0 * q.getD 4 0) 0).toNat

/-- B, the entry delay, the latency and nb, of the streams input 0, input 1, output. -/
def vxTime (q : Pads) (vs : List VStream) (s : VShape) (prog : EProg) : VTime :=
  let w := wfLanes s.wf
  let rs := fun (i : Nat) => (vs.getD i {}).rs w
  { b := max (max (prog.slots s.wf) (rs 0)) (max (rs 1) (rs 2)), inp := q.latency 1 + max (rs 0) (rs 1), lat := prog.latency q s.wf, nb := s.nb }

/-- T_b: the cycle a beat begins. -/
def VTime.start (x : VTime) (l b : Nat) : Nat := l + 1 + x.b * b

/-- A_b: the cycle a beat's elements enter the program. -/
def VTime.enter (x : VTime) (l b : Nat) : Nat := x.start l b + x.inp

/-- The cycle in which a row's result is written, where RED is not 0. -/
def VTime.row (x : VTime) (l r : Nat) : Nat := x.enter l (r * x.nb + x.nb - 1) + x.lat + 4

/-- The lines of a tile-memory output with the cycle each is written: row lines with RED = 0, packed row results otherwise. -/
def VStream.writes (v : VStream) (s : VShape) (red : Nat) (x : VTime) (l : Nat) : List (Nat × Nat) :=
  let e := v.perLine
  let w := wfLanes s.wf
  if red = 0 then
    let nl := v.rowLines s.cols
    let last := fun (li : Nat) => (min ((li + 1) * e) s.cols - 1) / w
    (upTo s.rows).flatMap fun r => (upTo nl).map fun y =>
      (r * nl + y, x.enter l (r * x.nb + last y) + x.lat + ((upTo y).filter fun li => last li == last y).length)
  else (upTo (cdiv s.rows e)).map fun y => (y, x.row l (min ((y + 1) * e) s.rows - 1))

/-- The cycles of a command's first and last output writes (or where they would fall, R180). -/
def vxSpan (v : VStream) (s : VShape) (red : Nat) (x : VTime) (l : Nat) : Nat × Nat :=
  if v.kind = 0 then
    let cs := (v.writes s red x l).map fun y => y.2
    (minOr 0 cs, maxOr 0 cs)
  else if red = 0 then (x.enter l 0 + x.lat, x.enter l (s.rows * x.nb - 1) + x.lat)
  else (x.row l 0, x.row l (s.rows - 1))

/-- The shape of a vx.run. -/
def runShape (w : IWord) : VShape := { rows := fld w 35 28 + 1, cols := fld w 27 16 + 1, wf := fld w 37 36 }

/-- Results of every element: t7 or p3, with the flags of all micro-ops. -/
def runAll (nc : NumCfg) (wf : Nat) (prog : EProg) (p0 p1 : Bool) : List VElem → List VElem → List VElem × NFlags
  | a :: ra, b :: rb =>
    let cs := prog.constsIn nc (wfFmt wf)
    let ts := [a.1, if p0 then a.2 else 0, b.1, if p1 then b.2 else 0, 0, 0, 0, 0]
    let r := runOps nc wf cs prog.run ts {}
    let q := runAll nc wf prog p0 p1 ra rb
    ((r.1.getD 7 0, r.1.getD 6 0) :: q.1, r.2.or q.2)
  | _, _ => ([], {})

/-- Pairs of numbers in one list. -/
def flatPairs (es : List VElem) : List Nat := es.flatMap fun x => [x.1, x.2]

/-- The pairs of such a list, i of them from pair n on. -/
def unflat (xs : List Nat) (n i : Nat) : List VElem := (upTo i).map fun k => (xs.getD (2 * (n + k)) 0, xs.getD (2 * (n + k) + 1) 0)

/-- The acts of a vx.run (R180): its line reads, the entry of each beat (part 2 b), the results of each beat or row (part 2 b + 1), and its line writes. -/
def vxActs (j : Job) (vs : List VStream) (s : VShape) (red : Nat) (x : VTime) : List Act :=
  let cyc := fun (r b i : Nat) => x.start j.l (r * x.nb + b) + i
  let vo := vs.getD 2 {}
  ((vs.getD 0 {}).reads j s 0 cyc) ++ ((vs.getD 1 {}).reads j s 1 cyc)
  ++ ((upTo (s.rows * x.nb)).map fun b => j.act 5 (x.enter j.l b) (.calc (2 * b)))
  ++ (if red != 0 then (upTo s.rows).map fun r => j.act 5 (x.row j.l r) (.calc (2 * (r * x.nb + x.nb - 1) + 1))
      else if vo.kind = 1 then (upTo (s.rows * x.nb)).map fun b => j.act 5 (x.enter j.l b + x.lat) (.calc (2 * b + 1)) else [])
  ++ (if vo.kind = 0 then (vo.writes s red x j.l).map fun y => j.wrLine 5 y.2 vo.ptr y.1 y.1 else [])

/-- The program of a vx.run. -/
def Tile.vxProg (t : Tile) (w : IWord) : EProg := t.tab.progs.get {} (fld w 41 38)

/-- A part of a vx.run in its cycle: a beat enters and runs the program (R170), whose results are kept by beat; or a beat's results are written to the accumulator
file, or a row's result is formed, kept, and written there (R178). -/
def Tile.vxCalc (t : Tile) (old : Mxe) (lost : Nat → Bool) (f : Flow) (cmd cyc k : Nat) : Tile :=
  let w := f.q.w
  let s := runShape w
  let red := fld w 15 14
  let vo := f.vs.getD 2 {}
  let b := k / 2
  let r := b / s.nb
  if k % 2 = 0 then
    let i0 := t.vxEnter old f s 0 cyc r (b % s.nb)
    let i1 := i0.2.vxEnter old f s 1 cyc r (b % s.nb)
    let rs := runAll t.cfg.num s.wf (t.vxProg w) (f.vs.getD 0 {}).pr (f.vs.getD 1 {}).pr i0.1 i1.1
    (i1.2.flagOnly rs.2).putVals cmd k (flatPairs (if vo.pr then rs.1.map fun y => (y.2, y.1) else rs.1.map fun y => (y.1, 0)))
  else if red = 0 then
    let n := (s.beat (b % s.nb)).length
    let cv := t.vxConvert f cyc s.wf vo (unflat (f.vals.get [] (2 * b)) 0 n)
    cv.2.vxAccStore lost vo (r * s.cols + wfLanes s.wf * (b % s.nb)) cv.1
  else
    let xs := (upTo s.nb).flatMap fun i => (unflat (f.vals.get [] (2 * (r * s.nb + i))) 0 (s.beat i).length).map fun y => y.1
    let q := reduceRow t.cfg.num (wfFmt s.wf) red (wfLanes s.wf) (numbered xs)
    let t1 := (t.flagOnly q.2).putVals cmd (2 * r + 1) [q.1]
    if vo.kind = 1 then let cv := t1.vxConvert f cyc s.wf vo [(q.1, 0)]; cv.2.vxAccStore lost vo r cv.1 else t1

/-- An output line of a vx.run as it is written, and how many of its elements the VXE non-finite counter counts (R187). -/
def Tile.vxLine (t : Tile) (f : Flow) (cyc y : Nat) : List Word × Nat × Tile :=
  let w := f.q.w
  let s := runShape w
  let vo := f.vs.getD 2 {}
  let e := vo.perLine
  let lanes := wfLanes s.wf
  let es : List VElem :=
    if fld w 15 14 = 0 then
      let nl := vo.rowLines s.cols
      let r := y / nl
      let c0 := y % nl * e
      ((upTo e).map fun i => c0 + i).filterMap fun c =>
        if c < s.cols then (unflat (f.vals.get [] (2 * (r * s.nb + c / lanes))) (c % lanes) 1).head? else none
    else ((upTo e).map fun i => y * e + i).filterMap fun r => if r < s.rows then some ((f.vals.get [] (2 * r + 1)).getD 0 0, 0) else none
  let cv := t.vxConvert f cyc s.wf vo es
  (vo.outLine cv.1, vo.nonFin cv.1, cv.2)

/-- vx.run past its checks. -/
def Tile.vxRunGo (t : Tile) (j : Job) (s : VShape) (red : Nat) (prog : EProg) : Tile :=
  let w := j.q.w
  let vs := [t.strm 0, t.strm 1, t.strm 2]
  let x := vxTime j.q.pads vs s prog
  let vo := t.strm 2
  let sp := vxSpan vo s red x j.l
  let t1 := t.plan j.key (j.flow [] vs) ((vxActs j vs s red x).foldr insAct [])
  let adv := bit w 13
  let ol := if red = 0 then s.rows * vo.rowLines s.cols else cdiv s.rows vo.perLine
  let ob := if red = 0 then vo.blocks (s.rows * s.cols) else cdiv s.rows 256
  let t2 := ((t1.vxAdvIn adv s 0).vxAdvIn adv s 1).vxAdv adv 2 ol ob
  (t2.updEng 2 fun e => { e with accept := j.l + x.b * s.rows * x.nb, lastWrite := if vo.kind = 3 then 0 else sp.2 }).finish j (sp.2 + 1)

/-- The handles a command's streams use (R86). -/
def Tile.vxHandles (t : Tile) (roles : List Nat) : List Ptr :=
  (roles.map t.strm).filterMap fun v => if v.kind = 0 then some v.ptr else none

/-- vx.run (R177). -/
def Tile.runVxRun (t : Tile) (j : Job) : Tile :=
  let w := j.q.w
  let s := runShape w
  let red := fld w 15 14
  let prog := t.vxProg w
  let hs := t.vxHandles [0, 1, 2]
  if !(hs.all Ptr.ok) then t.badHandles 2 j.q.pc j.l hs
  else match t.vxBreach j.env s false red prog [0, 1, 2] with
    | some (sub, i) => t.vxFault j sub (fld w 41 38) i
    | none => t.vxRunGo j s red prog

/-! ## vx.smx (R183 to R186) -/

/-- The timing of a vx.smx row: Rin, Rout and nb (R186). -/
structure SmxTime where
  rin : Nat
  rout : Nat
  nb : Nat
  deriving DecidableEq, Repr

/-- T_row. -/
def SmxTime.row (x : SmxTime) : Nat := x.nb * (x.rin + 4 + x.rout) + 16

/-- Q_r. -/
def SmxTime.start (x : SmxTime) (l r : Nat) : Nat := l + 1 + r * x.row

/-- The cycle of a row's statistics and of its first output. -/
def SmxTime.out (x : SmxTime) (l r : Nat) : Nat := x.start l r + x.nb * (x.rin + 4) + 16

/-- The timing of a vx.smx on its streams. -/
def smxTime (vs : List VStream) (s : VShape) (mask : Bool) : SmxTime :=
  let rs := fun (i : Nat) => (vs.getD i {}).rs 16
  { rin := max (rs 0) (if mask then rs 1 else 0), rout := max 1 (rs 2), nb := cdiv s.cols 16 }

/-- One row's outcome: outputs, m, s, flags, and the entries the VXE counter and the two row counters take (R184, R185). -/
structure SmxRow where
  y : List Nat
  m : Nat
  s : Nat
  f : NFlags
  infs : Nat
  empty : Bool
  deriving DecidableEq, Repr

/-- Softmax of one row: entries with their masks (true: masked). -/
def smxRow (nc : NumCfg) (xs : List (Nat × Bool)) : SmxRow :=
  let um := (numbered xs).filterMap fun x => if x.2.2 then none else some (x.1, x.2.1)
  let nan := 0x7FC00000
  let pinf := 0x7F800000
  let minf := 0xFF800000
  let isNan := fun c => match valOf 0 c with | .nan _ => true | _ => false
  let k := (um.filter fun x => x.2 == pinf).length
  if um.any fun x => isNan x.2 then { y := xs.map fun _ => nan, m := nan, s := nan, f := {}, infs := 0, empty := false }
  else if um.all fun x => x.2 == minf then { y := xs.map fun _ => 0, m := minf, s := 0, f := {}, infs := 0, empty := true }
  else if 1 ≤ k then
    let kc := (arith nc 0 (.fin false k 0)).1
    let q := 2 ^ 48 / k
    let inv := if 2 ^ 48 % k = 0 then (arith nc 0 (.fin false q (-48))).1 else (arith nc 0 (.fin false (2 * q + 1) (-49))).1
    { y := xs.map fun x => if !x.2 && x.1 == pinf then inv else 0, m := pinf, s := kc, f := {}, infs := k, empty := false }
  else
    let m := reduceRow nc 0 2 16 um
    let es := um.map fun x =>
      let d := fSub nc 0 x.2 m.1
      let p := fMul nc 0 d.1 0x3FB8AA3B
      let e := exp2F nc p.1
      (x.1, e.1, (d.2.or p.2).or e.2)
    let s := reduceRow nc 0 1 16 (es.map fun x => (x.1, x.2.1))
    let r := rcpF nc 0 s.1
    let ys := es.map fun x => let y := fMul nc 0 x.2.1 r.1; (x.1, y.1, y.2)
    let f := ((((flagsOf (es.map fun x => x.2.2)).or m.2).or s.2).or r.2).or (flagsOf (ys.map fun y => y.2.2))
    { y := (upTo xs.length).map fun c => ((ys.find? fun y => y.1 == c).map fun y => y.2.1).getD 0, m := m.1, s := s.1, f := f,
      infs := 0, empty := false }

/-- The output lines of a vx.smx with their cycles (R186). -/
def VStream.smxWrites (v : VStream) (s : VShape) (x : SmxTime) (l : Nat) : List (Nat × Nat) :=
  let e := v.perLine
  let nl := v.rowLines s.cols
  let last := fun (li : Nat) => (min ((li + 1) * e) s.cols - 1) / 16
  (upTo s.rows).flatMap fun r => (upTo nl).map fun y =>
    (r * nl + y, x.out l r + x.rout * last y + ((upTo y).filter fun li => last li == last y).length)

/-- The cycles of the first and of the last output write of a vx.smx, or where they would fall (R186). -/
def smxSpan (v : VStream) (s : VShape) (x : SmxTime) (l : Nat) : Nat × Nat :=
  let o := x.out l (s.rows - 1)
  if v.kind = 0 then
    let cs := (v.smxWrites s x l).map fun y => y.2
    (minOr 0 cs, maxOr 0 cs)
  else if v.kind = 1 then (x.out l 0, o + (x.nb - 1))
  else (x.out l 0, o + x.rout * (x.nb - 1))

/-- The acts of a vx.smx (R186): its line reads, the entry of the beats that are not read from tile memory (part 3 b), each row (part 3 r + 1), the results of each
beat for the accumulator file (part 3 b + 2), and its line writes. -/
def smxActs (j : Job) (vs : List VStream) (s : VShape) (mask : Bool) (x : SmxTime) : List Act :=
  let cyc := fun (r b i : Nat) => x.start j.l r + x.rin * b + i
  let vo := vs.getD 2 {}
  let beats := (upTo s.rows).flatMap fun r => (upTo x.nb).map fun b => (r, b)
  ((vs.getD 0 {}).reads j s 0 cyc) ++ (if mask then (vs.getD 1 {}).reads j s 1 cyc else [])
  ++ (if (vs.getD 0 {}).kind = 0 then [] else beats.map fun y => j.act 5 (x.start j.l y.1 + x.rin * y.2) (.calc (3 * (y.1 * x.nb + y.2))))
  ++ ((upTo s.rows).map fun r => j.act 5 (x.out j.l r) (.calc (3 * r + 1)))
  ++ (if vo.kind = 1 then beats.map fun y => j.act 5 (x.out j.l y.1 + y.2) (.calc (3 * (y.1 * x.nb + y.2) + 2)) else [])
  ++ (if vo.kind = 0 then (vo.smxWrites s x j.l).map fun y => j.wrLine 5 y.2 vo.ptr y.1 y.1 else [])

/-- The shape of a vx.smx. -/
def smxShape (w : IWord) : VShape := { rows := fld w 35 28 + 1, cols := fld w 27 16 + 1, wf := 0 }

/-- Row r of a vx.smx in the cycle of its statistics (R184 to R187): its results are kept, its statistics are written where STATS is set, and its counters move. -/
def Tile.smxRowCalc (t : Tile) (lost : Nat → Bool) (f : Flow) (s : VShape) (cmd r : Nat) : Tile :=
  let w := f.q.w
  let nc := t.cfg.num
  let v0 := f.vs.getD 0 {}
  let v1 := f.vs.getD 1 {}
  let inp : List VElem × Tile :=
    if v0.kind = 0 then
      let es := (upTo s.cols).map fun c => v0.memElem nc s f.lines 0 r c
      (es.map fun x => x.1, t.flag (flagsOf (es.map fun x => x.2)))
    else ((upTo s.nb).flatMap fun b => unflat (f.vals.get [] (3 * (r * s.nb + b))) 0 (s.beat b).length, t)
  let masked := fun (c : Nat) => bit w 15 && lineElem 13 (f.lines.get [] (2 * (r * v1.rowLines s.cols + c / 256) + 1)) (c % 256) == 1
  let x := smxRow nc ((numbered inp.1).map fun y => (y.2.1, masked y.1))
  let t1 := (inp.2.flagOnly x.f).putVals cmd (3 * r + 1) x.y
  let t2 := if bit w 14 then
      t1.vxAccStore lost { kind := 1, blk := fld w 13 11 } (16 * (r % 16)) [(x.m, 0), (x.s, 0)]
    else t1
  let t3 := t2.nfVxe x.infs
  t3.setCnt { t3.cnt with emptyn := satTo 0xFFFF (t3.cnt.emptyn + b2n x.empty), pinfn := satTo 0xFFFF (t3.cnt.pinfn + b2n (x.infs != 0)) }

/-- A part of a vx.smx in its cycle. -/
def Tile.smxCalc (t : Tile) (old : Mxe) (lost : Nat → Bool) (f : Flow) (cmd cyc k : Nat) : Tile :=
  let s := smxShape f.q.w
  let b := k / 3
  let r := b / s.nb
  if k % 3 = 0 then let i := t.vxEnter old f s 0 cyc r (b % s.nb); i.2.putVals cmd k (flatPairs i.1)
  else if k % 3 = 1 then t.smxRowCalc lost f s cmd b
  else
    let ys := (s.beat (b % s.nb)).map fun c => ((f.vals.get [] (3 * r + 1)).getD c 0, 0)
    let cv := t.vxConvert f cyc 0 (f.vs.getD 2 {}) ys
    cv.2.vxAccStore lost (f.vs.getD 2 {}) (r * s.cols + 16 * (b % s.nb)) cv.1

/-- An output line of a vx.smx as it is written, and how many of its elements the VXE non-finite counter counts. -/
def Tile.smxLine (t : Tile) (f : Flow) (cyc y : Nat) : List Word × Nat × Tile :=
  let s := smxShape f.q.w
  let vo := f.vs.getD 2 {}
  let nl := vo.rowLines s.cols
  let ys := f.vals.get [] (3 * (y / nl) + 1)
  let es := ((upTo vo.perLine).map fun i => y % nl * vo.perLine + i).filterMap fun c => if c < s.cols then some (ys.getD c 0, 0) else none
  let cv := t.vxConvert f cyc 0 vo es
  (vo.outLine cv.1, vo.nonFin cv.1, cv.2)

/-- vx.smx past its checks. -/
def Tile.vxSmxGo (t : Tile) (j : Job) (s : VShape) : Tile :=
  let w := j.q.w
  let mask := bit w 15
  let vs := [t.strm 0, t.strm 1, t.strm 2]
  let x := smxTime vs s mask
  let vo := t.strm 2
  let t1 := t.plan j.key (j.flow [] vs) ((smxActs j vs s mask x).foldr insAct [])
  let adv := bit w 10
  let t2 := t1.vxAdvIn adv s 0
  let t3 := if mask then t2.vxAdvIn adv s 1 else t2
  let t4 := t3.vxAdv adv 2 (s.rows * vo.rowLines s.cols) (vo.blocks (s.rows * s.cols))
  let out := (smxSpan vo s x j.l).2
  let last := if bit w 14 then max out (x.out j.l (s.rows - 1)) else out
  (t4.updEng 2 fun e => { e with accept := j.l + s.rows * x.row, lastWrite := if vo.kind = 3 then 0 else out }).finish j (last + 1)

/-- vx.smx (R183). -/
def Tile.runVxSmx (t : Tile) (j : Job) : Tile :=
  let w := j.q.w
  let s := smxShape w
  let roles := if bit w 15 then [0, 1, 2] else [0, 2]
  let hs := t.vxHandles roles
  if !(hs.all Ptr.ok) then t.badHandles 2 j.q.pc j.l hs
  else match t.vxBreach j.env s true 0 {} roles with
    | some (sub, i) => t.vxFault j sub 0 i
    | none => if bit w 14 && t.e7 j.env && decide (4 ≤ fld w 13 11) then t.vxFault j 3 0 0 else t.vxSmxGo j s

/-- How much later than a cycle a VXE command must leave so that its first output write falls after the last one of the previous command
(R179). -/
def Tile.vxDelay (t : Tile) (q : QCmd) (l : Nat) : Nat :=
  let w := q.w
  let vs := [t.strm 0, t.strm 1, t.strm 2]
  if (t.strm 2).kind = 3 then 0
  else if iOp w = 0x10 then (t.eng 2).lastWrite + 1 - (vxSpan (t.strm 2) (runShape w) (fld w 15 14) (vxTime q.pads vs (runShape w) (t.vxProg w)) l).1
  else if iOp w = 0x20 then (t.eng 2).lastWrite + 1 - (smxSpan (t.strm 2) (smxShape w) (smxTime vs (smxShape w) (bit w 15)) l).1
  else 0

/-- A part of a vx. command in its cycle. -/
def Tile.vxPart (t : Tile) (old : Mxe) (lost : Nat → Bool) (f : Flow) (cmd cyc k : Nat) : Tile :=
  if iOp f.q.w = 0x10 then t.vxCalc old lost f cmd cyc k else t.smxCalc old lost f cmd cyc k

end Sys2Proof.Machine
end

