-- ==== Sys2Proof/Machine/Cycle.lean ====
section
/-! DEFINITION. What the commands of a tile do in a cycle (R75 to R85, R130, R214), and the accesses in flight played one cycle after another: the
requests of a cycle, its conflicts, its reads, the engines' work, and its writes. -/

namespace Sys2Proof.Machine

/-! ## One cycle -/

/-- A send from the accumulator file reads line m (R229). -/
def Tile.sendCalc (t : Tile) (old : Mxe) (f : Flow) (cmd m : Nat) : Tile :=
  t.putLine cmd m ((upTo 8).map fun i => old.acc.get 0 (256 * fld f.q.w 13 11 + 8 * m + i))

/-- A part of a command's work, in its cycle; old is the accumulator file before the cycle, and lost tells the elements that the array or the drain unit writes in it. -/
def Tile.workAct (t : Tile) (old : Mxe) (lost : Nat → Bool) (a : Act) : Tile :=
  match a.eff with
  | .calc k =>
    let f := t.pipe.get {} a.cmd
    match iEng f.q.w with
    | 1 => t.mxCalc old f a.cmd a.cyc k
    | 2 => t.vxPart old lost f a.cmd a.cyc k
    | 6 => t.sendCalc old f a.cmd k
    | _ => t.p7Calc f a.cmd k
  | _ => t

/-- The engines' work of a cycle: the array, then the drain unit, then the VXE, whose writes lose to both (R130), then the others. -/
def Tile.works (t : Tile) (as : List Act) : Tile :=
  let old := t.mxe
  let ws := as.flatMap fun a => match a.eff with
    | .calc k => if a.who.eng = 1 then (t.pipe.get {} a.cmd).mxWrites old k else []
    | _ => []
  let lost := fun (n : Nat) => ws.any fun x => decide (x.1 ≤ n) && decide (n < x.1 + x.2)
  let order := (as.filter fun a => a.who.eng == 1 && a.who.port == 0) ++ (as.filter fun a => a.who.eng == 1 && a.who.port != 0)
    ++ (as.filter fun a => a.who.eng == 2) ++ as.filter fun a => decide (2 < a.who.eng)
  order.foldl (fun t a => t.workAct old lost a) t

/-- The words that an output of a command holds as it is written, with the draws and the flags of its conversion (R214); ok tells whether the write is performed,
since the VXE counts what it writes (R187). -/
def Tile.outWords (t : Tile) (a : Act) (out : Nat) (ok : Bool) : List Word × Tile :=
  let f := t.pipe.get {} a.cmd
  let vx := fun (r : List Word × Nat × Tile) => (r.1, if ok then r.2.2.nfVxe r.2.1 else r.2.2)
  match iEng f.q.w, iOp f.q.w with
  | 1, 0x22 => t.stLine f a.cyc out
  | 2, 0x10 => vx (t.vxLine f a.cyc out)
  | 2, 0x20 => vx (t.smxLine f a.cyc out)
  | 3, 0x14 => t.rndLine f a.cyc
  | _, _ => (f.lines.get zeroLine out, t)

/-- A cycle's write, where it is performed. -/
def Tile.writeReq (t : Tile) (c : Nat) (x : Req) (ok : Bool) : Tile :=
  match x.act.eff with
  | .wr _ _ _ out => let r := t.outWords x.act out ok; if ok then r.2.poke x.a (r.1.take x.n) else r.2
  | .row true _ _ _ key => if ok then t.poke x.a (((t.pipe.get {} x.act.cmd).lines.get zeroLine key).take 8) else t
  | .acs _ _ out =>
    if ok then (Tile.accWords t.cfg.num x.act.who c x.a ((t.pipe.get {} x.act.cmd).acsLine out) t).holdBank x.act.who c x.a else t
  | .stash _ v => if ok then t.poke x.a [v] else t
  | .recv _ _ _ ws => if ok then t.poke x.a (ws.take 8) else t
  | _ => t

/-- The receive write of port 6 in a cycle: PC and DATA0 (R233, R238). -/
def recvOf (as : List Act) : Option (Nat × Nat) :=
  (as.filterMap fun a => match a.eff with | .recv _ _ d0 _ => some (a.who.pc, d0) | _ => none).head?

/-- A cycle's read, where it is performed; a send read that falls in the cycle of a receive write is suppressed (R233). -/
def Tile.readsReq (t : Tile) (c : Nat) (recv : Option (Nat × Nat)) (x : Req) (ok : Bool) : Tile :=
  match x.act.eff.reads with
  | none => t
  | some key =>
    match if x.act.who.port = 6 then recv else none with
    | some (pc, d0) => (t.fault 0x41 0 6 pc c d0 0).putLine x.act.cmd key (List.replicate x.n 0)
    | none => t.readReq c x key ok

/-- One cycle: its accesses are requested and meet, what they read is delivered, the engines work, and writes are stored in the order of the ports.
sy.commit's part comes with the cycle's beginning for NFSTEP, and with its end for the streams (R213, R305). -/
def Tile.playCyc (t : Tile) (c : Nat) (as : List Act) : Tile :=
  let rs : List Req := t.reqs as
  let goes : List (Req × Bool) := rs.map fun x => (x, t.performs c rs x)
  let commit := as.any fun a => a.eff == .commit
  let t1 := t.accessFaults c rs
  let t2 := (t1.setSched (((rs.filter fun x => x.refs.isEmpty).map Req.sched) ++ t1.sched)).setCnt { t1.cnt with nfStep := t1.cnt.nfStep && !commit }
  let t3 := (goes.foldl (fun (t : Tile) x => t.readsReq c (recvOf as) x.1 x.2) t2).works as
  let t4 := (upTo 8).foldl (fun (t : Tile) p => (goes.filter fun x => x.1.act.who.port == p).foldl (fun (t : Tile) x => t.writeReq c x.1 x.2) t) t3
  let t5 := as.foldl (fun (t : Tile) a => match a.eff with | .poke x ws => t.poke x ws | _ => t) t4
  if commit then { t5 with rng := [] } else t5

/-! ## The cycles in flight -/

/-- Play acts in the order of their cycles, at most n cycles. -/
def Tile.play : Nat → List Act → Tile → Tile
  | 0, _, t => t
  | _, [], t => t
  | n + 1, a :: r, t =>
    Tile.play n (r.dropWhile fun b => b.cyc == a.cyc) (t.playCyc a.cyc (a :: r.takeWhile fun b => b.cyc == a.cyc))

/-- A tile on its own, with no act in flight. -/
def Tile.alone (t : Tile) (c : Core) : Tile := { t.withCore c with base := none, acts := [] }

/-- The tile that the acts in flight start from. -/
def Tile.start0 (t : Tile) : Core := t.base.getD t.core

/-- The tile with every cycle in flight over. -/
def Tile.still (t : Tile) : Tile := { t with base := none, acts := [], pipe := [] }

/-- What a tile holds before any act of cycle c. -/
def Tile.asOf (t : Tile) (c : Nat) : Tile :=
  match t.base with
  | none => t
  | some b => Tile.play t.acts.length (t.acts.filter fun a => decide (a.cyc < c)) (t.alone b)

/-- The tile in the present: before any act in flight. -/
def Tile.now (t : Tile) : Tile := t.alone t.start0

/-- The lines of a program read in flight, as they are delivered. -/
def Tile.delivered (t : Tile) (m : SMap (Nat × List Word)) : SMap (Nat × List Word) :=
  m.map fun x => match (t.pipe.get {} (16 * x.2.1)).lines.find? fun y => y.1 == 0 with
    | some y => (x.1, x.2.1, y.2)
    | none => x

/-- What the TSQ has read in flight: program lines, and the payload of a pending sync. -/
def Tile.deliver (t : Tile) : Tile :=
  { t with
    tsq := { t.tsq with
      main := { t.tsq.main with lines := t.delivered t.tsq.main.lines }
      cuff := { t.tsq.cuff with lines := t.delivered t.tsq.cuff.lines }
      lineBuf := t.delivered t.tsq.lineBuf }
    tm := { t.tm with pend := t.tm.pend.map fun p =>
      match (t.pipe.get {} (16 * p.cyc)).lines.find? fun y => y.1 == 1 with
      | some y => { p with payload := (y.2.getD 0 0).toNat % 2 ^ 16 }
      | none => p } }

/-- The tile as its acts in flight leave it (log entry 4): all of them played, cycle by cycle, from what they start from. -/
def Tile.replay (t : Tile) : Tile :=
  match t.base with
  | none => t
  | some b => ({ Tile.play t.acts.length t.acts (t.alone b) with base := some b, acts := t.acts } : Tile).deliver

/-- Drop the flows of commands that have no act left. -/
def keepFlows (as : List Act) (m : SMap Flow) : SMap Flow := m.filter fun x => as.any fun a => a.cmd == x.1

/-- The cycles before c are over: no command can act in them any more. -/
def Tile.over (t : Tile) (c : Nat) : Tile :=
  let old := fun (t : Tile) => { t with sched := t.sched.filter fun a => decide (c ≤ a.cyc) }
  let t0 := { t with tm := { t.tm with commits := t.tm.commits.filter fun x => decide (c ≤ x) } }
  match t.base with
  | none => old t0
  | some _ =>
    let rest := t.acts.filter fun a => decide (c ≤ a.cyc)
    if rest.isEmpty then old { t0 with base := none, acts := [], pipe := [] }
    else
      let b := old (t.asOf c)
      { old { t0 with pipe := keepFlows rest t.pipe } with base := some { b.core with pipe := keepFlows rest b.pipe }, acts := rest }

/-! ## Accesses of yielding users (R83, R84) -/

/-- The first cycle, from c on, in which a port and the banks of n words at a word address are free (R83; DEDUCED, log entry 21). -/
def Tile.freeCyc (t : Tile) (port a n c : Nat) : Nat :=
  let hits := fun (x : Nat) => t.sched.any fun b => b.cyc == x && (b.port == port || (decide (b.bank < bankOf a n + n) && decide (bankOf a n < b.bank + b.nb)))
  ((upTo (t.sched.length + 1)).map fun i => c + i).find? (fun x => !(hits x)) |>.getD c

/-- A granted access of a yielding user in a cycle. -/
def Tile.yields (t : Tile) (port a n y : Nat) : Tile :=
  t.both fun t => { t with sched := { cyc := y, port := port, bank := bankOf a n, nb := n, yields := true } :: t.sched }

/-- A yielding user reads n words, which lie in one line, in the first cycle from c on that is free for it: the words, or none where one of them is uncorrectable; and the
cycle. -/
def Tile.yieldRead (t : Tile) (port a n c : Nat) : Option (List Word) × Nat × Tile :=
  let y := t.freeCyc port a n c
  let o := t.asOf y
  let t1 := t.yields port a n y
  let t2 := (t1.eccSeen (eccOf a) false (countIn o.soft a n)).eccSeen (eccOf a) true (countIn o.bad a n)
  (if (o.firstBad a n).isSome then none else some (o.mem.words a n), y, t2)

/-- A hub request reads n words of a line of tile memory through port 7, from cycle c on: the words, or the CODE of what stops it. -/
def Tile.hubRead (t : Tile) (a n c : Nat) : Except Nat (List Word) × Tile :=
  if t.segOn a then
    match t.yieldRead 7 a n c with
    | (some ws, _, t1) => (.ok ws, t1)
    | (none, _, t1) => (.error 4, t1)
  else (.error 3, t)

/-- A hub request reads n lines from a word address: all of them, or the CODE of the first that stops it. -/
def Tile.hubLines (t : Tile) (a : Nat) : Nat → Nat → Except Nat (List (List Word)) × Tile
  | 0, _ => (.ok [], t)
  | n + 1, c =>
    match t.hubLines a n c with
    | (.error e, t1) => (.error e, t1)
    | (.ok ls, t1) =>
      match t1.hubRead (a + 8 * n) 8 c with
      | (.error e, t2) => (.error e, t2)
      | (.ok ws, t2) => (.ok (ls ++ [ws]), t2)

/-- A yielding user's write of words, which lie in one line, has its cycle: the first from c on that is free for it. -/
def Tile.yieldAt (t : Tile) (port a : Nat) (ws : List Word) (c : Nat) : Nat × Tile :=
  let y := t.freeCyc port a ws.length c
  let t1 := t.yields port a ws.length y
  (y, { t1 with base := some t1.start0, acts := insAct { cyc := y, who := { port := port }, eff := .poke a ws } t1.acts })

/-- A yielding user writes words. -/
def Tile.yieldWrite (t : Tile) (port a : Nat) (ws : List Word) (c : Nat) : Tile := (t.yieldAt port a ws c).2.replay

/-- The cycle in which what yielding users do through a port has been done, not before c. -/
def Tile.quiet (t : Tile) (port c : Nat) : Nat := maxOr c ((t.sched.filter fun b => b.yields && b.port == port).map fun b => b.cyc)

/-! ## mx.chk (R160) -/

/-- mx.chk: it checks its block's shadow as it stands in its cycle L. -/
def Tile.runMxChk (t : Tile) (j : Job) : Tile :=
  let acc := fld j.q.w 41 39
  if t.badBlock j acc (bit j.q.w 38) then t.mxFault j 4
  else if !(((t.asOf j.l).mxe.shadow.get ({} : Shadow) acc).valid) then t.mxFault j 6
  else ((t.plan j.key (j.flow [] []) [j.act 2 (j.l + 1) (.calc 0), j.act 2 (j.l + 4) (.calc 1)]).mxDrain (j.l + 4)).finish j (j.l + 4)

end Sys2Proof.Machine
end

