-- ==== Sys2Proof/Machine/Tsq.lean ====
section
/-! DEFINITION. The tile sequencer (R37 to R55, R65 to R69, R531, R532): what it has read, when an instruction may issue,
what stops it, and how issue moves on. -/

namespace Sys2Proof.Machine

/-! ## Contexts and fetch -/

/-- A kernel run is in progress (R532). -/
def Tile.inKernel (t : Tile) : Bool := match t.tsq.mode with | .off => false | _ => true

/-- The current context is the Cuff context (R67). -/
def Tile.inCuff (t : Tile) : Bool := match t.tsq.mode with | .ctx => true | _ => false

/-- The context that issues: the kernel's in a kernel run, the main program's otherwise. -/
def Tile.cur (t : Tile) : Ctx := if t.inKernel then t.tsq.cuff else t.tsq.main

/-- Replace the issuing context. -/
def Tile.setCur (t : Tile) (c : Ctx) : Tile :=
  if t.inKernel then { t with tsq := { t.tsq with cuff := c } } else { t with tsq := { t.tsq with main := c } }

/-- PC of the issuing context. -/
def Tile.pc (t : Tile) : Nat := t.cur.pc.toNat

/-- The argument handle of the kernel that runs (R47). -/
def Tile.arg (t : Tile) : Nat := match t.tsq.queue with | k :: _ => k.arg | [] => 255

/-- The word address of an instruction (R37). -/
def Tile.iAddr (t : Tile) (pc : Nat) : Nat := (t.tsq.progBase.toNat + 2 * (pc % 2 ^ 17)) % 2 ^ 18

/-- The instruction at a word address within the line that holds it, low word first. -/
def lineInstr (ws : List Word) (a : Nat) : IWord :=
  BitVec.ofNat 64 ((ws.getD (a % 8) 0).toNat + (ws.getD (a % 8 + 1) 0).toNat * 2 ^ 32)

/-- The loop's buffer issues this PC: a later pass of a running loop (R39). -/
def Tile.fromLoop (t : Tile) (pc : Nat) : Option IWord :=
  match t.tsq.loop with
  | some l => if !l.pass1 && decide (l.first ≤ pc) && decide (pc ≤ l.last) then (l.buf.find? fun x => x.1 == pc).map fun x => x.2 else none
  | none => none

/-- The instruction that the sequencer has at its PC (R38): from the loop buffer, from a line it has read, or, for a line whose read the manual does not place,
from memory at its issue (DESIGN CHOICE, log entry 79). -/
def Tile.tsqWord (t : Tile) : IWord :=
  match t.fromLoop t.pc with
  | some w => w
  | none =>
    let a := t.iAddr t.pc
    match t.cur.lines.get (0, []) (a / 8) with
    | (_, []) => lineInstr (t.mem.words (a / 8 * 8) 8) a
    | (_, ws) => lineInstr ws a

/-- An act of the TSQ on port 7 (R38, R47, R50, R82), for the instruction of cycle c at a PC: a scheduled access that delivers zero words, or stores nothing, where it is
suppressed, where its segment is not on, or where the line is uncorrectable. -/
def Tile.tsqAct (t : Tile) (c cyc pc : Nat) (e : Eff) : Tile :=
  { t with base := some t.start0, acts := insAct { cyc := cyc, cmd := 16 * c, who := { pc := pc }, eff := e } t.acts }

/-- Read the line that holds an instruction into the issuing context; lines behind keep are dropped. -/
def Tile.fetchInto (t : Tile) (pc cyc keep : Nat) : Tile :=
  let ln := t.iAddr pc / 8
  let c := t.cur
  ((t.tsqAct cyc cyc t.pc (.fetch ln)).setCur { c with lines := SMap.put (c.lines.filter fun x => decide (keep ≤ x.1)) ln (cyc, []) }).replay

/-! ## Engines idle -/

/-- A synchronous engine (R42): mx. to sg. and compiled xc. -/
def syncEngines : List Nat := [1, 2, 3, 4, 5, 6]

/-- A channel command of the xc. engine, whose class is asynchronous (R42, R264). -/
def isChan (w : IWord) : Bool := iEng w == 6 && decide (0x20 ≤ iOp w)

/-- Every synchronous engine is idle with an empty queue: no command waits, and every completion has been taken (DEDUCED, log entry 6). -/
def Tile.allIdle (t : Tile) : Bool := syncEngines.all fun e => ((t.eng e).waiting.all fun q => isChan q.w) && (t.eng e).running.isEmpty

/-- An asynchronous queue, or the xc. queue with channel commands that wait in it, makes a stall of the kind that R44 resumes as a drain point. -/
def Tile.asyncQueue (t : Tile) (eng : Nat) : Bool := eng == 7 || eng == 8 || (eng == 6 && (t.eng 6).waiting.any fun q => isChan q.w)

/-- The first cycle in which every synchronous engine is idle. -/
def Tile.idleFrom (t : Tile) : Nat := maxOr 0 (syncEngines.map fun e => (t.eng e).lastDone)

/-! ## Issue -/

/-- What an attempt to issue comes to: nothing happens, the tile faults at issue, or the instruction issues in a cycle. -/
inductive Gate where
  | idle
  | faulted (t : Tile)
  | go (c : Nat)
  deriving DecidableEq, Repr

/-- The cycle in which the next instruction issues, when nothing holds it: not before the present. -/
def Tile.issueCyc (t : Tile) (aclk : Nat) : Nat := max t.tm.nextIssue aclk

/-- PCC at which the exchange phase ends (R55). -/
def Tile.phaseEnd (t : Tile) : Nat := max t.tm.xlen t.tm.xguard

/-- An instruction that issues during an exchange phase (R55). -/
def exchangeOk (w : IWord) : Bool := iEng w == 6 || (iEng w == 0 && [0x00, 0x02, 0x05, 0x06, 0x0C].contains (iOp w))

/-- A compiled-exchange instruction: xc.ptr, xc.send or xc.recv (R224). -/
def isCompiled (w : IWord) : Bool := iEng w == 6 && (iOp w == 0x01 || iOp w == 0x10 || iOp w == 0x11)

/-- A blocking channel operation (R265). -/
def isBlocking (w : IWord) : Bool := iEng w == 6 && [0x20, 0x21, 0x24, 0x25].contains (iOp w)

/-- Nothing keeps the instruction at PC from issuing in cycle c. -/
def Tile.mayIssue (t : Tile) (w : IWord) (c : Nat) : Bool :=
  t.tsq.inJob && t.tsq.started && !t.tsq.halted && !t.stoppedAt c && t.cur.hold == .none &&
  (t.inCuff || (t.tm.pend.isNone &&
    (t.tsq.phase == .compute ||
      (t.tsq.phase == .exchange && exchangeOk w && decide (t.pccAt c < t.phaseEnd)))))

/-- A member of the group that a sy.sync selects (R60): the group, if any. -/
def Tile.groupOf (t : Tile) (gsel : Bool) : Option Nat :=
  if gsel then (if t.tsq.home = 0 then none else some t.tsq.home) else (if t.tsq.jobGroup then some 0 else none)

/-- The fault that an instruction raises at issue: cause, DATA0 and DATA1 (R39, R41, R47, R48, R55, R60, R64, R66, R532) (DEDUCED, log entry 18). The one loop
of the sequencer is shared by the main program and a kernel (DESIGN CHOICE, log entry 78). -/
def Tile.issueFault (t : Tile) (caps : Word) (w : IWord) (c : Nat) : Option (Nat × Nat × Nat) :=
  let ill := some (0x01, w.toNat % 2 ^ 32, w.toNat / 2 ^ 32)
  let sy := fun op => iEng w == 0 && iOp w == op
  if illegalEnc caps w then ill
  else if t.inKernel && sy 0x01 then some (0x06, 0, 0)
  else if t.inKernel && (sy 0x08 || sy 0x0B || sy 0x0D || sy 0x0E || isCompiled w || isBlocking w) then some (0x07, w.toNat / 2 ^ 52, 0)
  else if isCompiled w && t.tsq.phase != .exchange then some (0x03, 0, 0)
  else if sy 0x0A && !t.inKernel then ill
  else if sy 0x06 && t.tsq.loop.isSome then ill
  else if sy 0x01 && (t.groupOf (bit (t.tab.syncs.get 0 (fld w 41 36)) 40)).isNone then
    some (0x04, fld w 41 36 + b2n (bit (t.tab.syncs.get 0 (fld w 41 36)) 40) * 2 ^ 8, 0)
  else if sy 0x02 && decide (fld w 31 0 ≤ t.pccAt c) then some (0x02, fld w 31 0, 0)
  else none

/-- Attempt to issue a word as the row of an engine and OP: the word is the one the sequencer has, and it is this row's
instruction, or one that no row has (DEDUCED, log entry 2). -/
def Tile.gate (t : Tile) (caps : Word) (aclk eng op : Nat) (w : IWord) : Gate :=
  let c := t.issueCyc aclk
  if !(t.mayIssue w c) || t.tsqWord != w || !((iEng w == eng && iOp w == op) || (opMask (iEng w) (iOp w)).isNone) then .idle
  else match t.issueFault caps w c with
    | some (cause, d0, d1) => .faulted { (t.fault cause 0 0 t.pc c d0 d1) with tm := { t.tm with nextIssue := c + 1 } }
    | none => .go c

/-- The PC after an instruction that does not branch, with the loop's passes (R39). -/
def Tile.nextPc (t : Tile) (pc : Nat) : Nat × Option Loop :=
  match t.tsq.loop with
  | some l =>
    if pc = l.last then
      (if l.left = 0 then (pc + 1, none) else (l.first, some { l with left := l.left - 1, pass1 := false }))
    else (pc + 1, some l)
  | none => (pc + 1, none)

/-- The loop with a body word of its first pass recorded. -/
def Tile.recordLoop (t : Tile) (pc : Nat) (w : IWord) : Tile :=
  match t.tsq.loop with
  | some l =>
    if l.pass1 && decide (l.first ≤ pc) && decide (pc ≤ l.last) then
      { t with tsq := { t.tsq with loop := some { l with buf := l.buf.put pc w } } }
    else t
  | none => t

/-- Forget the leave cycles before c. -/
def Tile.prune (t : Tile) (c : Nat) : Tile :=
  { t with engs := t.engs.map fun e => (e.1, { e.2 with leaves := e.2.leaves.filter fun l => decide (c ≤ l) }) }

/-- Issue an instruction in cycle c and move on: the fetch of R38 where PC is a multiple of 4, PC to the next instruction,
the next issue one cycle later. -/
def Tile.issued (t : Tile) (w : IWord) (c : Nat) : Tile :=
  let pc := t.pc
  let buffered := (t.fromLoop pc).isSome
  let t1 := (t.recordLoop pc w).prune c
  let t2 := if pc % 4 = 0 && !buffered then t1.fetchInto (pc + 8) c (t1.iAddr pc / 8) else t1
  let n := t2.nextPc pc
  let cu := t2.cur
  let t3 := t2.setCur { cu with pc := BitVec.ofNat 17 n.1 }
  { t3 with tsq := { t3.tsq with loop := n.2 }, tm := { t3.tm with nextIssue := c + 1 } }

/-- Set what holds the issuing context. -/
def Tile.hold (t : Tile) (h : Hold) : Tile := let c := t.cur; t.setCur { c with hold := h }

/-! ## Heads of the engine queues -/

/-- The unit's accept cycle for a command (R133, R179, R192, R229): 0 where no unit takes it. -/
def EngQ.accepts (q : EngQ) (w : IWord) : Nat :=
  match iEng w with
  | 1 => if iOp w = 0x01 then 0 else if iOp w = 0x02 ∨ iOp w = 0x10 then q.accept else q.accept2
  | 6 => if iOp w = 0x10 then q.accept else 0
  | 7 | 8 => 0
  | _ => q.accept

/-- The cycle in which a command leaves its queue when its wait, if any, has succeeded by cycle g. -/
def Tile.leaveCyc (t : Tile) (q : QCmd) (g : Nat) : Nat :=
  let e := t.eng (iEng q.w)
  let l := max (max (q.cyc + 1) (maxOr 0 (e.leaves.map fun x => x + 1))) (max g (e.accepts q.w))
  if iEng q.w = 2 then l + t.vxDelay q l else l

/-- Waiters in the order of a round robin: ascending numbers after the pointer, wrapping (R247). -/
def roundRobin (rr : Nat) (ws : List Nat) : List Nat := (ws.filter fun w => decide (rr < w)) ++ ws.filter fun w => decide (w ≤ rr)

/-- The queue heads that wait on counter c and can leave in cycle a, by waiter number (R246); of hb. and hx. those in ext, whose heads
could leave as far as the die and the hub are concerned. -/
def Tile.headsReady (t : Tile) (ext : List Nat) (c a : Nat) : List Nat :=
  ([1, 2, 3, 4, 5, 6, 7, 8].filter fun e =>
    (decide (e < 7) || ext.contains e) && (match (t.eng e).waiting with | q :: _ => iWaiten q.w && iWaitctr q.w == c && decide (t.leaveCyc q a ≤ a) | [] => false)).map
      fun e => e + 1

/-! ## The sy. instructions that stay within the tile -/

/-- The condition of sy.br in its issue cycle (R47) (DEDUCED, log entry 60). -/
def Tile.brTaken (t : Tile) (w : IWord) (c : Nat) : Bool :=
  let v := fld w 15 0
  let x := (t.lscs.get ({} : Lsc) (fld w 19 16)).startOf c
  let pay := fld t.tsq.sr 15 0
  match fld w 24 21 with
  | 0 => true
  | 1 => x == v
  | 2 => x != v
  | 3 => decide (v ≤ x)
  | 4 => decide (x < v)
  | 5 => pay &&& v == v
  | 6 => pay &&& v != v
  | 7 => bit t.tsq.sr 16
  | 8 => bit t.tsq.sr 17
  | _ => bit t.tsq.sr 18

/-- sy.br (R38, R39, R47): a taken branch reads its target line in the next cycle and issues its target 8 cycles later (R239);
outside a running loop's body it ends the loop. -/
def Tile.doBr (t : Tile) (p : Pads) (w : IWord) (c : Nat) : Tile :=
  let taken := t.brTaken w c
  let t1 := t.issued w c
  if taken then
    let tg := fld w 41 25
    let t2 := { t1 with tsq := { t1.tsq with loop := match t.tsq.loop with
      | some l => if l.first ≤ tg ∧ tg ≤ l.last then some { l with buf := match t1.tsq.loop with | some m => m.buf | none => l.buf } else none
      | none => none } }
    let cu := t2.cur
    let t3 := t2.setCur { cu with lines := [], pc := BitVec.ofNat 17 tg }
    let t4 := if (t3.fromLoop tg).isSome then t3 else t3.fetchInto tg (c + 1) 0
    { t4 with tm := { t4.tm with nextIssue := c + p.latency 0 } }
  else t1

/-- sy.loop (R39). -/
def Tile.doLoop (t : Tile) (w : IWord) (c : Nat) : Tile :=
  let pc := t.pc
  let t1 := t.issued w c
  { t1 with tsq := { t1.tsq with loop := some { first := pc + 1, last := pc + 1 + fld w 41 36, left := fld w 35 20, pass1 := true, buf := [] } } }

/-- sy.srst (R47). -/
def Tile.doSrst (t : Tile) (w : IWord) (c : Nat) : Tile :=
  ((t.issued w c).tsqAct c (c + 1) t.pc (.stash (fld w 17 0) (t.tsq.sr.setWidth 32))).replay

/-- sy.sig (R244, R245, R249). -/
def Tile.doSig (t : Tile) (w : IWord) (c : Nat) : Tile :=
  let pc := t.pc
  let t1 := t.issued w c
  if bit w 37 then t1.debit (fld w 41 38) pc c else t1.signal (fld w 41 38) (2 ^ 13) c

/-- sy.sync (R49 to R51): the pending sync, with its payload read through port 7 in the next cycle where PSRC = 1. -/
def Tile.doSync (t : Tile) (w : IWord) (c : Nat) : Tile :=
  let pc := t.pc
  let d := t.tab.syncs.get 0 (fld w 41 36)
  let t1 := t.issued w c
  let p : PendSync :=
    { desc := fld w 41 36, gsel := bit d 40, group := (t.groupOf (bit d 40)).getD 0, xguard := fld d 39 32, xlen := fld d 31 16,
      mask := fld d 15 0, comb := fld w 35 34, payload := if bit w 33 then 0 else fld w 15 0, pc := pc, cyc := c, arrived := false }
  let t2 := { t1 with tm := { t1.tm with pend := some p } }
  if bit w 33 then (t2.tsqAct c (c + 1) pc (.look (fld w 17 0))).replay else t2

/-- Save SEQ and RSEQ (R271). -/
def Tile.saveChannels (t : Tile) : Tile :=
  { t with scs := t.scs.map fun x => (x.1, { x.2 with seqSaved := x.2.seq })
           rqs := t.rqs.map fun x => (x.1, { x.2 with rseqSaved := x.2.rseq }) }

/-- sy.commit (R98, R213, R271, R305, R417): the streams' positions and NFSTEP change with what the tile's commands do in its cycle. -/
def Tile.doCommit (t : Tile) (w : IWord) (c : Nat) : Tile :=
  let pc := t.pc
  let t1 := (t.issued w c).saveChannels
  let t2 := { t1 with tm := { t1.tm with p := !t1.tm.p, commits := c :: t1.tm.commits, step := t1.tm.step + 1, repc := BitVec.ofNat 17 (pc + 1) } }
  ((t2.tsqAct c c pc .commit).replay).restamp

/-- Start the oldest kernel in a mode: its position, with the lines of the Cuff line buffer (R531). In the main context (R65, R69) it issues from the next cycle
on, whether or not the buffer's reads have ended (DESIGN CHOICE, log entry 77). -/
def Tile.startKernel (t : Tile) (m : CuffMode) (next : Nat) : Tile :=
  match t.tsq.queue with
  | k :: _ =>
    { t with tsq := { t.tsq with mode := m, retPend := false, cuff := { pc := k.pos, hold := .none, lines := t.tsq.lineBuf } }
             tm := { t.tm with nextIssue := next } }
  | [] => t

/-- sy.cpost (R65): a full queue first runs its oldest kernel in the main context. -/
def Tile.doCpost (t : Tile) (w : IWord) (c : Nat) : Tile :=
  let k : Kernel := { entry := BitVec.ofNat 17 (fld w 41 25), arg := fld w 24 17, pos := BitVec.ofNat 17 (fld w 41 25) }
  let t1 := t.issued w c
  if t1.tsq.queue.length < 8 then { t1 with tsq := { t1.tsq with queue := t1.tsq.queue ++ [k] } }
  else t1.startKernel (.post k) (c + 1)

/-- sy.cdrain (R69). -/
def Tile.doCdrain (t : Tile) (w : IWord) (c : Nat) : Tile :=
  let t1 := t.issued w c
  if t1.tsq.queue.isEmpty then t1 else t1.startKernel .drainAll (c + 1)

/-- The oldest kernel leaves the queue; the line buffer is read again for the next one (R531). -/
def Tile.dropKernel (t : Tile) : Tile := { t with tsq := { t.tsq with queue := t.tsq.queue.drop 1, lineBuf := [] } }

/-- The main program's condition of R67 at a yield point: the release of its sync, or its wait taken as waiter 0, where no waiter with a higher claim takes
the count first (R247, R250); chan tells whether a blocking channel operation's condition holds, ext the queues outside whose heads could leave. -/
def Tile.mainReady (t : Tile) (chan : Bool) (ext : List Nat) (c : Nat) : Option Tile :=
  match t.tsq.main.hold with
  | .wait ctr _ =>
    let l := t.lscs.get ({} : Lsc) ctr
    if ((roundRobin l.rr (0 :: t.headsReady ext ctr c)).take l.value).contains 0 then
      some { t with
        lscs := t.lscs.put ctr { l.take c 1 with rr := 0 }
        tsq := { t.tsq with main := { t.tsq.main with hold := .drain c } } }
    else none
  | .chan _ => if chan then some t else none
  | _ => if t.tm.pend.isNone then some t else none

/-- The kernel stops at a yield point and the sequencer is to return to the main context (R67): its position is saved. -/
def Tile.yieldTo (t : Tile) (c : Nat) : Tile :=
  let pos := t.tsq.cuff.pc
  { t with tsq := { t.tsq with
      retPend := true
      queue := match t.tsq.queue with | k :: r => { k with pos := pos } :: r | [] => []
      lineBuf := []
      cuff := { t.tsq.cuff with hold := .drain c } } }

/-- sy.cyield (R67, R532). -/
def Tile.doCyield (t : Tile) (w : IWord) (c : Nat) (chan : Bool) (ext : List Nat) : Tile :=
  let t1 := t.issued w c
  if t.inCuff then
    match t1.mainReady chan ext c with
    | some t2 => t2.yieldTo c
    | none => t1.hold (.drain c)
  else t1

/-- sy.cret (R65, R67, R69, R532). -/
def Tile.doCret (t : Tile) (w : IWord) (c : Nat) (chan : Bool) (ext : List Nat) : Tile :=
  let t1 := (t.issued w c).dropKernel
  match t.tsq.mode with
  | .ctx =>
    match t1.mainReady chan ext c with
    | some t2 => { t2 with tsq := { t2.tsq with retPend := true, cuff := { t2.tsq.cuff with hold := .drain c } } }
    | none => { t1 with tsq := { t1.tsq with mode := .off } }
  | .post k =>
    { t1 with tsq := { t1.tsq with mode := .off, queue := t1.tsq.queue ++ [k] } }
  | .drainAll => if t1.tsq.queue.isEmpty then { t1 with tsq := { t1.tsq with mode := .off } } else t1.startKernel .drainAll (c + 1)
  | .off => t1

/-- The Cuff line buffer's two reads (R531), in the first two cycles without another fetch (DEDUCED, log entry 58); the second is delivered 6 cycles after its access (R78, R239). -/
def Tile.cuffFetch (t : Tile) (p : Pads) (aclk : Nat) : Tile :=
  match t.tsq.queue with
  | [] => t
  | k :: _ =>
    if !t.tsq.lineBuf.isEmpty then t
    else
      let c := t.issueCyc aclk
      let next := fun (x : Nat) => t.cur.hold == .none && t.tm.pend.isNone && (t.pc + (x - c)) % 4 == 0 && (t.fromLoop (t.pc + (x - c))).isNone
      let busy := fun (x : Nat) => next x || t.sched.any fun a => a.cyc == x && a.port == 7 && a.user == 0
      let frees := ((upTo 64).map fun i => c + i).filter fun x => !(busy x)
      let ln := t.iAddr k.pos.toNat / 8
      let x := frees.getD 0 c
      let y := frees.getD 1 c
      let lb : SMap (Nat × List Word) := SMap.put [(ln, (x, []))] ((ln + 1) % 2 ^ 15) (y, [])
      let t1 := { t with tsq := { t.tsq with lineBuf := lb, lineAt := y + p.latency 1 } }
      ((t1.tsqAct x x t.pc (.fetch ln)).tsqAct y y t.pc (.fetch ((ln + 1) % 2 ^ 15))).replay

/-- The main program waits where a Cuff kernel may run (R67): the cycle of its arrival at a guarded sync, or of the wait that has not succeeded. -/
def Tile.cuffWait (t : Tile) : Option Nat :=
  match t.tm.pend with
  | some p => if p.arrived && p.xguard != 0 then some p.cyc else none
  | none =>
    match t.tsq.main.hold with
    | .wait x c => if t.lsc x == 0 then some c else none
    | .chan c => some c
    | _ => none

/-- The cycle in which the next kernel's first instruction issues, if the sequencer may run one in the Cuff context (R67, R531): the cycle after the switch
point, with every synchronous engine idle and the kernel's lines read. Where an earlier kernel has ended since the main program's wait began, its sy.cret was a
drain point (R45), and issue resumes there in the first idle cycle. -/
def Tile.cuffSwitch (t : Tile) : Option Nat :=
  if t.inKernel || t.tsq.queue.isEmpty || t.tsq.lineBuf.isEmpty || t.tfr.valid || t.tsq.halted || !t.allIdle then none
  else match t.cuffWait with
    | some c =>
      let lines := t.tsq.lineAt + 1
      some (if t.tm.nextIssue ≤ c + 1 then max (max c t.idleFrom + 1) lines else max (max t.tm.nextIssue t.idleFrom) lines)
    | none => none

/-- Return to the main context (R67, R531): the kernel's commands have drained. -/
def Tile.cuffBack (t : Tile) : Tile :=
  if t.inCuff && t.tsq.retPend && t.allIdle then
    let n := max t.tm.nextIssue t.idleFrom
    { t with tsq := { t.tsq with mode := .off, retPend := false }
             tm := { t.tm with nextIssue := n } }
  else t

/-- A Cuff kernel has not returned with its commands drained by PCC = XGUARD (R68). -/
def Tile.overrun (t : Tile) : Bool :=
  (t.tsq.phase == .guard || t.tsq.phase == .exchange) && t.tm.xguard != 0 && !t.tfr.valid &&
  (t.inCuff || (match t.tm.relAt with | some r => decide (r + t.tm.xguard < t.idleFrom) && t.tsq.phase == .guard | none => false))

/-! ## Engine queues -/

/-- Queue depth (R42). -/
def engDepth (e : Nat) : Nat := if e = 8 then 8 else if e = 6 ∨ e = 7 then 16 else 4

/-- Commands in a queue at a cycle. -/
def EngQ.occ (q : EngQ) (c : Nat) : Nat := q.waiting.length + (q.leaves.filter fun l => decide (c < l)).length

/-- The first cycle, from c on, with room in a queue of a depth; none while waiting commands fill it. -/
def EngQ.roomAt (q : EngQ) (depth c : Nat) : Option Nat :=
  if depth ≤ q.waiting.length then none
  else if q.occ c < depth then some c
  else
    let ls := (q.leaves.filter fun l => decide (c < l)).foldl (fun l x => insSorted x l) []
    ls[q.occ c - depth]?

/-- What a command of engines mx. to sg. fixes in its leave cycle. -/
def Tile.startSync (t : Tile) (j : Job) : Tile :=
  match iEng j.q.w, iOp j.q.w with
  | 1, 0x01 => t.runMxPtr j
  | 1, 0x02 => t.runMxZmap j
  | 1, 0x10 => t.runMxMma j
  | 1, 0x20 => t.runMxZero j
  | 1, 0x21 => t.runMxLd j
  | 1, 0x22 => t.runMxSt j
  | 1, 0x23 => t.runMxAcs j
  | 1, 0x24 => t.runMxPush j
  | 1, 0x25 => t.runMxChk j
  | 2, 0x01 => t.runVxPtr j
  | 2, 0x10 => t.runVxRun j
  | 2, 0x20 => t.runVxSmx j
  | 3, 0x10 => t.runGtCpy j
  | 3, 0x11 => t.runGtTr j
  | 3, 0x12 => t.runGtRows j true
  | 3, 0x13 => t.runGtRows j false
  | 3, 0x14 => t.runGtRnd j
  | 4, 0x10 => t.runSiZmap j
  | 4, 0x11 => t.runSiCmp j
  | 4, 0x12 => t.runSiRoute j
  | 5, 0x10 => t.runSgPack j
  | 5, 0x11 => t.runSgVote j
  | _, 0x01 => t.runP7Ptr j
  | _, _ => t

/-- A command of engines mx. to sg. from its leave cycle on: what it fixes then, and what comes of it. -/
def Tile.runSync (t : Tile) (j : Job) : Tile := (t.startSync j).replay

/-- The queued form of an instruction at its issue: its place resolved (R95), with the latencies of its die. -/
def Tile.queued (t : Tile) (pads : Pads) (w : IWord) (c : Nat) (err : Option MulErr) : QCmd :=
  { w := w, pads := pads, pc := t.pc, cyc := c, cuff := t.inKernel, arg := t.arg, p := t.tm.p, ptr := t.resolveFor w t.inKernel t.arg, err := err }

end Sys2Proof.Machine
end

