-- ==== Sys2Proof/Machine/Pkg.lean ====
section
/-! DEFINITION. Operations over the whole package that the chapters share: the clock, register values, event sources, tiles and what a
tile's change means to its die and to the hub. -/

namespace Sys2Proof.Machine

/-- The reset values that are not 0 of registers held in regs (log entry 3): EVC_GRP has LAST apart, so its stored part is 0. -/
def regReset (off : Nat) : Word :=
  if off = 0xB_0000 then 0xFF
  else if 0xB_0100 ≤ off ∧ off < 0xB_0180 then 0xFFFFFFFF
  else if 0xB_0200 ≤ off ∧ off < 0xB_0280 ∧ off % 8 = 0 then 0x0FF00000
  else if off = 0xB_0400 then 0xF
  else if off = 0x3_0020 then 0x20010
  else if 0x1_8000 ≤ off ∧ off < 0x1_8200 ∧ off % 16 = 12 then 1
  else if 0xA_0000 ≤ off ∧ off < 0xA_C000 ∧ off % 0x1000 = 4 then 0x80000000
  else 0

/-- The stored value of a configuration register. -/
def Mach.reg (s : Mach) (off : Nat) : Word :=
  match s.regs.find? fun x => x.1 == off with
  | some x => x.2
  | none => regReset off

/-- The high words of the 64-bit values that the hardware uses as one value: the host window's base, ring bases, snapshot buffers and extents (R500). -/
def isHighWord (off : Nat) : Bool :=
  decide (off = 0x5_0004) || (decide (0x1_0040 ≤ off) && decide (off < 0x1_0560) && decide (off % 0x20 = 4)) || decide (off = 0x7_020C) || decide (off = 0x7_0214)
  || (decide (0x7_0400 ≤ off) && decide (off < 0x7_0C00) && (decide (off % 32 = 4) || decide (off % 32 = 12)))

/-- Store a configuration register. A write of a high word gives the hardware the pair's low word with it (R500;
DEDUCED, log entry 93). -/
def Mach.setReg (s : Mach) (off : Nat) (v : Word) : Mach :=
  { s with regs := s.regs.put off v, lows := if isHighWord off then s.lows.put (off - 4) (s.reg (off - 4)) else s.lows }

/-- The value that the hardware uses of a 64-bit value held in two registers, by the offset of the low word (R500; DEDUCED, log entry 93). -/
def Mach.pair (s : Mach) (lo : Nat) : Nat := (s.lows.get 0 lo).toNat + (s.reg (lo + 4)).toNat * 2 ^ 32

/-- The offset of a CDC_ register of die d. -/
def cdc (d off : Nat) : Nat := off + 0x40_0000 * d

/-- The die of a logical tile (R24). -/
def dieOf (t : Nat) : Nat := t / 1792

/-- A tile's state. -/
def Mach.tile (s : Mach) (t : Nat) : Tile := s.tiles.get {} t

/-- A die's state. -/
def Mach.die (s : Mach) (d : Nat) : Die := s.dies.get {} d

/-- Change a die's state. -/
def Mach.updDie (s : Mach) (d : Nat) (f : Die → Die) : Mach := { s with dies := SMap.upd {} s.dies d f }

/-- The latencies of a tile's die (R239): its native ones, with the pads of the profile entry that CDC_TPSEL selects. -/
def Mach.pads (s : Mach) (t : Nat) : Pads :=
  let d := dieOf t
  let w := s.part.tpPad.get 0 (4 * d + fld (s.reg (cdc d 0x102_0020)) 1 0)
  (upTo 8).map fun k => s.part.tpNative.get 0 (8 * d + k) + (fld w (4 * k + 3) (4 * k) : Nat)

/-- The environment of a tile's engines. -/
def Mach.env (s : Mach) (t : Nat) : Env :=
  { num := t, caps := s.part.caps, k0 := s.reg (cdc (dieOf t) 0x101_E000), k1 := s.reg (cdc (dieOf t) 0x101_E004) }

/-! ## Event sources (R400) -/

/-- EVC_SRCCFG_s. -/
def srcCfg (src : Nat) : Nat := 0x2_0000 + 4 * src

/-- An arrival of a source: counted while EN = 1, with the stamp and data of the first since the last claim. -/
def Mach.raise (s : Mach) (src : Nat) (d0 d1 : Word) : Mach :=
  if bit (s.reg (srcCfg src)) 31 then
    let e := s.evc.srcs.get {} src
    let e1 : EvSrc :=
      if e.count = 0 then { e with count := 1, pend := true, stamp := s.clk.tb.toNat, d0 := d0, d1 := d1 }
      else { e with count := satTo 255 (e.count + 1), pend := true }
    { s with evc := { s.evc with srcs := s.evc.srcs.put src e1 } }
  else s

/-- The condition of a level source (R397, R403): it arrives when it becomes asserted. -/
def Mach.level (s : Mach) (src : Nat) (on : Bool) (d0 d1 : Word) : Mach :=
  let e := s.evc.srcs.get {} src
  let s1 := { s with evc := { s.evc with srcs := s.evc.srcs.put src { e with lvl := on } } }
  if on && !e.lvl then s1.raise src d0 d1 else s1

/-- The dropped-write event (R398 source 0x002): the offset with the writer's class, and the value. -/
def Mach.dropped (s : Mach) (off cls : Nat) (v : Word) : Mach := s.raise 0x002 (BitVec.ofNat 32 (off % 2 ^ 26 + cls * 2 ^ 30)) v

/-! ## Free values, the Hatbox and the step alarm -/

/-- Take n free words (log entry 15). -/
def Mach.freeWords (s : Mach) (n : Nat) : List Word × Mach :=
  ((upTo n).map fun i => Config.freeWord (s.free + i), { s with free := s.free + n })

/-- STEP of the job group: the step of its lowest tile, or 0 with no job (R432). -/
def Mach.stepNo (s : Mach) : Word :=
  match s.tiles.find? fun x => x.2.tsq.inJob && x.2.tsq.jobGroup with
  | some x => if s.hq.job = .idle then 0 else x.2.tm.step
  | none => 0

/-- Write a Hatbox record (R432): known DATA words by number 0 to 11; a word that the spec does not give is free (DESIGN CHOICE, log entry 24). -/
def Mach.hatbox (s : Mach) (kind : Nat) (known : List (Nat × Word)) : Mach :=
  let r := s.freeWords 12
  let data := (numbered r.1).map fun x => match known.find? fun y => y.1 == x.1 with | some y => y.2 | none => x.2
  let h := s.hbx
  let q := h.seq + 1
  let tb := s.clk.tb.toNat
  let rec0 : List Word :=
    [mkWord [(31, 1), (16, kind % 256), (0, q.toNat % 2 ^ 16)], BitVec.ofNat 32 tb, BitVec.ofNat 32 (tb / 2 ^ 32),
     mkWord [(16, s.boots % 2 ^ 16), (0, s.stepNo.toNat % 2 ^ 16)]] ++ data
  { r.2 with hbx := { h with recs := h.recs.put h.next rec0, next := (h.next + 1) % 1024, wrap := h.wrap || h.next == 1023, seq := q } }

/-- A flash copy of the Hatbox begins (R433), into the slot not used last. -/
def Mach.flashCopy (s : Mach) : Mach :=
  let h := s.hbx
  let sl := if h.fcopy = 0 then 0 else 1 - h.fslot
  { s with hbx := { h with copying := true, fslot := sl } }

/-- Set a cause bit of ITG_ALARM (R412), with the tile that TBL records (R413): each cause newly set raises the step-alarm event. -/
def Mach.alarm (s : Mach) (b : Nat) : Mach :=
  let o := s.reg 0x6_0000
  let n := o ||| BitVec.ofNat 32 (2 ^ b)
  let s1 := s.setReg 0x6_0000 n
  if bit o b then s1 else s1.raise 0x1A0 n 0

/-- Alarm TBL for a tile: TILE names the first. -/
def Mach.alarmTbl (s : Mach) (t : Nat) : Mach :=
  let o := s.reg 0x6_0000
  let s1 := { s with itg := { s.itg with tblTiles := insSorted t s.itg.tblTiles } }
  let s2 := if bit o 31 then s1 else s1.setReg 0x6_0000 (setFld (o ||| 0x80000000) 25 13 t)
  s2.alarm 2

/-- ITG_RPSTAT. -/
def Mach.rpstat (s : Mach) : Word :=
  mkWord [(31, b2n (s.itg.phase != .idle)), (30, b2n s.itg.exhaust), (28, s.itg.trig), (24, s.itg.attempt), (16, s.itg.epoch), (0, s.itg.nreplay)]

/-! ## Tiles within the package -/

/-- CDC_TFR1 of a fault record (R219). -/
def Tfr.word1 (r : Tfr) : Word := mkWord [(0, r.pc % 2 ^ 17), (17, b2n r.p), (20, r.eng % 16), (24, r.ovfn)]

/-- The hub withdraws a faulted tile's global counter waits (R255): its hx.gwait ends without a grant. -/
def Mach.withdraw (s : Mach) (n : Nat) : Mach :=
  { s with gscs := s.gscs.map fun x => (x.1, { x.2 with waiters := x.2.waiters.filter fun a => a != n })
           tiles := SMap.upd {} s.tiles n fun t => { t with gwait := none } }

/-- Add counts to saturating counters. -/
def addSums (lim : Nat) : List (Nat × Nat) → SMap Nat → SMap Nat
  | [], m => m
  | x :: r, m => addSums lim r (SMap.upd 0 m x.1 fun n => satTo lim (n + x.2))

/-- The window length that is in force (R303, TRW_WINCFG): WLOG, where windows run. -/
def Mach.winLog (s : Mach) : Option Nat :=
  let c := s.reg 0x7_0080
  if bit c 31 && decide (20 ≤ fld c 5 0) && decide (fld c 5 0 ≤ 40) then some (fld c 5 0) else none

/-- Add counts of now to their window, which is the one that holds the timebase (R302). -/
def Mach.winAdds (s : Mach) (l : List (Nat × Nat)) : Mach :=
  match s.winLog with
  | none => s
  | some w => { s with trw := { s.trw with win := SMap.upd [] s.trw.win (s.clk.tb.toNat / 2 ^ w) fun m => addSums 0xFFFFFFFF l m } }

/-- Count errors in ITG_ECC_k: corrected ones at key 2 k, uncorrectable ones at key 2 k + 1. -/
def Itg.addEcc (i : Itg) (l : SMap Nat) : Itg :=
  let of := fun (u : Nat) => (l.filter fun x => x.1 % 2 == u).map fun x => (x.1 / 2, x.2)
  { i with ecc := addSums 0xFFFF (of 0) i.ecc, eccUe := addSums 0xFFFF (of 1) i.eccUe }

/-- The counts that have grown, and by how much. -/
def grown (new old : SMap Nat) : SMap Nat :=
  if new = old then [] else (new.map fun x => (x.1, x.2 - old.get 0 x.1)).filter fun x => x.2 != 0

/-- The lines of a tile's sends in flight hold what its port 6 has read for them (R229). -/
def Tile.sent (t : Tile) (x : XLine) : XLine :=
  match (t.pipe.get {} x.key).lines.find? fun y => y.1 == x.idx with
  | some y => { x with data := y.2 }
  | none => x

/-- Store a tile's new state, with what follows outside the tile: the counts of the cycles that are over (R306, R411) go to the sums of its die and of the package,
the alarms of its tables and channels to the package, and what it has read for its sends to the lines in flight. -/
def Mach.putTile (s : Mach) (n : Nat) (t : Tile) : Mach :=
  let d := dieOf n
  let c := t.start0.cnt
  let sums : List (Nat × Nat) := [(0, c.dMxe - t.took.mxe), (1, c.dVxe - t.took.vxe), (2, c.dCvu - t.took.cvu)]
  let t1 := { t with took := { cvu := c.dCvu, mxe := c.dMxe, vxe := c.dVxe, ecc := c.ecc }, almTbl := false, almChan := false }
  let s0 := { s with tiles := s.tiles.put n t1, itg := s.itg.addEcc (grown c.ecc t.took.ecc), flight := s.flight.map fun x => if x.sender = n then t1.sent x else x }
  let sa := if t.almTbl then s0.alarmTbl n else s0
  let s1 := if t.almChan then sa.alarm 3 else sa
  let s2 := if sums.all fun x => x.2 == 0 then s1
    else
      let s3 := { s1 with trw := { s1.trw with nfs := addSums (2 ^ 64 - 1) sums s1.trw.nfs } }.winAdds sums
      s3.updDie d fun y => { y with nfsum := addSums 0xFFFFFFFF sums y.nfsum }
  s2

/-- The cycles before c are over in every tile, but for those in which a line in flight has still to arrive. -/
def Mach.cyclesOver (s : Mach) (c : Nat) : Mach :=
  (s.tiles.filter fun x => x.2.base.isSome || !x.2.sched.isEmpty || !x.2.tm.commits.isEmpty).foldl (fun (m : Mach) x =>
    m.putTile x.1 (x.2.over ((s.flight.filter fun z => z.dst == x.1).foldl (fun a z => min a z.arr) c))) s

/-- The cycle of a tile's first fault is over (R62, R219, R251, R255): the tile stops, its global counter waits are withdrawn, and the tile-fault event is
raised, with the lowest CAUSE among the faults of that cycle. -/
def Mach.faultOver (s : Mach) (n : Nat) : Mach :=
  let t := s.tile n
  (({ s with tiles := s.tiles.put n t.faultStops }).withdraw n).raise (0x080 + 0x40 * dieOf n)
    (BitVec.ofNat 32 (n % 2 ^ 13 + t.tfr.cause * 2 ^ 16)) t.tfr.word1

/-- The faults of the cycles that are over take their effect. -/
def Mach.faultsOver (s : Mach) : Mach :=
  ((s.tiles.filter fun x => !x.2.tfr.told && x.2.stoppedAt s.clk.aclk).map fun x => x.1).foldl (fun (m : Mach) n => m.faultOver n) s

/-- Change a tile by a function. -/
def Mach.updTile (s : Mach) (n : Nat) (f : Tile → Tile) : Mach := s.putTile n (f (s.tile n))

end Sys2Proof.Machine
end

