-- ==== Sys2Proof/Machine/Sync.lean ====
section
/-! DEFINITION. Sync groups on the package (R49 to R64, R72, R259, R260, R529), phases, drain points, waits on local counters and the Cuff's
switches, as operations on the machine. -/

namespace Sys2Proof.Machine

/-- A sync group. -/
def Mach.group (s : Mach) (g : Nat) : Group := s.groups.get {} g

/-- CDC_SGRP_CFG_n of die d. -/
def Mach.sgrpCfg (s : Mach) (d g : Nat) : Word := s.reg (cdc d (0x100_2000 + 4 * g))

/-- MEMBERS of a group on a die. -/
def Mach.members (s : Mach) (d g : Nat) : Nat := fld (s.sgrpCfg d g) 10 0

/-- ARRIVED: the arrivals on a die that count (R529). -/
def Group.arrived (g : Group) (d : Nat) : Nat := (g.arr.filter fun a => dieOf a.tile == d && !a.excess).length

/-- CDC_SGRP_STAT_n. -/
def Mach.sgrpStat (s : Mach) (d g : Nat) : Word :=
  let n := (s.group g).arrived d
  mkWord [(0, n), (16, b2n (n != 0)), (17, b2n ((s.die d).wdogx.contains g))]

/-- Enter an arrival at a group (R52, R529): a tile that has already arrived is held for the next sync; an arrival that the die cannot count
marks the group and faults the tile. -/
def Mach.enterArrival (s : Mach) (g : Nat) (a : Arrival) (desc : Nat) (gsel : Bool) (pc : Nat) : Mach :=
  let gr := s.group g
  if gr.arr.any fun x => x.tile == a.tile then
    (if gr.early.any fun x => x.tile == a.tile then s
     else { s with groups := s.groups.put g { gr with early := gr.early ++ [a] } })
  else
    let d := dieOf a.tile
    let excess := s.members d g ≤ gr.arrived d
    if excess then
      let s1 := { s with groups := s.groups.put g { gr with arr := gr.arr ++ [{ a with excess := true }], mark := true } }
      s1.updTile a.tile fun t => t.fault 0x04 0 0 pc a.cyc (desc + b2n gsel * 2 ^ 8 + 2 ^ 9) 0
    else { s with groups := s.groups.put g { gr with arr := gr.arr ++ [a] } }

/-- The local counters that a sync waits for are all nonzero, and no queued command waits on one of them (R51, R64, R246). -/
def Tile.maskReady (t : Tile) (mask : Nat) : Bool :=
  (bitsSet 16 mask).all fun c =>
    t.lsc c != 0 && (t.engs.all fun e => e.2.waiting.all fun q => !(iWaiten q.w && iWaitctr q.w == c))

/-- The conditions of R51 hold for a pending sync. -/
def Tile.arrivalReady (t : Tile) : Bool :=
  match t.tm.pend with
  | some p => !p.arrived && t.allIdle && t.maskReady p.mask && !t.inKernel
  | none => false

/-- The cycle in which they first hold. -/
def Tile.arrivalCyc (t : Tile) (p : PendSync) (aclk : Nat) : Nat :=
  maxOr (max (p.cyc + 1) aclk) (t.idleFrom :: ((bitsSet 16 p.mask).map fun c => (t.lscs.get ({} : Lsc) c).cyc))

/-- Take one count of each counter of a mask, as waiter 10 (R246, R247). -/
def Tile.takeMask (t : Tile) (mask cyc : Nat) : Tile :=
  { t with lscs := (bitsSet 16 mask).foldl (fun m c => SMap.upd {} m c fun (l : Lsc) => l.take cyc 1) t.lscs }

/-- The groups that a tile belongs to (R60). -/
def Tile.groups (t : Tile) : List Nat := (if t.tsq.jobGroup then [0] else []) ++ (if t.tsq.home = 0 then [] else [t.tsq.home])

/-- A tile's sync is pending no more and the tile has arrived: its state. -/
def Tile.arrive (t : Tile) (p : PendSync) (c : Nat) : Tile :=
  { t with tm := { t.tm with pend := some { p with arrived := true, cyc := c } }, tsq := { t.tsq with phase := .arrived } }

/-- A faulted tile has made its arrival of R62 step 3. -/
def Tile.faultArrived (t : Tile) : Tile := t.both fun t => { t with tfr := { t.tfr with arrived := true } }

/-- A faulted arrival (DEDUCED, log entry 48). -/
def faultedArrival (n c : Nat) : Arrival := { tile := n, cyc := c, payload := 0, comb := 0, faulted := true, excess := false }

/-- A faulted tile arrives at each sync of its groups that has become pending (R62 step 4): a member has arrived there, and this tile has not. -/
def Mach.laterArrivals (s : Mach) (n : Nat) : Mach :=
  let t := s.tile n
  (t.groups.filter fun g => !((s.group g).arr.isEmpty) && !((s.group g).arr.any fun x => x.tile == n)).foldl (fun m g =>
    m.enterArrival g (faultedArrival n (maxOr t.tfr.cyc [t.idleFrom, minOr 0 ((m.group g).arr.map fun a => a.cyc)])) 0 (g != 0) t.pc) s

/-- The arrivals of a faulted tile whose engines are idle (R62 steps 3 and 4): at its pending sync; at its next sync, held where its counted arrival still
waits for a release (R52), and made at once where it belongs to one group (log entry 48); and at every sync of its groups that has become pending. -/
def Mach.faultedArrive (s : Mach) (n : Nat) : Mach :=
  let t := s.tile n
  let c := maxOr s.clk.aclk [t.idleFrom, t.tfr.cyc]
  match t.tm.pend with
  | some p =>
    if !p.arrived then
      ((s.updTile n fun x => (x.arrive p (max c (p.cyc + 1))).faultArrived).enterArrival p.group (faultedArrival n (max c (p.cyc + 1))) p.desc p.gsel p.pc).laterArrivals n
    else if !t.tfr.arrived then
      ((s.updTile n fun x => x.faultArrived).enterArrival p.group (faultedArrival n c) p.desc p.gsel p.pc).laterArrivals n
    else s.laterArrivals n
  | none =>
    match t.tfr.arrived, t.groups with
    | false, [g] => (s.updTile n fun x => x.faultArrived).enterArrival g (faultedArrival n c) 0 (g != 0) t.pc
    | _, _ => s.laterArrivals n

/-- The tile is FAULTED when its next arrival falls due (R62): by now, or, with the conditions of R51 met at its pending sync, in the arrival cycle. -/
def Tile.faultedBy (t : Tile) (aclk : Nat) : Bool :=
  t.faultedAt (match t.tm.pend with | some p => if t.arrivalReady then t.arrivalCyc p aclk else aclk | none => aclk)

/-- The arrival of a tile (R51, R62 steps 3 and 4, R416). -/
def Mach.syncArrive (s : Mach) (n : Nat) (msgOk : Bool) : Mach :=
  let t := s.tile n
  if !(t.tsq.inJob && t.tsq.started && !t.tsq.halted) then s
  else
    let s0 := if msgOk then s else s.alarm 4
    if t.faultedBy s.clk.aclk then (if t.allIdle then s0.faultedArrive n else s)
    else match t.tm.pend with
    | some p =>
      if !p.arrived && t.arrivalReady then
        let c := t.arrivalCyc p s.clk.aclk
        (s0.updTile n fun x => (x.takeMask p.mask c).arrive p c).enterArrival p.group
          { tile := n, cyc := c, payload := if msgOk then p.payload else 0, comb := p.comb, faulted := !msgOk, excess := false } p.desc p.gsel p.pc
      else s
    | none => s

/-! ## Release (R52 to R54, R259, R260) -/

/-- One combine op (R50). -/
def combOp (comb a b : Nat) : Nat :=
  match comb with
  | 0 => a ||| b
  | 1 => a &&& b
  | 2 => max a b
  | _ => satTo 0xFFFF (a + b)

/-- The combined result of a list of arrivals: payload, PMIS, FAULT (R53, R54, R62). -/
def combineArrivals (as : List Arrival) (mark : Bool) : Nat × Bool × Bool :=
  let ok := as.filter fun a => !a.faulted && !a.excess
  let anyF := mark || as.any fun a => a.faulted
  match ok with
  | [] => (0, false, anyF)
  | a :: r =>
    if r.all fun x => x.comb == a.comb then
      let fs := (as.filter fun x => x.faulted && !x.excess).map fun _ => 0
      (((r.map fun x => x.payload) ++ fs).foldl (combOp a.comb) a.payload, false, anyF)
    else (0, true, anyF)

/-- SR as a number (R53). -/
def srWord (pay : Nat) (pmis fault stop : Bool) : Nat := pay % 2 ^ 16 + b2n fault * 2 ^ 16 + b2n stop * 2 ^ 17 + b2n pmis * 2 ^ 18

/-- The ring distance of two dies: on four dies the shorter way round, on two dies 0 or 1 (R14, R259). -/
def ringDist (a b : Nat) : Nat := let x := (a + 4 - b) % 4; min x (4 - x)

/-- The span H of a group (R259). -/
def Mach.span (s : Mach) (g : Nat) : Nat :=
  let ds := s.part.dies.filter fun d => s.members d g != 0
  maxOr 0 (ds.flatMap fun a => ds.map fun b => ringDist a b)

/-- Every member of a group on this package has arrived (R52, R529). -/
def Mach.groupFull (s : Mach) (g : Nat) : Bool :=
  (s.part.dies.any fun d => s.members d g != 0) && s.part.dies.all fun d => (s.group g).arrived d == s.members d g

/-- A group spans packages (CDC_SGRP_CFG_n.XCHIP). -/
def Mach.xchip (s : Mach) (g : Nat) : Bool := s.part.dies.any fun d => bit (s.sgrpCfg d g) 16

/-- The cycle in which the last member arrived. -/
def Group.lastArr (g : Group) : Nat := maxOr 0 ((g.arr.filter fun a => !a.excess).map fun a => a.cyc)

/-- The release cycle on one package (R259). -/
def Mach.relCyc (s : Mach) (g : Nat) : Nat := max ((s.group g).lastArr + 26 + 16 * s.span g) s.clk.aclk

/-- A member in the release cycle (R52, R54, R55). -/
def Tile.release (t : Tile) (g rel sr : Nat) (pmis : Bool) (comb : Nat) : Tile :=
  let x := match t.tm.pend with | some p => if p.arrived && p.group == g then some p else none | none => none
  let xg := match x with | some p => p.xguard | none => 0
  let xl := match x with | some p => p.xlen | none => 0
  let ph : Phase := if xg != 0 then .guard else if xl != 0 then .exchange else .compute
  let t1 := { t with
    tsq := { t.tsq with phase := ph, sr := BitVec.ofNat 19 sr }
    tm := { t.tm with relAt := some rel, prevRel := t.tm.relAt, xguard := xg, xlen := xl, pend := if x.isSome then none else t.tm.pend
                      nextIssue := max rel t.tm.nextIssue } }
  let t2 := if rel ≤ t.tfr.cyc then t1.restamp else t1
  if pmis then t2.fault 0x05 0 0 (match x with | some p => p.pc | none => 0) rel (g + comb * 2 ^ 8) 0 else t2

/-- Release a group in a cycle with a result (R52): every arrived member, the dies' RESULT, the watchdog marks, and the arrivals held for the next
sync, which enter in this cycle. The slack hint clears (R475), an armed frequency change has its point (R466), and a release of group 0 with FAULT while the
mark tile is faulted is a replay trigger (R418) (DEDUCED, log entry 57). -/
def Mach.releaseGroup (s : Mach) (g rel pay : Nat) (pmis fault stop : Bool) : Mach :=
  let gr := s.group g
  let sr := srWord pay pmis fault stop
  let s1 := gr.arr.foldl (fun m a => m.updTile a.tile fun t => t.release g rel sr pmis a.comb) s
  let s2 := (s.part.dies.filter fun d => s.members d g != 0).foldl (fun m d =>
    m.updDie d fun y => { y with sgrpLast := y.sgrpLast.put g (BitVec.ofNat 32 sr), wdogx := y.wdogx.filter fun x => x != g }) s1
  let run := s2.hq.job == .running
  let trig := g == 0 && fault && run && s2.itg.phase == .idle && s2.itg.pendTrig.isNone && (s2.tile (fld (s2.reg 0x6_0010) 12 0)).faultedAt s2.clk.aclk
  let s3 := { s2 with
    groups := s2.groups.put g {}
    pw := { s2.pw with hint := none, point := if s2.pw.armed.isSome then some rel else none }
    itg := { s2.itg with pendTrig := if trig then some 1 else s2.itg.pendTrig } }
  gr.early.foldl (fun m a => m.enterArrival g { a with cyc := rel } 0 (g != 0) 0) s3

/-- A group watchdog expires (R72). -/
def Mach.watchdog (s : Mach) (d g : Nat) : Mach :=
  if fld (s.sgrpCfg d g) 23 20 != 0 && (s.group g).arrived d != 0 && !((s.die d).wdogx.contains g) && decide (g < 16) then
    let s1 := s.updDie d fun y => { y with wdogx := insSorted g y.wdogx }
    s1.raise (0x084 + 0x40 * d + g) (BitVec.ofNat 32 g) (s1.sgrpStat d g)
  else s

/-! ## Phases and drain points -/

/-- PCC reaches XGUARD (R55). -/
def Tile.guardEnd (t : Tile) : Tile :=
  match t.tsq.phase, t.tm.relAt with
  | .guard, some r =>
    { t with tsq := { t.tsq with phase := .exchange }
             tm := { t.tm with nextIssue := max t.tm.nextIssue (r + t.tm.xguard) } }
  | _, _ => t

/-- The exchange phase ends (R55, R232): armed slots disarm, and the lowest that is short of lines faults. -/
def Tile.exchangeEnd (t : Tile) : Tile :=
  match t.tsq.phase, t.tm.relAt with
  | .exchange, some r =>
    let e := r + t.phaseEnd
    let open_ := (upTo 8).filter fun i => (t.slots.get {} i).armed
    let short := open_.find? fun i => decide ((t.slots.get {} i).got.length < (t.slots.get {} i).n)
    let t1 := { t with
      tsq := { t.tsq with phase := .compute }
      tm := { t.tm with nextIssue := max t.tm.nextIssue e }
      slots := open_.foldl (fun m i => SMap.upd {} m i fun (x : RSlot) => { x with armed := false }) t.slots }
    match short with
    | some i =>
      let x := t.slots.get {} i
      t1.fault 0x46 0 6 x.pc e (x.sender + i * 2 ^ 16) (x.got.length + (x.n - 1) * 2 ^ 8)
    | none => t1
  | _, _ => t

/-- A pending sy.at's cycle is reached (R48). -/
def Tile.atReached (t : Tile) (aclk : Nat) : Tile :=
  match t.cur.hold, t.tm.relAt with
  | .untilPcc n, some r =>
    let t1 := t.hold .none
    { t1 with tm := { t1.tm with nextIssue := maxOr aclk [t1.tm.nextIssue, r + n] } }
  | _, _ => t

/-- Issue resumes after a drain point whose condition holds (R44, R45); channel operations are resumed apart. -/
def Tile.drainResume (t : Tile) (aclk : Nat) : Tile :=
  if !t.allIdle || t.stoppedAt aclk || t.tsq.halted then t
  else
    let go := fun (c : Nat) =>
      let t1 := t.hold .none
      { t1 with tm := { t1.tm with nextIssue := maxOr aclk [t1.tm.nextIssue, c, t1.idleFrom] } }
    match t.cur.hold with
    | .drain c => if t.inCuff && t.tsq.retPend then t else go c
    | .stall e =>
      match (t.eng e).roomAt (engDepth e) (t.issueCyc aclk) with
      | some c => go c
      | none => t
    | _ => t

/-! ## Completion and waits on local counters -/

/-- A command of a synchronous engine reaches its completion cycle (R135, R243, R244): the earliest of its engine; channel commands of xc. are
kept apart, under engine 16, and xc.qclose under 17. -/
def Tile.complete (t : Tile) (eng : Nat) : Tile :=
  let pool := ((t.eng eng).running.map fun r => (eng, r)) ++ (if eng = 6 then ((t.eng 16).running.map fun r => (16, r)) ++ ((t.eng 17).running.map fun r => (17, r)) else [])
  let first := minOr 0 (pool.map fun x => x.2.done)
  match pool.find? fun x => x.2.done == first with
  | some (k, r) =>
    let t1 := t.updEng k fun e => { e with running := e.running.erase r }
    match r.sig with
    | some c => t1.signal c (2 ^ 13 + eng) r.done
    | none => t1
  | none => t

/-- The waiters on counter c that can proceed (R246), by waiter number: the TSQ only with every synchronous engine idle (R45), an engine's head only when it can leave in cycle a; ext are the hb. and hx. queues whose heads could leave. -/
def Tile.waiters (t : Tile) (ext : List Nat) (c a : Nat) : List Nat :=
  let w0 := match t.tsq.mode with
    | .off => (match t.tsq.main.hold with | .wait x _ => x == c | _ => false)
    | .ctx => false
    | _ => (match t.tsq.cuff.hold with | .wait x _ => x == c | _ => false)
  let w1 := t.inCuff && (match t.tsq.cuff.hold with | .wait x _ => x == c | _ => false)
  (if w0 && t.allIdle then [0] else []) ++ (if w1 && t.allIdle then [1] else []) ++ t.headsReady ext c a

/-- WAITERS of CDC_LSC_t_c: every waiter waiting, the main context's wait and the sync arrival among them. -/
def Tile.waitersShown (t : Tile) (c : Nat) : List Nat :=
  let m := (match t.tsq.main.hold with | .wait x _ => x == c | _ => false) ||
    (t.inKernel && !t.inCuff && (match t.tsq.cuff.hold with | .wait x _ => x == c | _ => false))
  let sy := match t.tm.pend with | some p => !p.arrived && p.mask.testBit c | none => false
  let k := t.inCuff && (match t.tsq.cuff.hold with | .wait x _ => x == c | _ => false)
  let l := ([1, 2, 3, 4, 5, 6, 7, 8].filter fun e =>
    match (t.eng e).waiting with | q :: _ => iWaiten q.w && iWaitctr q.w == c | [] => false).map fun e => e + 1
  (if m then [0] else []) ++ (if k then [1] else []) ++ l ++ (if sy then [10] else [])

/-- The counts of counter c that are left for waiters 0 to 9: a sync arrival that can proceed takes its count first (R247). -/
def Tile.freeCount (t : Tile) (c : Nat) : Nat :=
  let claim := if t.arrivalReady && (match t.tm.pend with | some p => p.mask.testBit c | none => false) then 1 else 0
  t.lsc c - claim

/-- The waiters of counter c granted in a cycle (R247): ascending numbers after the round-robin pointer, wrapping, as many as the count allows; a
sync arrival that can proceed is served first. -/
def Tile.granted (t : Tile) (ext : List Nat) (c a : Nat) : List Nat :=
  let l := t.lscs.get ({} : Lsc) c
  (roundRobin l.rr (t.waiters ext c a)).take (t.freeCount c)

/-- Take the counts of the granted waiters and free the sequencer contexts among them; queue heads leave afterwards. -/
def Tile.grantCtx (t : Tile) (c : Nat) (gs : List Nat) (cyc : Nat) : Tile :=
  let t1 := { t with lscs := SMap.upd {} t.lscs c fun (l : Lsc) =>
    { l.take cyc gs.length with rr := gs.getLastD l.rr } }
  gs.foldl (fun x w => if w ≤ 1 then x.hold (.drain cyc) else x) t1

end Sys2Proof.Machine
end

