-- ==== Sys2Proof/Machine/Dil.lean ====
section
/-! DEFINITION. Interchip links (R348 to R369): routing of channel messages, the link layer of a port, lane failure, sync trees across packages and
the time tree. -/

namespace Sys2Proof.Machine

/-! ## Flits (R349, R350) -/

/-- The CRC-64 of a header and payload with the ECMA-182 polynomial, bit by bit from the header's bit 31, from 0 (PRESUMED, log entry 87: start value, bit order). -/
def crc64 (hdr : Word) (payload : BitVec 2048) : BitVec 64 :=
  let m := hdr.toNat * 2 ^ 2048 + payload.toNat
  BitVec.ofNat 64 ((upTo 2080).foldl (fun c i =>
    if (c.testBit 63) != (m.testBit (2079 - i)) then (c * 2 % 2 ^ 64) ^^^ 0x42F0E1EBA9EA3693 else c * 2 % 2 ^ 64) 0)

end Sys2Proof.Machine

namespace Sys2Proof

/-- The receiver's check (R351). -/
def Flit.crcOk (f : Flit) : Bool := f.crc == Machine.crc64 f.hdr f.payload

end Sys2Proof

namespace Sys2Proof.Machine

/-- A sent flit as it travels: header, payload, CRC (R349). -/
def SentFlit.flit (f : SentFlit) : Flit :=
  let p := match f.load with | .none => 0 | x => Config.flitPayload x
  { hdr := f.hdr, load := f.load, payload := p, crc := crc64 f.hdr p }

/-! ## Routing of channel messages (R356 to R360) -/

/-- DIL_JOBCFG.PKGIDX. -/
def Mach.pkgIdx (s : Mach) : Nat := fld (s.reg 0xB_0000) 7 0

/-- DIL_JOBCFG.SLACK. -/
def Mach.slack (s : Mach) : Bool := bit (s.reg 0xB_0000) 31

/-- A DIL port. -/
def Mach.port (s : Mach) (p : Nat) : Port := s.dil.ports.get {} p

/-- Change a DIL port. -/
def Mach.updPort (s : Mach) (p : Nat) (f : Port → Port) : Mach := { s with dil := { s.dil with ports := SMap.upd {} s.dil.ports p f } }

/-- DIL_CTL_p. -/
def dilCtl (p : Nat) : Nat := 0xA_0004 + 0x1000 * p

/-- DIL_STAT_p. -/
def Port.stat (q : Port) : Word :=
  mkWord [(31, b2n q.present), (30, b2n q.up), (28, if q.up then q.width else 0), (27, b2n q.spared), (26, b2n q.jrnl), (24, q.down),
          (0, if !q.present then 0 else q.failed.foldl (fun a l => a + 2 ^ l) 0)]

/-- The port towards a package (R356): none where the route is unreachable or the port absent or down (R360). -/
def Mach.portTo (s : Mach) (pkg : Nat) : Option Nat :=
  let e := fld (s.reg (0xB_0100 + 4 * (pkg / 8))) (4 * (pkg % 8) + 3) (4 * (pkg % 8))
  if decide (e < 12) && (s.port e).up && pkg != 255 then some e else none

/-- The package that a message is bound for: the receiver's for a record, pad or contribution, the sender's for the answers. -/
def msgTarget (m : Msg) : Nat :=
  match m.kind with
  | .record | .pad | .contrib => m.dpkg
  | _ => m.spkg

/-- A record or contribution, which the bulk lane carries; refusals travel there too (R353). -/
def msgBulk (m : Msg) : Bool :=
  match m.kind with
  | .record | .pad | .contrib | .refuse => true
  | _ => false

/-- The credit lane of a flit: 0 sync, 1 control, 2 bulk B0, 3 bulk B1. -/
def laneOf (vl cls : Nat) : Nat := if vl = 2 then 2 + cls else vl

/-- The bulk class of a message that leaves through port p, having arrived through a port in a class (R357). -/
def Mach.classOut (s : Mach) (p : Nat) (arr : Option (Nat × Nat)) : Nat :=
  let dim := fun q => fld (s.reg (dilCtl q)) 29 28
  let base := match arr with | some (a, c) => if dim a = dim p then c else 0 | none => 0
  if bit (s.reg (dilCtl p)) 30 then 1 else base

/-- Queue flits on a port: one line of a record per flit, the message complete with the last (R268). Those in transit keep their place in the receive buffer of
the port they came by (R355). -/
def Mach.enqueue (s : Mach) (p : Nat) (m : Msg) (arr : Option (Nat × Nat)) : Mach :=
  let n := match m.kind with | .record => m.lines.length + 1 | .contrib => m.lines.length + 1 | _ => 1
  let vl := if msgBulk m then 2 else 1
  let c := if msgBulk m then s.classOut p arr else 0
  let held := match arr with | some (a, x) => (s.port a).parts.get 0 (laneOf vl x) | none => 0
  let src := fun i => match arr with | some (a, x) => if i < held then some (a, laneOf vl x) else none | none => none
  let fs := ((upTo (n - 1)).map fun i => ({ vl := vl, cls := c, load := .part, src := src i } : TxFlit)) ++ [{ vl := vl, cls := c, load := .msg m, src := src (n - 1) }]
  let s1 := match arr with | some (a, x) => s.updPort a fun q => { q with parts := q.parts.put (laneOf vl x) (held - n) } | none => s
  s1.updPort p fun q => { q with txq := q.txq ++ fs }

/-- The channel-drop event (R269, R360), on the die of the receiving tile's number, or, where this
package has no such die, on its first (DESIGN CHOICE, log entry 23). -/
def Mach.chanDrop (s : Mach) (m : Msg) : Mach :=
  s.raise (0x083 + 0x40 * (if s.part.dies.contains (dieOf m.dtile) then dieOf m.dtile else s.part.dies.headD 0)) (mkWord [(0, m.dtile % 2 ^ 13), (16, m.dq)]) (BitVec.ofNat 32 (m.seq % 2 ^ 16))

/-- Put a message among those that reach a tile of this package. -/
def Mach.local (s : Mach) (m : Msg) : Mach := { s with msgs := s.msgs ++ [m] }

/-- Send a message that needs no drop notice: towards its package, or dropped. -/
def Mach.sendPlain (s : Mach) (m : Msg) (arr : Option (Nat × Nat)) : Mach × Bool :=
  if msgTarget m = s.pkgIdx ∨ msgTarget m = 0xFF then (s.local m, true)
  else match s.portTo (msgTarget m) with
    | some p => (s.enqueue p m arr, true)
    | none => (s, false)

/-- Send or forward a message (R268, R356, R360): one that cannot be routed is dropped, with the channel-drop event and a drop notice for a record or
contribution, and the event alone for a drop notice. -/
def Mach.forward (s : Mach) (m : Msg) (arr : Option (Nat × Nat)) : Mach :=
  let r := s.sendPlain m arr
  if r.2 then r.1
  else match m.kind with
    | .record | .contrib =>
      let s1 := s.chanDrop m
      let n := { m with kind := .drop, lines := [], elems := [] }
      let q := s1.sendPlain n none
      if q.2 then q.1 else s1.chanDrop m
    | .drop => s.chanDrop m
    | _ => s

/-- Send a message of this package: its EPOCH goes with it (R422). -/
def Mach.sendMsg (s : Mach) (m : Msg) : Mach := s.forward { m with epoch := s.itg.epoch } none

/-! ## The link layer (R351 to R355) -/

/-- Acknowledge flits up to a sequence: they leave the retry buffer. -/
def ackFlits (l : List TxFlit) (ack : Nat) : List TxFlit :=
  if l.any fun f => f.seq == ack then (l.dropWhile fun f => f.seq != ack).drop 1 else l

/-- A message that a flit delivers (R356, R422): a record of this package with another EPOCH is discarded and counted. -/
def Mach.deliver (s : Mach) (p cls : Nat) (m : Msg) : Mach :=
  let isRec := match m.kind with | .record | .pad | .contrib => true | _ => false
  if msgTarget m = s.pkgIdx && isRec && m.epoch != s.itg.epoch then
    { s with itg := { s.itg with stale := satTo 0xFFFFFFFF (s.itg.stale + 1) } }
  else s.forward m (some (p, cls))

/-- Credits are owed to the peer of a port again: flits of a lane have been forwarded or consumed (R355). -/
def Mach.owe (s : Mach) (p lane n : Nat) : Mach := s.updPort p fun q => { q with owed := SMap.upd 0 q.owed lane fun c => c + n }

/-- The flits of a lane that the receive buffer still holds, and that nothing forwards, are consumed. -/
def Port.consume (q : Port) (lane : Nat) : Port :=
  { q with owed := SMap.upd 0 q.owed lane fun c => c + q.parts.get 0 lane, parts := q.parts.put lane 0 }

/-- The sender's side of a received header (R350, R351, R355): flits up to ACK are acknowledged, NAK starts a replay from the next, and CRN credits return. -/
def Port.header (q : Port) (hdr : Word) : Port :=
  let un := ackFlits q.unacked (fld hdr 19 11)
  { q with unacked := un, replay := if bit hdr 10 then un else q.replay.filter fun y => un.contains y
           credits := SMap.upd 0 q.credits (fld hdr 9 8) fun c => c + fld hdr 7 0 }

/-- A flit whose check fails (R351, R352): the first is refused, and the replays of the same flit after it; other flits meanwhile are discarded. -/
def Port.refuse (q : Port) (hdr : Word) : Port :=
  if q.nak && !(fld hdr 31 30 != 3 && fld hdr 28 20 == (q.rxSeq + 1) % 512) then q
  else { q with nak := true, refused := q.refused + 1, retryn := satTo 0xFFFF (q.retryn + 1), retrain := decide (15 ≤ q.refused) }

/-- Queue one flit of this package on a port, where the port is up. -/
def Mach.ownFlit (s : Mach) (p vl : Nat) (x : FlitLoad) : Mach :=
  s.updPort p fun q => if q.up then { q with txq := q.txq ++ [{ vl := vl, cls := 0, load := x }] } else q

/-- Send a control message towards a package, where a route leads there. -/
def Mach.ctlTo (s : Mach) (pkg : Nat) (x : FlitLoad) : Mach := match s.portTo pkg with | some p => s.ownFlit p 1 x | none => s

/-- This package's identity as DIL_PEER_p of a peer shows it: RVALID, PRANK, PPKG, PPORT. -/
def Mach.identity (s : Mach) (p : Nat) : Word :=
  mkWord [(30, b2n (bit (s.reg 0x6_8000) 31)), (16, fld (s.reg 0x6_8000) 21 16), (8, s.pkgIdx), (0, p)]

/-- The ports that are up send this package's identity (R353): at training, and whenever a field of it may have changed (DEDUCED, log entry 23). -/
def Mach.announce (s : Mach) : Mach :=
  ((s.dil.ports.filter fun x => x.2.up).map fun x => x.1).foldl (fun m p => m.ownFlit p 1 (.peer (m.identity p))) s

/-- A port receives a flit (R351, R355): only an idle flit or the next in sequence takes effect, its header included. -/
def Mach.flitIn (s : Mach) (p : Nat) (f : Flit) : Mach :=
  let q := s.port p
  if !q.up || q.retrain || decide (12 ≤ p) then s
  else
    let s0 := s.updPort p fun x => { x with
      corrn := satTo 0xFFFFFFFF (x.corrn + f.corr), uncwn := satTo 0xFFFF (x.uncwn + f.uncw)
      serr := f.serr.foldl (fun m e => if e.1 < 9 then SMap.upd 0 m e.1 fun n => satTo 0xFFFF (n + e.2) else m) x.serr }
    if !f.crcOk then s0.updPort p fun x => x.refuse f.hdr
    else
      let vl := fld f.hdr 31 30
      let cls := fld f.hdr 29 29
      let seq := fld f.hdr 28 20
      let lane := laneOf vl cls
      if vl = 3 then s0.updPort p fun x => x.header f.hdr
      else if seq = (q.rxSeq + 1) % 512 then
        let s2 := s0.updPort p fun x =>
          let y := x.header f.hdr
          { y with rxSeq := seq, nak := false, refused := 0, parts := SMap.upd 0 y.parts lane fun c => c + 1 }
        match f.load with
        | .part => s2
        | .msg m => (s2.deliver p cls m).updPort p fun x => x.consume lane
        | .peer w => s2.updPort p fun x => { x.consume lane with peer := w ||| 0x80000000 }
        | .digest d _ | .verdict d _ =>
          let s3 := s2.updPort p fun x => x.consume lane
          if d = s.pkgIdx then s3 else s3.ctlTo d f.load
        | .time _ =>
          let s3 := s2.updPort p fun x => x.consume lane
          if !(bit (s.reg 0xB_0400) 30) && fld (s.reg 0xB_0400) 3 0 == p then s3 else s3.ownFlit p 1 (.time s.clk.tb.toNat)
        | _ => s2.updPort p fun x => x.consume lane
      else s0

/-- The next flit that a port sends at a flit boundary (R351, R354, R355), from its queues: the first of a lane and class. -/
def Port.firstOf (q : Port) (lane : Nat) : Option TxFlit :=
  if q.credits.get 0 lane = 0 then none else q.txq.find? fun f => laneOf f.vl f.cls == lane

/-- The header of a flit that a port sends (R350): ACK is the last sequence received in order, NAK tells that the flit after it failed its check. -/
def Port.headerOf (q : Port) (f : TxFlit) : Word :=
  mkWord [(30, f.vl), (29, f.cls), (20, f.seq), (11, q.rxSeq), (10, b2n q.nak), (8, f.crv), (0, f.crn)]

/-- The highest-priority flit that is ready and holds a credit (R354), while fewer than 511 are unacknowledged (R351). -/
def Port.pick (q : Port) : Option (Nat × TxFlit) :=
  if 511 ≤ q.unacked.length then none
  else ([0, 1] ++ (if q.lastCls = 0 then [3, 2] else [2, 3])).findSome? fun l => (q.firstOf l).map fun f => (l, f)

/-- A port sends one flit at a flit boundary: a replay, else the highest lane that is ready and holds a credit, else an idle flit, which takes no sequence.
A new or idle flit returns credits owed; a replay carries those of its first sending (DEDUCED, log entry 23). The second part is the receive-buffer place that a
flit in transit leaves. -/
def Port.sendOne (q : Port) : Port × Option (Nat × Nat) :=
  if !q.up || q.retrain then ({ q with out := none }, none)
  else match q.replay with
    | f :: r => ({ q with replay := r, out := some ⟨q.headerOf f, f.load⟩ }, none)
    | [] =>
      let cr := (q.owed.find? fun (x : Nat × Nat) => x.2 != 0).map fun x => (x.1, min x.2 255)
      let q1 := match cr with | some (l, n) => { q with owed := SMap.upd 0 q.owed l fun c => c - n } | none => q
      let crv := match cr with | some (l, _) => l | none => 0
      let crn := match cr with | some (_, n) => n | none => 0
      match q1.pick with
      | some (l, f) =>
        let g := { f with seq := q1.txSeq, crv := crv, crn := crn, src := none }
        ({ q1 with
            txq := q1.txq.erase f
            unacked := q1.unacked ++ [g]
            txSeq := (q1.txSeq + 1) % 512
            credits := SMap.upd 0 q1.credits l fun c => c - 1
            lastCls := if 2 ≤ l then l - 2 else q1.lastCls
            out := some ⟨q1.headerOf g, g.load⟩ }, f.src)
      | none => ({ q1 with out := some ⟨q1.headerOf { vl := 3, cls := 0, load := .none, crv := crv, crn := crn }, .none⟩ }, none)

/-- Port p sends a flit; the credit of the place that a flit in transit leaves is owed. -/
def Mach.sendFlit (s : Mach) (p : Nat) : Mach :=
  let r := (s.port p).sendOne
  let s1 := s.updPort p fun _ => r.1
  match r.2 with
  | some (a, l) => s1.owe a l 1
  | none => s1

/-- Every port sends one flit. -/
def Mach.sendFlits (s : Mach) : Mach := (s.dil.ports.map fun x => x.1).foldl (fun m p => m.sendFlit p) s

/-! ## Lanes (R366) -/

/-- The time-lock event is asserted while EN = 1 and LOCKED = 0 (R365, R403): DIL_TSTAT. -/
def Mach.tstat (s : Mach) : Word :=
  mkWord [(31, b2n s.dil.locked), (30, b2n s.dil.slew), (26, s.dil.hops % 16), (16, uintOf 10 s.dil.trim), (0, uintOf 16 s.dil.offset)]

/-- Assert or clear the time-lock event. -/
def Mach.timeLevel (s : Mach) : Mach := s.level 0x009 (bit (s.reg 0xB_0400) 31 && !s.dil.locked) s.tstat 0

/-- The package free-runs on its own reference (R365): LOCKED clears, and the loss of lock raises the time-lock event even where EN = 0 ends its level at once
(DEDUCED, log entry 94). -/
def Mach.freeRun (s : Mach) : Mach :=
  let s1 := { s with dil := { s.dil with locked := false, slew := false, trim := 0 } }
  (if s.dil.locked then s1.level 0x009 true s1.tstat 0 else s1).timeLevel

/-- What a port forgets when it goes down: flits not acknowledged are lost (R366). -/
def Port.off (q : Port) (reason : Nat) : Port :=
  { q with up := false, width := 0, down := reason, txq := [], unacked := [], replay := [], retrain := false, nak := false, refused := 0, pos := [], parts := [], out := none }

/-- Take a port down (R366, R369): messages that wait are routed again, which drops them under R360, their places in other ports' receive buffers free; a package
whose time parent is there free-runs (R365). -/
def Mach.portDown (s : Mach) (p reason : Nat) : Mach :=
  let q := s.port p
  let s1 := s.updPort p fun x => x.off reason
  let s2 := s1.raise (0x022 + 4 * p) (s1.port p).stat 0
  let s3 := q.txq.foldl (fun m f =>
    let m1 := match f.load with | .msg x => m.forward x none | _ => m
    match f.src with | some (a, l) => m1.owe a l 1 | none => m1) s2
  let c := s.reg 0xB_0400
  if bit c 31 && !(bit c 30) && fld c 3 0 == p then s3.freeRun else s3

/-- Set the stop request (R366, R386). -/
def Mach.stopRequest (s : Mach) : Mach := if s.hq.job = .running then { s with hq := { s.hq with stopReq := true } } else s

/-- A lane of a port fails (R366): after the switch the port replays the flits not yet acknowledged. -/
def Mach.laneFail (s : Mach) (p l : Nat) : Mach :=
  let q := s.port p
  if !q.present || decide (9 ≤ l) || q.failed.contains l then s
  else
    let failed := insSorted l q.failed
    let s0 := s.updPort p fun x => { x with failed := failed }
    match q.pos.find? fun x => x.1 == l with
    | none => s0
    | some (_, ps) =>
      let work := (upTo 9).filter fun i => !(failed.contains i)
      let spare := work.find? fun i => (q.pos.all fun x => x.1 != i)
      match spare, q.width == 2 with
      | some i, true =>
        let s1 := s0.updPort p fun x => { x with spared := true, pos := SMap.put (x.pos.del l) i ps, replay := x.unacked }
        (s1.raise (0x020 + 4 * p) (BitVec.ofNat 32 l) 0).hatbox 2 []
      | _, _ =>
        if 4 ≤ work.length then
          let s1 := s0.updPort p fun x => { x with width := 1, pos := (numbered (work.take 4)).map fun y => (y.2, y.1), replay := x.unacked }
          let s2 := (s1.raise (0x021 + 4 * p) (s1.port p).stat 0).hatbox 2 []
          if s.slack then s2 else s2.stopRequest
        else (s0.portDown p 3).hatbox 3 []

/-- A port trains: its working lanes take positions, its link starts afresh with whole receive buffers, and it sends its identity. -/
def Mach.portTrain (s : Mach) (p : Nat) : Mach :=
  let q := s.port p
  let work := (upTo 9).filter fun i => !(q.failed.contains i)
  if work.length < 4 then s.updPort p fun x => { x with up := false, width := 0, down := 3, pos := [] }
  else
    let k := if 8 ≤ work.length then 8 else 4
    let s1 := s.updPort p fun x =>
      { present := x.present, jrnl := x.jrnl, failed := x.failed, serr := x.serr, retryn := x.retryn, uncwn := x.uncwn, corrn := x.corrn
        up := true, width := if k = 8 then 2 else 1, spared := !(q.failed.isEmpty) && k == 8
        pos := (numbered (work.take k)).map fun y => (y.2, y.1) }
    s1.ownFlit p 1 (.peer (s1.identity p))

/-- A retrain ends (R352): on success the port replays its retry buffer; on failure its lanes are tested, and those that fail act as R366 states. -/
def Mach.retrained (s : Mach) (p : Nat) (ok : Bool) (bad : Nat) : Mach :=
  let q := s.port p
  if decide (12 ≤ p) || !q.present then s
  else if q.up then
    if !q.retrain then s
    else
      let s1 := if ok then s else (bitsSet 9 bad).foldl (fun m l => m.laneFail p l) s
      s1.updPort p fun x => { x with retrain := false, refused := 0, replay := x.unacked }
  else if bit (s.reg (dilCtl p)) 31 && !q.jrnl && q.down != 3 then
    (if ok then s.portTrain p else s.updPort p fun x => { x with down := 2 })
  else s

/-! ## Sync trees (R361, R362, R364) -/

/-- DIL_SGT_g words 0 and 1. -/
def sgt0 (g : Nat) : Nat := 0xB_0200 + 8 * g
/-- Word 1. -/
def sgt1 (g : Nat) : Nat := 0xB_0204 + 8 * g

/-- The tree of a group. -/
def Mach.tree (s : Mach) (g : Nat) : Tree := s.dil.trees.get {} g

/-- Change a tree. -/
def Mach.updTree (s : Mach) (g : Nat) (f : Tree → Tree) : Mach := { s with dil := { s.dil with trees := SMap.upd {} s.dil.trees g f } }

/-- ITG_RGLIVE as one number. -/
def Mach.rglive (s : Mach) : Nat := (s.reg 0x6_8008).toNat + (s.reg 0x6_800C).toNat * 2 ^ 32

/-- A port is live for the trees (R361). -/
def Mach.portLive (s : Mach) (p : Nat) : Bool :=
  let q := s.port p
  decide (p < 12) && q.up && (!(bit q.peer 30) || !(bit (s.reg 0x6_8000) 31) || s.rglive.testBit (fld q.peer 21 16))

/-- DIL_SGTSTAT_g_0. -/
def Tree.stat0 (t : Tree) : Word :=
  mkWord [(31, b2n t.formed), (30, b2n t.err), (24, t.effpar), (12, t.waitset.foldl (fun a p => a + 2 ^ p) 0), (0, t.arr.foldl (fun a x => a + 2 ^ x.1) 0)]

/-- Record a sync-tree error (R361, R364). -/
def Mach.treeErr (s : Mach) (g : Nat) : Mach :=
  let s1 := s.updTree g fun t => { t with err := true }
  s1.raise 0x00B (BitVec.ofNat 32 g) (s1.tree g).stat0

/-- The live ports of CHILD and ALTCHILD. -/
def Mach.childPorts (s : Mach) (g : Nat) : List Nat :=
  (bitsSet 12 (fld (s.reg (sgt0 g)) 11 0 ||| fld (s.reg (sgt1 g)) 11 0)).filter fun p => s.portLive p

/-- The parent that a package attaches to: 0xF at the root, none where no parent port is live. -/
def Mach.parentOf (s : Mach) (g : Nat) : Option Nat :=
  let c := s.reg (sgt0 g)
  if bit c 30 then some 0xF
  else if s.portLive (fld c 23 20) then some (fld c 23 20)
  else if s.portLive (fld c 27 24) then some (fld c 27 24)
  else none

/-- An attach or decline message arrives (R361 steps 2 and 3): one that comes before this package forms its wait set is kept until then (DEDUCED, log entry 54). -/
def Mach.attachMsg (s : Mach) (p g : Nat) (attach : Bool) : Mach :=
  let c := s.reg (sgt0 g)
  let kids := bitsSet 12 (fld c 11 0 ||| fld (s.reg (sgt1 g)) 11 0)
  if decide (16 ≤ g) then s
  else if bit c 31 && !(kids.contains p) then (if attach then s.treeErr g else s)
  else if !(bit c 31) || !(s.tree g).forming then s.updTree g fun t => { t with early := t.early.put p attach }
  else if (s.tree g).formed then s
  else
    s.updTree g fun t =>
      let an := insSorted p t.answered
      { t with answered := an, waitset := if attach then insSorted p t.waitset else t.waitset
               formed := (s.childPorts g).all fun x => an.contains x }

/-- Form the wait set of a group (R361 steps 1 and 2): attach to the parent, decline on the other live parent port, and take the answers that came early. -/
def Mach.formTree (s : Mach) (g : Nat) : Mach :=
  if !(bit (s.reg (sgt0 g)) 31) then s
  else match s.parentOf g with
    | none => (s.updTree g fun t => { early := t.early, held := t.held, bar := t.bar }).treeErr g
    | some p =>
      let c := s.reg (sgt0 g)
      let e := (s.tree g).early
      let s1 := s.updTree g fun t => { forming := true, formed := (s.childPorts g).isEmpty, effpar := p, held := t.held, bar := t.bar }
      let s2 := if bit c 30 then s1
        else ([fld c 23 20, fld c 27 24].filter fun o => s.portLive o && o != p).foldl (fun m o => m.ownFlit o 0 (.attach g false)) (s1.ownFlit p 0 (.attach g true))
      e.foldl (fun m x => m.attachMsg x.1 g x.2) s2

/-- Form every wait set. -/
def Mach.formTrees (s : Mach) : Mach := (upTo 16).foldl (fun m g => m.formTree g) s

/-- Every wait set has formed without error. -/
def Mach.treesFormed (s : Mach) : Bool :=
  (upTo 16).all fun g => !(bit (s.reg (sgt0 g)) 31) || ((s.tree g).formed && !(s.tree g).err)

/-- The lowest group whose tree has an error or has not formed. -/
def Mach.badTree (s : Mach) : Nat :=
  ((upTo 16).find? fun g => bit (s.reg (sgt0 g)) 31 && (!(s.tree g).formed || (s.tree g).err)).getD 0

/-- Combine messages (R260, R362): EMPTY ones take no part, and ones whose members all faulted take no part in the COMB match. -/
def combineMsgs (g seq : Nat) (ms : List TreeMsg) : TreeMsg :=
  let live := ms.filter fun m => !m.empty
  let stop := ms.any fun m => m.stop
  match live with
  | [] => { g := g, seq := seq, empty := true, stop := stop, fault := ms.any fun m => m.fault }
  | _ :: _ =>
    let fault := ms.any fun m => m.fault
    match live.filter fun m => !m.nocomb with
    | [] => { g := g, seq := seq, stop := stop, fault := fault, nocomb := true }
    | v :: r =>
      let pmis := live.any (fun m => m.pmis) || r.any fun m => m.comb != v.comb
      let others := live.erase v
      { g := g, seq := seq, comb := v.comb, stop := stop, fault := fault, pmis := pmis
        payload := if pmis then 0 else others.foldl (fun a m => combOp v.comb a m.payload) v.payload }

/-- This package's own result for the pending sequence, if it is complete (R362). -/
def Mach.localMsg (s : Mach) (g : Nat) : Option TreeMsg :=
  let gr := s.group g
  let seq := (s.tree g).seq
  if s.part.dies.all fun d => s.members d g == 0 then some { g := g, seq := seq, empty := true, fault := gr.mark, stop := s.hq.stopReq }
  else if s.groupFull g then
    let c := combineArrivals gr.arr gr.mark
    let ok := gr.arr.filter fun a => !a.faulted && !a.excess
    let nc := ok.isEmpty
    let cm := match ok with | a :: _ => a.comb | [] => 0
    some { g := g, seq := seq, payload := c.1, comb := cm, fault := c.2.2, pmis := c.2.1, stop := s.hq.stopReq, nocomb := nc }
  else none

/-- The whole subtree's message, once this package's result and every port of the wait set are in. -/
def Mach.subtreeMsg (s : Mach) (g : Nat) : Option TreeMsg :=
  let t := s.tree g
  match s.localMsg g with
  | some m => if t.waitset.all fun p => t.arr.any fun x => x.1 == p then some (combineMsgs g t.seq (m :: t.arr.map fun x => x.2)) else none
  | none => none

/-- Send the subtree's arrival to the effective parent when it has formed (R362); the root releases with its SYNC_RELEASE row (DEDUCED, log entry 54). -/
def Mach.treeAdvance (s : Mach) (g : Nat) : Mach :=
  let t := s.tree g
  if bit (s.reg (sgt0 g)) 31 && t.formed && !t.sent then
    match s.subtreeMsg g with
    | some m =>
      let s1 := s.updTree g fun x => { x with sent := true }
      if t.effpar = 0xF then s1 else s1.ownFlit t.effpar 0 (.arrival m)
    | none => s
  else s

/-- The trees of every group go on. -/
def Mach.treesAdvance (s : Mach) : Mach := (upTo 16).foldl (fun m g => m.treeAdvance g) s

/-- The tiles of this package are not released yet, or the group's wait set is not formed: its arrivals are held (R364). -/
def Mach.treeHolds (s : Mach) (g : Nat) : Bool := !(s.tree g).formed || s.hq.job != .running || s.itg.phase == .barrier

/-- A child's arrival message takes its place in the pending sequence. -/
def Mach.treeTake (s : Mach) (p : Nat) (m : TreeMsg) : Mach :=
  let t := s.tree m.g
  if !(t.waitset.contains p) then s
  else if m.seq != t.seq || t.arr.any (fun x => x.1 == p) then s.treeErr m.g
  else (s.updTree m.g fun x => { x with arr := x.arr ++ [(p, m)] }).treeAdvance m.g

/-- The job group spans packages. -/
def Mach.jobXchip (s : Mach) : Bool := s.xchip 0

/-- The restart barrier has every arrival of this package's subtree (R420): its own tiles are restored, the trees that this restart forms are in place, and every
port of the job group's wait set has arrived. -/
def Mach.barrierIn (s : Mach) : Bool :=
  s.itg.phase == .barrier && (!s.itg.forming || s.treesFormed) && (!s.jobXchip || (s.tree 0).waitset.all fun p => (s.tree 0).bar.contains p)

/-- The package arrives at the restart barrier (R420), on the sync lane towards the root of the job group's tree. -/
def Mach.barrierAdvance (s : Mach) : Mach :=
  let t := s.tree 0
  if s.barrierIn && s.jobXchip && t.effpar != 0xF && !t.barSent then
    (s.updTree 0 fun x => { x with barSent := true }).ownFlit t.effpar 0 (.arrival { g := 0, seq := 0, empty := true, bar := true })
  else s

/-- A child's arrival message (R362, R364, R416, R420). -/
def Mach.treeArrival (s : Mach) (p : Nat) (m : TreeMsg) : Mach :=
  let s0 := if m.ok then s else s.alarm 4
  let m1 := { m with fault := m.fault || !m.ok }
  if m.bar then (s0.updTree 0 fun t => { t with bar := insSorted p t.bar }).barrierAdvance
  else if decide (16 ≤ m.g) || !(bit (s.reg (sgt0 m.g)) 31) then s0
  else if s0.treeHolds m.g then s0.updTree m.g fun x => { x with held := x.held ++ [(p, m1)] }
  else s0.treeTake p m1

/-- The restart barrier is over. -/
def Mach.barrierOver (s : Mach) : Mach :=
  { s with dil := { s.dil with trees := s.dil.trees.map fun x => (x.1, { x.2 with bar := [], barSent := false }) } }

/-- The tiles are released: the trees take the arrivals held, and a package whose own result is EMPTY sends its subtree's (R362, R364). -/
def Mach.treesBegin (s : Mach) : Mach :=
  ((upTo 16).foldl (fun m g =>
    let h := (m.tree g).held
    if h.isEmpty then m else h.foldl (fun x e => x.treeTake e.1 e.2) (m.updTree g fun t => { t with held := [] })) s.barrierOver).treesAdvance

/-- The start or restart that forms the wait sets has ended without them: answers that come now wait for the next. -/
def Mach.endForming (s : Mach) : Mach :=
  { s with dil := { s.dil with trees := s.dil.trees.map fun x => (x.1, { x.2 with forming := false }) } }

/-- At unload what came early for the job's trees is forgotten. -/
def Mach.treesIdle (s : Mach) : Mach :=
  { s with dil := { s.dil with trees := s.dil.trees.map fun x => (x.1, { x.2 with forming := false, early := [], held := [], bar := [], barSent := false }) } }

/-- Release a group across packages with a result: members here, the release forwarded to the wait set, the next sequence pending. An excess arrival that came
after this package's message marks the release here (R529). -/
def Mach.treeRelease (s : Mach) (m : TreeMsg) : Mach :=
  let t := s.tree m.g
  let f := m.fault || !m.ok
  let s1 := t.waitset.foldl (fun x p => x.ownFlit p 0 (.release { m with fault := f, ok := true })) s
  let s2 := s1.updTree m.g fun x => { x with seq := (x.seq + 1) % 2 ^ 16, arr := [], sent := false }
  s2.releaseGroup m.g (max (s.group m.g).lastArr s.clk.aclk) (if m.pmis ∨ m.empty then 0 else m.payload) m.pmis (f || (s.group m.g).mark) m.stop

/-- A release message arrives from the effective parent (R362, R364, R416). -/
def Mach.treeReleaseMsg (s : Mach) (p : Nat) (m : TreeMsg) : Mach :=
  let s0 := if m.ok then s else s.alarm 4
  let t := s0.tree m.g
  if !(t.formed) || t.effpar != p || decide (16 ≤ m.g) || m.bar then s0
  else if m.seq != t.seq || !t.sent then s0.treeErr m.g
  else s0.treeRelease m

/-! ## The time tree (R365) -/

/-- Clamp an integer. -/
def clampI (lo hi x : Int) : Int := if x < lo then lo else if hi < x then hi else x

/-- A timebase exchange with the time parent: the parent's value, the round trip, and the parent's hops. This package's message goes out on the control lane. -/
def Mach.timeExchange (s : Mach) (parent rtt hops : Nat) : Mach :=
  let c := s.reg 0xB_0400
  let d := s.dil
  let p := fld c 3 0
  if !(bit c 31) then s.freeRun
  else if bit c 30 then ({ s with dil := { d with locked := true, slew := false, hops := 0, offset := 0, trim := 0 } }).timeLevel
  else if decide (12 ≤ p) || !(s.port p).up then s.freeRun
  else
    let pv := parent + rtt / 2
    let own := s.clk.tb.toNat
    let off : Int := (pv : Int) - (own : Int)
    let so := clampI (-32767) 32767 off
    let s1 :=
      if 0 < off && !d.locked then
        { s with clk := { s.clk with tb := BitVec.ofNat 64 pv }, dil := { d with locked := true, slew := false, hops := hops + 1, offset := so, trim := 0 } }
      else if off < -5 then
        { s with dil := { d with slew := true, hops := hops + 1, offset := so, trim := -250 } }
      else
        { s with dil := { d with slew := false, locked := true, hops := hops + 1, offset := so, trim := clampI (-250) 250 off } }
    (s1.timeLevel).ownFlit p 1 (.time own)

end Sys2Proof.Machine
end

