-- ==== Sys2Proof/Machine/Exchange.lean ====
section
/-! DEFINITION. Compiled exchange (R221 to R242): coordinates and routes, xc.send and xc.recv, arrivals, and collisions on links. -/

namespace Sys2Proof.Machine

/-! ## Coordinates and routes (R24, R221 to R223) -/

/-- The half of a logical tile. -/
def halfOf (t : Nat) : Nat := t % 1792 / 896
/-- The row. -/
def rowOf (t : Nat) : Nat := t % 896 / 32
/-- The die column x. -/
def colX (t : Nat) : Nat := if halfOf t = 0 then 31 - t % 32 else 32 + t % 32
/-- The package column gx. -/
def colGx (t : Nat) : Nat := dieOf t * 64 + colX t

/-- Columns of the package ring or line: 256 on four dies, 128 on ULX-E9-2L. -/
def Mach.cols (s : Mach) : Nat := if s.part.variant = 2 then 128 else 256

/-- The dies a variant populates (R2). -/
def Mach.present (s : Mach) (d : Nat) : Bool := decide (d < if s.part.variant = 2 then 2 else 4)

/-- The direction and number of column steps of a route (R222): ascending, and dx. -/
def Mach.xRoute (s : Mach) (a b : Nat) : Bool × Nat :=
  if s.part.variant = 2 then (decide (a ≤ b), if a ≤ b then b - a else a - b)
  else
    let d := (b + 256 - a) % 256
    if d ≤ 128 then (true, d) else (false, 256 - d)

/-- The die's edge that a column step crosses, if any: a step up from x = 63, a step down from x = 0. -/
def crosses (up : Bool) (gx : Nat) : Bool := if up then gx % 64 == 63 else gx % 64 == 0

/-- The x leg of a route from column gx in a row: the hops, the column and cycle reached. -/
def Mach.xHops (s : Mach) (up : Bool) (y : Nat) : Nat → Nat → Nat → Bool → List Hop × Nat × Nat
  | 0, gx, c, _ => ([], gx, c)
  | n + 1, gx, c, first =>
    let nx := if up then (gx + 1) % s.cols else (gx + s.cols - 1) % s.cols
    let cr := crosses up gx
    let h : Hop := { link := { gx := gx, y := y, out := if up then 1 else 0 }, cyc := c, cls := if first then 2 else 0, inp := if up then 0 else 1 }
    let r : List Hop := if cr then [{ link := { gx := gx, y := 0, out := if up then 6 else 5 }, cyc := c, cls := 0, inp := y }] else []
    let q := s.xHops up y n nx (c + if cr then 14 else 1) false
    (h :: r ++ q.1, q.2)

/-- The y leg from a row: n steps up or down, the first of a class and from an input, the others going on from their own direction. -/
def yHops (up : Bool) (gx : Nat) : Nat → Nat → Nat → Nat → Nat → List Hop × Nat × Nat
  | 0, y, c, _, _ => ([], y, c)
  | n + 1, y, c, cls, inp =>
    let h : Hop := { link := { gx := gx, y := y, out := if up then 3 else 2 }, cyc := c, cls := cls, inp := inp }
    let q := yHops up gx n (if up then y + 1 else y - 1) (c + 1) 0 (if up then 2 else 3)
    (h :: q.1, q.2)

/-- The whole route of a line injected in a cycle (R222, R223, R230): hops with their cycles, ejection included, and A_m. -/
def Mach.route (s : Mach) (a b inj : Nat) : List Hop × Nat :=
  let xr := s.xRoute (colGx a) (colGx b)
  let ya := rowOf a
  let yb := rowOf b
  let x := s.xHops xr.1 ya xr.2 (colGx a) inj true
  let dy := if ya ≤ yb then yb - ya else ya - yb
  let turn := if xr.2 != 0 && dy != 0 then 1 else 0
  let side := if xr.1 then 0 else 1
  let y := yHops (decide (ya ≤ yb)) (colGx b) dy ya (x.2.2 + turn) (if xr.2 = 0 then 2 else 1) side
  let inp := if dy != 0 then (if ya ≤ yb then 2 else 3) else if xr.2 != 0 then side else 4
  let ej : Hop := { link := { gx := colGx b, y := yb, out := 4 }, cyc := y.2.2, cls := if xr.2 = 0 ∧ dy = 0 then 2 else 0, inp := inp }
  (x.1 ++ y.1 ++ [ej], y.2.2 + (s.pads b).latency 6)

/-- A logical tile of the package on a die in service (R225). -/
def Mach.tileExists (s : Mach) (t : Nat) : Bool := decide (t < 7168) && s.part.dies.contains (dieOf t)

/-- A tile's row is unavailable (R30). -/
def Mach.unavail (s : Mach) (t : Nat) : Bool := bit ((s.die (dieOf t)).rowmap.get 0x3F (halfOf t * 28 + rowOf t)) 16

/-- The tiles a multicast descriptor reaches (R227). -/
def Mach.mcSet (s : Mach) (d : BitVec 128) : List Nat :=
  (upTo 7168).filter fun t =>
    s.tileExists t && !(s.unavail t) && bit d (96 + dieOf t) && bit d (100 + rowOf t) && bit d (32 + colX t)

/-! ## xc.send and xc.recv -/

/-- The acts of an xc.send of k lines (R229): line m is read through port 6, or from the accumulator file. -/
def sendActs (j : Job) (p : Ptr) (k : Nat) : List Act :=
  if bit j.q.w 14 then (upTo k).map fun m => j.act 6 (j.l + (j.q.pads.latency 5 - 1) + m) (.calc m)
  else (upTo k).map fun m => j.rdLine 6 (j.l + 1 + m) p m m

/-- Insert a message or line at the end of a list of the machine's lines in flight. -/
def Mach.launch (s : Mach) (ls : List XLine) : Mach := { s with flight := s.flight ++ ls }

/-- xc.send in cycle L (R225, R228, R229). -/
def Mach.runXcSend (s : Mach) (n : Nat) (j : Job) : Mach :=
  let w := j.q.w
  let t := s.tile n
  let dest := fld w 40 28
  let k := fld w 24 17 + 1
  let blk := fld w 13 11
  let src := bit w 14
  if src && (decide (2048 < blk * 256 + 8 * k) || (t.e7 j.env && decide (1024 < blk * 256 + 8 * k))) then
    s.updTile n fun t => t.fault 0x4F 1 6 j.q.pc j.l blk 0
  else if !(bit w 41) && !(s.tileExists dest) then s.updTile n fun t => t.fault 0x4F 2 6 j.q.pc j.l 0 dest
  else
    let p := t.ptr 6 (fld w 16 15)
    let t1 := if src then t else t.advPtr (bit w 0) 6 (fld w 16 15) k
    let t2 := (((t1.plan j.key (j.flow [] []) (sendActs j p k)).updEng 6 fun e => { e with accept := j.l + k }).finish j
      (j.l + (j.q.pads.latency 5 - 1) + k)).replay
    let dsts := if bit w 41 then s.mcSet (t.tab.mcast.get 0 (fld w 33 28)) else [dest]
    let lines := (upTo k).flatMap fun m => dsts.map fun d =>
      let inj := j.l + j.q.pads.latency 5 + m
      let rt := s.route n d inj
      let dd := if bit w 41 then fld w 33 28 else dest
      t2.sent { dst := d, sender := n, slot := fld w 27 25, idx := m, mc := bit w 41, dest := dd, data := zeroLine, inj := inj, arr := rt.2, hops := rt.1, key := j.key }
    let s1 := if t.tab.mcast.get 0 (fld w 33 28) != 0 && bit w 41 && t.badTab.contains (2 * 256 + fld w 33 28) then s.alarm 2 else s
    (s1.putTile n t2).launch lines

/-- xc.recv in cycle L (R226, R237). -/
def Tile.runXcRecv (t : Tile) (j : Job) : Tile :=
  let w := j.q.w
  let i := fld w 41 39
  let x := t.slots.get {} i
  let snd := fld w 28 16
  if x.armed then t.fault 0x44 2 6 j.q.pc j.l (snd + i * 2 ^ 16) x.sender
  else
    let k := fld w 36 29 + 1
    let x1 : RSlot := { armed := true, armedAt := j.l, ptr := t.ptr 6 (fld w 38 37), n := k, sender := snd, got := [], pc := j.q.pc, sig := iSig w
                        prev := some (x.armedAt, x.pc) }
    let t1 := { t with slots := t.slots.put i x1 }
    t1.advPtr (bit w 0) 6 (fld w 38 37) k

/-- The wait of an xc.send succeeds in a cycle (R229, R247): it is waiter 7 of its counter among those that can proceed; ext are the
hb. and hx. queues whose heads could leave. -/
def Tile.sendWait (t : Tile) (ext : List Nat) (ctr c : Nat) : Bool :=
  let l := t.lscs.get ({} : Lsc) ctr
  ((roundRobin l.rr (insSorted 7 (t.waiters ext ctr c))).take (t.freeCount ctr)).contains 7

/-- The fault of an xc.send that cannot leave in the cycle after its issue (R229): subcode, if any; c is that cycle. -/
def Tile.sendTiming (t : Tile) (ext : List Nat) (w : IWord) (c : Nat) : Option Nat :=
  let e := t.eng 6
  if !e.waiting.isEmpty || (e.leaves.any fun l => decide (c ≤ l)) then some 1
  else if decide (c < e.accept) then some 2
  else if iWaiten w && !(t.sendWait ext (iWaitctr w) c) then some 3
  else none

/-! ## Links (R234 to R236) -/

/-- Lines a ring link carries in one cycle, by the state of its two groups (R20, R234). -/
def Mach.ringCap (s : Mach) (d : Nat) (h1 : Bool) : Nat :=
  let one := fun (k : Nat) =>
    let f := ((s.die d).lanes.get [] k).length
    if f ≤ 4 then 8 else if f ≤ 36 then 4 else 0
  if h1 then one 6 + one 7 else one 4 + one 5

/-- The capacity of a link in a cycle. -/
def Mach.linkCap (s : Mach) (l : Link) : Nat :=
  if l.out = 5 then s.ringCap (l.gx / 64) false else if l.out = 6 then s.ringCap (l.gx / 64) true else 1

/-- The hop of a line over a link in a cycle. -/
def XLine.hopAt (x : XLine) (l : Link) (c : Nat) : Option Hop := x.hops.find? fun h => h.link == l && h.cyc == c

/-- Two lines in flight are copies of one line (R228). -/
def XLine.same (a b : XLine) : Bool := a.sender == b.sender && a.inj == b.inj

/-- The precedence of a hop (R235): class, then input; at a ring link the row alone. -/
def Hop.rank (h : Hop) : Nat := if 5 ≤ h.link.out then h.inp else 8 * h.cls + h.inp

/-- Insert a line by its rank at a link. -/
def insRank (r : Nat) (x : XLine) : List (Nat × XLine) → List (Nat × XLine)
  | [] => [(r, x)]
  | (q, y) :: t => if r < q then (r, x) :: (q, y) :: t else (q, y) :: insRank r x t

/-- The distinct lines that want a link in a cycle, highest precedence first. -/
def Mach.wants (s : Mach) (l : Link) (c : Nat) : List XLine :=
  let xs := s.flight.filterMap fun x => (x.hopAt l c).map fun h => (h.rank, x)
  let ds := xs.foldl (fun (a : List (Nat × XLine)) x => if a.any fun y => y.2.same x.2 then a else a ++ [x]) []
  (ds.foldl (fun a x => insRank x.1 x.2 a) []).map fun x => x.2

/-- The lines a link drops in a cycle. -/
def Mach.losers (s : Mach) (l : Link) (c : Nat) : List XLine := (s.wants l c).drop (s.linkCap l)

/-- A line loses at some link on its way while the other is in flight (DESIGN CHOICE, log entry 19). -/
def Mach.loses (s : Mach) (x : XLine) : Bool := x.hops.any fun h => (s.losers h.link h.cyc).any fun y => y.same x

/-- The physical column of a logical tile (R25). -/
def Mach.physCol (s : Mach) (d half row lcol : Nat) : Nat :=
  let f := fld ((s.die d).rowmap.get 0x3F (half * 28 + row)) 5 0
  if f ≤ lcol then lcol + 1 else lcol

/-- Record a dropped line on a die (CDC_XDROP, R235, R242): the first drop is recorded and raises the exchange-drop event, further ones set OVF. -/
def Mach.recordDrop (s : Mach) (d kind x y out winner : Nat) (l : XLine) : Mach :=
  let half := b2n (decide (32 ≤ x))
  let lc := if half = 0 then 31 - x else x - 32
  let w0 := mkWord [(31, 1), (28, kind), (24, half), (16, y), (8, s.physCol d half y lc), (0, out)]
  let w1 := mkWord [(16, winner), (0, l.sender)]
  let w2 := mkWord [(24, l.idx % 256), (16, l.slot), (13, b2n l.mc), (0, l.dest)]
  let di := s.die d
  if bit di.xdrop0 31 then
    s.updDie d fun z => { z with xdrop0 := z.xdrop0 ||| 0x40000000, xdropn := satTo 0xFFFF (z.xdropn + 1) }
  else
    (s.updDie d fun z => { z with xdrop0 := w0, xdrop1 := w1, xdrop2 := w2, xdropn := satTo 0xFFFF (z.xdropn + 1) }).raise (0x081 + 0x40 * d) w0 w1

/-- A router passes the lines a link carries in a cycle and drops the others (R235): a dropped line is lost on the branches that use the link. -/
def Mach.collide (s : Mach) (l : Link) (c : Nat) : Mach :=
  let ws := s.wants l c
  let cap := s.linkCap l
  let lose := ws.drop cap
  let winner := if cap = 0 then 0x1FFF else match ws.head? with | some x => x.sender | none => 0x1FFF
  let kind := if l.out = 4 then 1 else if 5 ≤ l.out then 2 else 0
  let s1 := lose.foldl (fun m x =>
    let y := if 5 ≤ l.out then rowOf x.sender else l.y
    m.recordDrop (l.gx / 64) kind (l.gx % 64) y l.out winner x) s
  { s1 with flight := s1.flight.filter fun x => !((lose.any fun y => y.same x) && (x.hopAt l c).isSome) }

/-! ## Arrival (R230 to R233, R237, R238) -/

/-- The k-th line in flight to a tile. -/
def Mach.lineTo (s : Mach) (n k : Nat) : Option XLine := (s.flight.filter fun x => x.dst == n)[k]?

/-- DATA0 of a line's faults (R238). -/
def XLine.data0 (x : XLine) : Nat := x.sender + x.slot * 2 ^ 16 + x.idx * 2 ^ 24

/-- The receive write of a line through port 6 in its arrival cycle (R230, R233). -/
def Tile.recvWrite (t : Tile) (x : XLine) (sl : RSlot) : Tile :=
  { t with base := some t.start0
           acts := insAct { cyc := x.arr, cmd := 16 * x.arr + 9, who := { eng := 6, pc := sl.pc, port := 6 },
                            eff := .recv sl.ptr (8 * (sl.ptr.loff + x.idx)) x.data0 x.data } t.acts }

/-- The fault of a line that a receiver does not accept (R231, R237): cause, subcode and DATA1, in the order of R237. -/
def Tile.lineRefused (t : Tile) (x : XLine) (sl : RSlot) : Option (Nat × Nat × Nat) :=
  let inPhase := t.tsq.phase == .exchange && (match t.tm.relAt with
    | some r => decide (r + t.tm.xguard ≤ x.arr) && decide (x.arr < r + t.phaseEnd) | none => false)
  if !inPhase then some (0x45, 0, 0)
  else if !(sl.armed && decide (sl.armedAt ≤ x.arr)) then some (0x42, 0, 0)
  else if x.sender != sl.sender then some (0x43, 0, sl.sender)
  else if decide (sl.n ≤ x.idx) then some (0x44, 1, 0)
  else if sl.got.contains x.idx then some (0x44, 3, 0)
  else none

/-- The PC of the xc.recv that armed a slot for a cycle of the phase that began at rel, or 0 (R238). -/
def RSlot.armer (sl : RSlot) (rel c : Nat) : Nat :=
  if decide (rel ≤ sl.armedAt) && decide (sl.armedAt ≤ c) then sl.pc
  else match sl.prev with
    | some (a, pc) => if decide (rel ≤ a) && decide (a ≤ c) then pc else 0
    | none => 0

/-- A line accepted into its slot: written, and the slot disarms and completes with its last line. -/
def Tile.acceptLine (t : Tile) (x : XLine) (sl : RSlot) : Tile :=
  let got := insSorted x.idx sl.got
  let full := got.length == sl.n
  let t1 := t.recvWrite x sl
  let t2 := { t1 with slots := t1.slots.put x.slot { sl with got := got, armed := !full } }
  let t3 := if full then t2.updEng 6 fun e =>
      { e with running := e.running ++ [{ done := x.arr + 1, sig := sl.sig }], lastDone := max e.lastDone (x.arr + 1) }
    else t2
  t3.replay

/-- A compiled line reaches its receiver (R237), the tag and data in a given state. -/
def Mach.lineArrives (s : Mach) (n k : Nat) (q : LineQuality) : Mach :=
  match s.lineTo n k with
  | none => s
  | some x =>
    if s.loses x then s
    else
      let s0 := { s with flight := s.flight.erase x }
      let t := s.tile n
      let sl := t.slots.get {} x.slot
      let d0 := x.data0
      let pc := sl.armer (t.tm.relAt.getD 0) x.arr
      if q == .tagParity then s0.updTile n fun t => t.fault 0x47 0 6 pc x.arr 0 0
      else if !(t.tsq.inJob) then s0.recordDrop (dieOf n) 3 (colX n) (rowOf n) 4 0x1FFF x
      else if t.faultedAt x.arr then s0
      else match t.lineRefused x sl with
        | some (c, sub, d1) => s0.updTile n fun t => t.fault c sub 6 pc x.arr d0 d1
        | none =>
          let y := if q == .uncorrectable then { x with data := zeroLine } else x
          let a := sl.ptr.base + 8 * (sl.ptr.loff + x.idx)
          let t1 := t.acceptLine y sl
          let t2 := if q == .uncorrectable then t1.fault 0x17 0 6 sl.pc x.arr a 0 else t1
          s0.putTile n (if q == .singleBit then t2.eccSeen (eccOf a) false 1 else if q == .uncorrectable then t2.eccSeen (eccOf a) true 1 else t2)

end Sys2Proof.Machine
end

