-- ==== Sys2Proof/Machine/Channels.lean ====
section
/-! DEFINITION. Channels (R261 to R279, R530): ring records and combining contributions, their senders, receivers and notices. Accesses of the XIF and the
combiner are yielding: each takes the first cycle that is free for it (R83, log entry 21). -/

namespace Sys2Proof.Machine

/-! ## Tables -/

/-- Receive queue entry. -/
def Tile.rqe (t : Tile) (q : Nat) : BitVec 64 := t.tab.rqe.get 0 q
/-- Send channel entry. -/
def Tile.sce (t : Tile) (c : Nat) : BitVec 64 := t.tab.sce.get 0 c
/-- Run-time state of a receive queue. -/
def Tile.rq (t : Tile) (q : Nat) : RecvQ := t.rqs.get {} q
/-- Run-time state of a send channel. -/
def Tile.sc (t : Tile) (c : Nat) : SendCh := t.scs.get {} c
/-- Change a receive queue. -/
def Tile.updRq (t : Tile) (q : Nat) (f : RecvQ → RecvQ) : Tile := { t with rqs := SMap.upd {} t.rqs q f }
/-- Change a send channel. -/
def Tile.updSc (t : Tile) (c : Nat) (f : SendCh → SendCh) : Tile := { t with scs := SMap.upd {} t.scs c f }

/-- Size of a queue in words (R261). -/
def rqSize (e : BitVec 64) : Nat := 2 ^ (fld e 61 58 + 8)
/-- First word of a queue. -/
def rqBase (e : BitVec 64) : Nat := 8 * fld e 57 43
/-- OPEN = 1 with an LSIZE that stands (R261). -/
def rqOpens (e : BitVec 64) : Bool := bit e 63 && decide (fld e 61 58 ≤ 8)
/-- KIND 1: combining. -/
def rqComb (e : BitVec 64) : Bool := bit e 62
/-- Elements per slot. -/
def rqLen (e : BitVec 64) : Nat := 16 * (fld e 33 24 + 1)
/-- Slots. -/
def rqSlots (e : BitVec 64) : Nat := fld e 37 34 + 1
/-- First word of a slot (R272). -/
def slotBase (e : BitVec 64) (s : Nat) : Nat := rqBase e + s * (8 + 10 * rqLen e)

/-- Note a table entry whose check fails on use (R413). -/
def Tile.useTab (t : Tile) (kind i : Nat) : Tile := if t.badTab.contains (256 * kind + i) then { t with almTbl := true } else t

/-! ## Accesses of the XIF and the combiner (R530) -/

/-- Read n words of a line in the first free cycle from c on: zero words and alarm CHAN where a word is uncorrectable or its segment not on; and the cycle from which the
next access may follow. -/
def Tile.xifRead (t : Tile) (a n c : Nat) : List Word × Nat × Tile :=
  if t.segOn a then
    match t.yieldRead 6 a n c with
    | (some ws, y, t1) => (ws, y + 1, t1)
    | (none, y, t1) => (List.replicate n 0, y + 1, { t1 with almChan := true })
  else (List.replicate n 0, c, { t with almChan := true })

/-- A write of words has its cycle, the first free one from c on: dropped, with alarm CHAN, where the segment is not on. -/
def Tile.xifAt (t : Tile) (a : Nat) (ws : List Word) (c : Nat) : Nat × Tile :=
  if t.segOn a then let r := t.yieldAt 6 a ws c; (r.1 + 1, r.2) else (c, { t with almChan := true })

/-- Read n lines from a word address, from cycle c on. -/
def xifLines (a : Nat) : Nat → Nat → Tile → List (List Word) × Nat × Tile
  | 0, c, t => ([], c, t)
  | n + 1, c, t =>
    let r := t.xifRead a 8 c
    let q := xifLines (a + 8) n r.2.1 r.2.2
    (r.1 :: q.1, q.2)

/-- Writes of lines from a word address have their cycles, from cycle c on. -/
def xifGo (a : Nat) : List (List Word) → Nat → Tile → Nat × Tile
  | [], c, t => (c, t)
  | x :: r, c, t => let q := t.xifAt a x c; xifGo (a + 8) r q.1 q.2

/-- Write lines from a word address, from cycle c on. -/
def xifPut (a : Nat) (ls : List (List Word)) (c : Nat) (t : Tile) : Nat × Tile := let r := xifGo a ls c t; (r.1, r.2.replay)

/-- The first breach of R86 over n lines of a pointer (R530). -/
def Tile.chanBreach (t : Tile) (p : Ptr) (n : Nat) (wr : Bool) : Option (Nat × Nat × Nat) :=
  ((upTo n).filterMap fun m => p.refusal t.cfg.seg (8 * (p.loff + m)) 8 wr).head?

/-! ## Conditions at issue (R265, R266) -/

/-- A channel whose commands raise the channel command fault (R262, R277 SUB 1) (DEDUCED, log entry 25). -/
def Mach.chanBad (s : Mach) (n ch : Nat) (comb : Bool) : Bool :=
  let e := (s.tile n).sce ch
  let dt := fld e 53 41
  !(bit e 63) || bit e 62 != comb ||
    (fld e 61 54 == s.pkgIdx && !(s.tileExists dt && !(s.unavail dt) && (s.tile dt).tsq.inJob))

/-- What R266 decides for a record of need words: 0 it exceeds the queue, 1 it is written at the tail, 2 a pad is written first, 3 it holds. -/
def SendCh.place (c : SendCh) (size need : Nat) : Nat :=
  if size < need then 0
  else if need ≤ size - c.tail then (if need ≤ c.credit then 1 else 3)
  else if size - c.tail ≤ c.credit then 2
  else 3

/-- Channel commands that occupy the buffer of 4 in a cycle (R265). -/
def Tile.chanOcc (t : Tile) (c : Nat) : Nat :=
  ((t.eng 16).running.filter fun r => decide (c < r.done)).length + (t.scs.foldl (fun a x => a + x.2.out.length) 0) +
    ((t.eng 6).waiting.filter fun q => isBlocking q.w).length

/-- The xc. queue has a place in cycle c (R42, R44). -/
def Tile.xcRoom (t : Tile) (c : Nat) : Bool := (t.eng 6).roomAt 16 c == some c

/-- A channel command that waits for a counter in the xc. queue uses the channel or queue that this one uses: it goes first (R268) (log entry 59). -/
def Tile.chanBehind (t : Tile) (w : IWord) : Bool :=
  let obj := fun (x : IWord) => if iOp x = 0x20 ∨ iOp x = 0x24 then fld x 41 37 else fld x 41 38
  !(iWaiten w) && (t.eng 6).waiting.any fun x => iOp x.w == iOp w && obj x.w == obj w

/-- Channel commands of an OP on receive queue q that wait for a counter in the xc. queue (log entry 59). -/
def Tile.ahead (t : Tile) (op q : Nat) : Nat := ((t.eng 6).waiting.filter fun x => iOp x.w == op && fld x.w 41 38 == q).length

/-- A send channel as the xc.csend commands that wait for a counter in the xc. queue will leave it (log entry 59). -/
def Tile.chanAhead (t : Tile) (ch : Nat) : SendCh :=
  ((t.eng 6).waiting.filter fun x => iOp x.w == 0x20 && fld x.w 41 37 == ch).foldl (fun c x =>
    let need := 8 * (fld x.w 34 24 + 2)
    if fld (t.sce ch) 36 20 < need then c else { c with tail := (c.tail + need) % fld (t.sce ch) 36 20, credit := c.credit - need }) (t.sc ch)

/-- A blocking channel operation need not hold at issue (R265, R269): its condition holds, with what earlier commands of the xc. queue take set apart, or it
faults. -/
def Mach.chanReady (s : Mach) (n : Nat) (w : IWord) : Bool :=
  let t := s.tile n
  !(t.chanBehind w) && match iOp w with
  | 0x20 =>
    let ch := fld w 41 37
    let c := t.chanAhead ch
    s.chanBad n ch false || c.closed ||
      (let p := c.place (fld (t.sce ch) 36 20) (8 * (fld w 34 24 + 2)); p == 0 || p == 1)
  | 0x21 =>
    let q := fld w 41 38
    rqComb (t.rqe q) || decide (t.ahead 0x21 q < ((t.rq q).recs.filter fun r => !r.pad).length)
  | 0x24 => true
  | 0x25 =>
    let q := fld w 41 38
    let r := t.rq q
    let seq := (r.rseq + t.ahead 0x25 q) % 2 ^ 16
    !(rqComb (t.rqe q)) || r.slots.any fun x => x.2.1 == seq && x.2.2.1 == 2
  | _ => true

/-- xc.csend or xc.cadd on a channel already marked closed: it holds for nothing (R269). -/
def Mach.chanClosed (s : Mach) (n : Nat) (w : IWord) : Bool := (iOp w == 0x20 || iOp w == 0x24) && ((s.tile n).sc (fld w 41 37)).closed

/-! ## Sending -/

/-- The message of a channel of tile n. -/
def Mach.chanMsg (s : Mach) (n ch : Nat) (k : MsgKind) : Msg :=
  let e := (s.tile n).sce ch
  { kind := k, spkg := s.pkgIdx, stile := n, ch := ch, dpkg := fld e 61 54, dtile := fld e 53 41, dq := fld e 40 37 }

/-- Write a pad at the ring's tail (R266). -/
def Mach.writePad (s : Mach) (n ch : Nat) : Mach :=
  let t := s.tile n
  let c := t.sc ch
  let room := fld (t.sce ch) 36 20 - c.tail
  let s1 := s.sendMsg { s.chanMsg n ch .pad with words := room }
  s1.updTile n fun t => t.updSc ch fun c => { c with tail := 0, credit := c.credit - room }

/-- While an xc.csend holds, the pad that R266 writes first is written as soon as credit allows. -/
def Mach.tryPad (s : Mach) (n : Nat) (w : IWord) : Mach :=
  let t := s.tile n
  let ch := fld w 41 37
  if iOp w = 0x20 && !(s.chanBad n ch false) && !(t.sc ch).closed && (t.eng 6).waiting.all (fun x => !(iOp x.w == 0x20 && fld x.w 41 37 == ch)) &&
      (t.sc ch).place (fld (t.sce ch) 36 20) (8 * (fld w 34 24 + 2)) == 2 then s.writePad n ch
  else s

/-- A channel command's completion entry. -/
def Tile.chanDone (t : Tile) (key : Nat) (w : IWord) (done : Nat) : Tile :=
  t.updEng key fun e => { e with running := e.running ++ [{ done := done, sig := iSig w }], lastDone := max e.lastDone done }

/-- xc.csend in cycle L, with its condition met (R266, R277, R530). -/
def Mach.runCsend (s : Mach) (n : Nat) (w : IWord) (pc l : Nat) : Mach :=
  let ch := fld w 41 37
  let k := fld w 34 24 + 1
  let need := 8 * (k + 1)
  let s0 := s.updTile n fun t => t.useTab 4 ch
  let t := s0.tile n
  let e := t.sce ch
  let c := t.sc ch
  if s0.chanBad n ch false then s0.updTile n fun t => t.fault 0x49 1 6 pc l ch 0
  else if fld e 36 20 < need then s0.updTile n fun t => t.fault 0x49 2 6 pc l ch 0
  else if c.closed then s0.updTile n fun t => t.fault 0x4A 0 6 pc l ch c.seq
  else
    let p := t.ptr 6 (fld w 36 35)
    match t.chanBreach p k false with
    | some (cause, d0, d1) => s0.updTile n fun t => t.fault cause 0 6 pc l d0 d1
    | none =>
      let r := xifLines (p.base + 8 * p.loff) k (l + 1) t
      let t1 := (r.2.2.advPtr (bit w 0) 6 (fld w 36 35) k).chanDone 16 w r.2.1
      let t2 := t1.updSc ch fun c => { c with tail := (c.tail + need) % fld e 36 20, credit := c.credit - need, seq := (c.seq + 1) % 2 ^ 16 }
      (s0.putTile n t2).sendMsg { s0.chanMsg n ch .record with lines := r.1, seq := c.seq, tag := fld w 23 8, words := need, pc := pc }

/-- xc.cadd in cycle L (R273, R277, R530). -/
def Mach.runCadd (s : Mach) (n : Nat) (w : IWord) (pc l : Nat) : Mach :=
  let ch := fld w 41 37
  let k := fld w 34 24 + 1
  let s0 := s.updTile n fun t => t.useTab 4 ch
  let t := s0.tile n
  let c := t.sc ch
  let p := t.ptr 6 (fld w 36 35)
  if s0.chanBad n ch true then s0.updTile n fun t => t.fault 0x49 1 6 pc l ch 0
  else if c.closed then s0.updTile n fun t => t.fault 0x4A 0 6 pc l ch c.seq
  else if p.ok && p.fmt != 0 && p.fmt != 2 then s0.updTile n fun t => t.fault 0x49 3 6 pc l ch 0
  else match t.chanBreach p k false with
    | some (cause, d0, d1) => s0.updTile n fun t => t.fault cause 0 6 pc l d0 d1
    | none =>
      let r := xifLines (p.base + 8 * p.loff) k (l + 1) t
      let es := lineElems p.fmt r.1
      let x : Contrib := { q := c.seq, elems := es, fmt := p.fmt, pc := pc, sig := iSig w, refusedAt := none }
      let t1 := (r.2.2.advPtr (bit w 0) 6 (fld w 36 35) k).updSc ch fun c => { c with seq := (c.seq + 1) % 2 ^ 16, out := c.out ++ [x] }
      (s0.putTile n t1).sendMsg { s0.chanMsg n ch .contrib with elems := es, seq := c.seq, tag := p.fmt, lines := r.1, pc := pc }

/-! ## Receiving a ring (R263, R267 to R269, R278) -/

/-- Return credit for words of a record to its sender. -/
def Mach.credit (s : Mach) (n q : Nat) (r : RingRec) : Mach :=
  let e := (s.tile n).rqe q
  s.sendMsg { kind := .credit, spkg := fld e 37 30, stile := fld e 29 17, ch := r.ch, dpkg := s.pkgIdx, dtile := n, dq := q, words := 8 * r.rlines }

/-- Free the pads that stand at the head of a ring (R267). -/
def Mach.freePads (s : Mach) (n q : Nat) : Mach :=
  let rs := ((s.tile n).rq q).recs
  let pads := rs.takeWhile fun r => r.pad
  if pads.isEmpty then s
  else
    let s1 := s.updTile n fun t => t.updRq q fun x => { x with recs := x.recs.dropWhile fun r => r.pad }
    pads.foldl (fun m r => m.credit n q r) s1

/-- The header line of a record or pad (R263). -/
def recHeader (m : Msg) (rlines : Nat) : List Word :=
  let pad := m.kind == .pad
  [mkWord [(31, b2n pad), (0, rlines)], mkWord [(0, m.stile % 2 ^ 13), (16, m.spkg)],
   BitVec.ofNat 32 (if pad then 0 else m.seq), BitVec.ofNat 32 (if pad then 0 else m.tag), 0, 0, 0, 0]

/-- A record or pad reaches its receive queue (R262, R263, R268, R269, R277, R278). The PC in the record of the receiver's channel-sender fault, which no
command of that tile raises, is free (log entry 15). -/
def Mach.recordArrives (s : Mach) (m : Msg) : Mach :=
  let n := m.dtile
  let q := m.dq
  let pad := m.kind == .pad
  let rl := m.words / 8
  let rr : RingRec := { off := 0, rlines := rl, pad := pad, seq := m.seq, ch := m.ch }
  let here := s.tileExists n && !(s.unavail n) && (s.tile n).tsq.inJob
  let s0 := if here then s.updTile n fun t => t.useTab 3 q else s
  let t := s0.tile n
  let e := t.rqe q
  if here && t.faultedAt s0.clk.aclk then s0.credit n q rr
  else if !here || !(t.rq q).opn || rqComb e then
    (if pad then s0 else (s0.chanDrop m).sendMsg { m with kind := .drop, lines := [] })
  else if m.stile != fld e 29 17 || m.spkg != fld e 37 30 then
    let r := s0.freeWords 1
    r.2.updTile n fun t => t.fault 0x4B 0 6 ((r.1.getD 0 0).toNat % 2 ^ 17) s0.clk.aclk (m.stile % 2 ^ 13 + m.spkg * 2 ^ 16) q
  else
    let x := t.rq q
    let a := rqBase e + x.tail
    let r := xifPut (a + 8) (if pad then [] else m.lines) s0.clk.aclk t
    let t2 := (xifPut a [recHeader m rl] r.1 r.2).2
    let t3 := t2.updRq q fun y => { y with tail := (y.tail + m.words) % rqSize e, recs := y.recs ++ [{ rr with off := x.tail }] }
    let t4 := if bit e 42 && !pad then t3.signal (fld e 41 38) (2 * 2 ^ 13 + q) s0.clk.aclk else t3
    (s0.putTile n t4).freePads n q

/-- xc.crecv in cycle L, with its condition met (R267, R277, R530). -/
def Mach.runCrecv (s : Mach) (n : Nat) (w : IWord) (pc l : Nat) : Mach :=
  let q := fld w 41 38
  let mx := fld w 35 25 + 1
  let s0 := s.updTile n fun t => t.useTab 3 q
  let t := s0.tile n
  let e := t.rqe q
  let p := t.ptr 6 (fld w 37 36)
  if rqComb e then s0.updTile n fun t => t.fault 0x49 4 6 pc l q 0
  else match t.chanBreach p (mx + 1) true with
    | some (cause, d0, d1) => s0.updTile n fun t => t.fault cause 0 6 pc l d0 d1
    | none =>
      match (t.rq q).recs with
      | [] => s0.updTile n fun t => t.chanDone 16 w l
      | r :: _ =>
        let k := r.rlines - 1
        let got := xifLines (rqBase e + r.off) (1 + min k mx) (l + 1) t
        let ls := got.1 ++ List.replicate (mx - min k mx) zeroLine
        let put := xifPut (p.base + 8 * p.loff) ls got.2.1 got.2.2
        let t2 := (put.2.advPtr (bit w 0) 6 (fld w 37 36) (mx + 1)).chanDone 16 w put.1
        let t3 := t2.updRq q fun y => { y with recs := y.recs.drop 1 }
        let t4 := if mx < k then t3.fault 0x4C 0 6 pc l (q + r.rlines * 2 ^ 16) (mx - 1) else t3
        ((s0.putTile n t4).credit n q r).freePads n q

/-- Close a receive queue (R269): its unread records are discarded, and a ring's sender is told. -/
def Mach.closeQueue (s : Mach) (n q : Nat) : Mach :=
  let t := s.tile n
  let e := t.rqe q
  if !(t.rq q).opn then s
  else
    let s1 := s.updTile n fun t => t.updRq q fun y => { y with opn := false, recs := [], slots := [] }
    if rqComb e then s1
    else s1.sendMsg { kind := .close, spkg := fld e 37 30, stile := fld e 29 17, ch := 0, dpkg := s.pkgIdx, dtile := n, dq := q }

/-- Close every queue of a tile. -/
def Mach.closeAll (s : Mach) (n : Nat) : Mach := (upTo 16).foldl (fun m q => m.closeQueue n q) s

/-! ## Combining queues (R272 to R278) -/

/-- A combining accumulator: the exact sum in units of 2^-149 and the flags NAN, PINF, NINF, NZ. -/
structure CAcc where
  sum : Int := 0
  nan : Bool := false
  pinf : Bool := false
  ninf : Bool := false
  nz : Bool := false
  deriving DecidableEq, Repr

/-- The ten words of an accumulator (R272). -/
def CAcc.words (c : CAcc) : List Word :=
  let n := uintOf 316 c.sum + b2n c.nz * 2 ^ 316 + b2n c.ninf * 2 ^ 317 + b2n c.pinf * 2 ^ 318 + b2n c.nan * 2 ^ 319
  (upTo 10).map fun i => BitVec.ofNat 32 (n / 2 ^ (32 * i))

/-- The accumulator of ten words. -/
def CAcc.ofWords (ws : List Word) : CAcc :=
  let n := (numbered ws).foldl (fun a x => a + x.2.toNat * 2 ^ (32 * x.1)) 0
  { sum := sint 316 (n % 2 ^ 316), nz := n.testBit 316, ninf := n.testBit 317, pinf := n.testBit 318, nan := n.testBit 319 }

/-- Apply an input element (R274). -/
def CAcc.apply (c : CAcc) (v : FVal) : CAcc :=
  match v with
  | .nan _ => { c with nan := true }
  | .inf s => if s then { c with ninf := true } else { c with pinf := true }
  | .fin s m e => { c with sum := c.sum + sig s (shiftI m (e + 149)), nz := c.nz || !(s && m == 0) }

/-- Read out an accumulator in format f (R275). -/
def CAcc.readOut (c : CAcc) (nc : NumCfg) (f : Nat) : Nat × NFlags :=
  match fkind f with
  | .fp p =>
    if c.nan || (c.pinf && c.ninf) then (p.nanCode false, { cnt := 1 })
    else if c.pinf then (p.infCode false, { cnt := 1 })
    else if c.ninf then (p.infCode true, { cnt := 1 })
    else if c.sum = 0 then (p.codeOf (!c.nz) 0 p.emin, {})
    else p.round (nc.flushed f) none (.fin (decide (c.sum < 0)) c.sum.natAbs (-149))
  | _ => (0, {})

/-- Words cut into pieces of k. -/
def chunks (k : Nat) (ws : List Word) : List (List Word) := (upTo (cdiv ws.length k)).map fun i => (ws.drop (k * i)).take k

/-- Add elements to the accumulators of a slot that start at word a, whole lines at a time, from cycle c on (R276, R530); the first contribution writes instead of adding. -/
def addElems (f : Nat) (first : Bool) (a : Nat) (es : List Nat) (c : Nat) (t : Tile) : Nat × Tile :=
  let r := if first then (List.replicate (10 * es.length / 8) zeroLine, c, t) else xifLines a (10 * es.length / 8) c t
  let vs := es.map fun x => operand t.cfg.num f x
  let cs := (vs.zip (chunks 10 r.1.flatten)).map fun x => (CAcc.ofWords x.2).apply x.1.1
  xifPut a (chunks 8 (cs.flatMap fun c => c.words)) r.2.1 (r.2.2.flagOnly (vs.foldl (fun fl v => fl.or v.2) {}))

/-- Serial distance of a sequence from RSEQ, 16 bits. -/
def seqDist (q rseq : Nat) : Nat := (q + 2 ^ 16 - rseq % 2 ^ 16) % 2 ^ 16

/-- The header line of a slot (R272). -/
def slotHeader (seq st cnt : Nat) : List Word := [mkWord [(0, seq % 2 ^ 16), (16, st)], BitVec.ofNat 32 (cnt % 2 ^ 12), 0, 0, 0, 0, 0, 0]

/-- Answer a contribution (DEDUCED, log entry 55). -/
def Mach.answer (s : Mach) (m : Msg) (k : MsgKind) : Mach := s.sendMsg { m with kind := k, elems := [], lines := [] }

/-- A contribution reaches its combining queue (R262, R269, R273 to R278). -/
def Mach.contribArrives (s : Mach) (m : Msg) : Mach :=
  let n := m.dtile
  let q := m.dq
  let here := s.tileExists n && !(s.unavail n) && (s.tile n).tsq.inJob
  let s0 := if here then s.updTile n fun t => t.useTab 3 q else s
  let t := s0.tile n
  let e := t.rqe q
  let x := t.rq q
  if here && t.faultedAt s0.clk.aclk then s0.answer m .accept
  else if !here || !x.opn || !(rqComb e) then (s0.chanDrop m).answer m .drop
  else if m.elems.length != rqLen e then s0.answer m (.reject 1)
  else
    let d := seqDist m.seq x.rseq
    if 2 ^ 15 ≤ d then s0.answer m (.reject 2)
    else if rqSlots e ≤ d then s0.answer m .refuse
    else
      let sl := m.seq % rqSlots e
      match x.slots.find? fun y => y.1 == sl with
      | some (_, _, 2, _) => s0.answer m (.reject 3)
      | cur =>
        let old := match cur with | some (_, _, _, k) => k | none => 0
        let k := old + 1
        let st := if fld e 23 12 ≤ k then 2 else 1
        let r := addElems m.tag cur.isNone (slotBase e sl + 8) m.elems s0.clk.aclk t
        let t2 := (xifPut (slotBase e sl) [slotHeader m.seq st k] r.1 r.2).2
        let t3 := t2.updRq q fun y => { y with slots := (y.slots.filter fun z => z.1 != sl) ++ [(sl, m.seq, st, k)] }
        let t4 := if st = 2 && bit e 42 then t3.signal (fld e 41 38) (2 * 2 ^ 13 + q) s0.clk.aclk else t3
        (s0.putTile n t4).answer m .accept

/-- Read out the n accumulators of a slot that start at word a, whole lines at a time, from cycle c on (R275, R276, R530): each element's code, and the flags of all. -/
def slotElems (nc : NumCfg) (f : Nat) (a n c : Nat) (t : Tile) : List Nat × Nat × Tile :=
  let r := xifLines a (10 * n / 8) c t
  let xs := (chunks 10 r.1.flatten).map fun ws => (CAcc.ofWords ws).readOut nc f
  (xs.map fun x => x.1, r.2.1, r.2.2.flag (xs.foldl (fun fl x => fl.or x.2) {}))

/-- xc.cread in cycle L, with its condition met (R275, R277, R530). -/
def Mach.runCread (s : Mach) (n : Nat) (w : IWord) (pc l : Nat) : Mach :=
  let q := fld w 41 38
  let s0 := s.updTile n fun t => t.useTab 3 q
  let t := s0.tile n
  let e := t.rqe q
  let p := t.ptr 6 (fld w 37 36)
  let f := p.fmt
  let k := rqLen e / (if f = 2 then 16 else 8)
  if !(rqComb e) then s0.updTile n fun t => t.fault 0x49 4 6 pc l q 0
  else if p.ok && f != 0 && f != 2 then s0.updTile n fun t => t.fault 0x49 3 6 pc l q 0
  else match t.chanBreach p k true with
    | some (cause, d0, d1) => s0.updTile n fun t => t.fault cause 0 6 pc l d0 d1
    | none =>
      let x := t.rq q
      let sl := x.rseq % rqSlots e
      let r := slotElems t.cfg.num f (slotBase e sl + 8) (rqLen e) (l + 1) t
      let z := xifPut (slotBase e sl + 8) (List.replicate (10 * rqLen e / 8) zeroLine) r.2.1 r.2.2
      let o := xifPut (p.base + 8 * p.loff) (packLines f r.1) z.1 z.2
      let t2 := (xifPut (slotBase e sl) [zeroLine] o.1 o.2).2
      let t3 := t2.updRq q fun y => { y with rseq := (y.rseq + 1) % 2 ^ 16, slots := y.slots.filter fun z => z.1 != sl }
      let t4 := (t3.advPtr (bit w 0) 6 (fld w 37 36) k).chanDone 16 w o.1
      s0.putTile n t4

/-- xc.qclose in cycle L (R265, R269). -/
def Mach.runQclose (s : Mach) (n : Nat) (w : IWord) (l : Nat) : Mach :=
  (s.closeQueue n (fld w 41 38)).updTile n fun t => t.chanDone 17 w l

/-! ## Answers at the sender -/

/-- The first message of a kind for a channel of a tile. -/
def Mach.msgFor (s : Mach) (n ch : Nat) (f : MsgKind → Bool) : Option Msg :=
  s.msgs.find? fun m => f m.kind && m.stile == n && m.ch == ch && (m.spkg == s.pkgIdx || m.spkg == 0xFF)

/-- Take a message away. -/
def Mach.dropMsg (s : Mach) (m : Msg) : Mach := { s with msgs := s.msgs.erase m }

/-- Refusals and rejections that have reached their senders (R273, R277). -/
def Mach.settle (s : Mach) : Mach :=
  s.msgs.foldl (fun m x =>
    match x.kind with
    | .refuse => if x.spkg = m.pkgIdx then
        (m.dropMsg x).updTile x.stile fun t => t.updSc x.ch fun c =>
          { c with out := c.out.map fun o => if o.q == x.seq then { o with refusedAt := some m.clk.aclk } else o }
      else m
    | .reject sub => if x.spkg = m.pkgIdx then
        let pc := (((m.tile x.stile).sc x.ch).out.find? fun o => o.q == x.seq).elim 0 fun o => o.pc
        (m.dropMsg x).updTile x.stile fun t =>
          (t.updSc x.ch fun c => { c with out := c.out.filter fun o => o.q != x.seq }).fault 0x4D sub 6 pc m.clk.aclk x.ch x.seq
      else m
    | _ => m) s

/-- Resend the first refused contribution of a channel (R273). -/
def Mach.resend (s : Mach) (n ch : Nat) : Mach :=
  let c := (s.tile n).sc ch
  match c.out.find? fun o => o.refusedAt.isSome with
  | none => s
  | some o =>
    let s1 := s.updTile n fun t => t.updSc ch fun c => { c with out := c.out.map fun x => if x.q == o.q then { x with refusedAt := none } else x }
    s1.sendMsg { s1.chanMsg n ch .contrib with elems := o.elems, seq := o.q, tag := o.fmt, lines := packLines o.fmt o.elems, pc := o.pc }

/-- The receiver's acceptance reaches the sender, and xc.cadd completes (R265). -/
def Mach.accepted (s : Mach) (n ch : Nat) : Mach :=
  match s.msgFor n ch fun k => k == .accept with
  | none => s
  | some m =>
    let c := (s.tile n).sc ch
    let s1 := s.dropMsg m
    match c.out.find? fun o => o.q == m.seq with
    | none => s1
    | some o => s1.updTile n fun t =>
        let t1 := t.updSc ch fun c => { c with out := c.out.erase o }
        match o.sig with
        | some k => t1.signal k (2 ^ 13 + 6) s.clk.aclk
        | none => t1

/-- The word of the main context (the drain point of R265 that it may hold at). -/
def Tile.mainWord (t : Tile) : IWord := { t with tsq := { t.tsq with mode := .off } }.tsqWord

/-- The main context holds at a blocking channel operation. -/
def Tile.mainChan (t : Tile) : Bool := match t.tsq.main.hold with | .chan _ => true | _ => false

/-- The condition of the blocking channel operation that the main context holds at. -/
def Mach.mainChanReady (s : Mach) (n : Nat) : Bool :=
  let t := s.tile n
  let c := t.issueCyc s.clk.aclk
  t.mainChan && (s.chanClosed n t.mainWord || (s.chanReady n t.mainWord && decide (t.chanOcc c < 4) && t.xcRoom c))

/-- A credit return reaches its sender (R266): a pad that a held xc.csend waits to write is written. -/
def Mach.creditArrives (s : Mach) (n ch : Nat) : Mach :=
  match s.msgFor n ch fun k => k == .credit with
  | none => s
  | some m =>
    let s1 := s.dropMsg m
    if m.spkg = 0xFF then
      { s1 with qch := SMap.upd {} s1.qch ch fun c => { c with credit := c.credit + m.words } }
    else
      let s2 := s1.updTile n fun t => t.updSc ch fun c => { c with credit := c.credit + m.words }
      let t := s2.tile n
      if t.mainChan && fld t.mainWord 41 37 == ch then s2.tryPad n t.mainWord else s2

/-- A close notice reaches the sender (R269): the channels of this tile whose entry names the queue close. -/
def Mach.closeArrives (s : Mach) (n ch : Nat) : Mach :=
  let hit := s.msgs.find? fun m => m.kind == .close && m.stile == n && (m.spkg == s.pkgIdx || m.spkg == 0xFF) &&
    (m.spkg == 0xFF || (let e := (s.tile n).sce ch; fld e 61 54 == m.dpkg && fld e 53 41 == m.dtile && fld e 40 37 == m.dq))
  match hit with
  | none => s
  | some m =>
    let s1 := s.dropMsg m
    if m.spkg = 0xFF then { s1 with qch := SMap.upd {} s1.qch ch fun c => { c with closed := true } }
    else s1.updTile n fun t => t.updSc ch fun c => { c with closed := true }

/-- A drop notice reaches the sender, which faults (R269). -/
def Mach.dropArrives (s : Mach) (n ch : Nat) : Mach :=
  match s.msgFor n ch fun k => k == .drop with
  | none => s
  | some m =>
    let s1 := s.dropMsg m
    if m.spkg = 0xFF then s1
    else s1.updTile n fun t =>
      (t.updSc ch fun c => { c with out := c.out.filter fun o => o.q != m.seq }).fault 0x4A 0 6 m.pc s.clk.aclk ch m.seq

/-! ## Issue of channel operations (R45, R265) -/

/-- A channel command from its leave cycle on. -/
def Mach.runChan (s : Mach) (n : Nat) (w : IWord) (pc l : Nat) : Mach :=
  match iOp w with
  | 0x20 => s.runCsend n w pc l
  | 0x21 => s.runCrecv n w pc l
  | 0x22 => s.runQclose n w l
  | 0x24 => s.runCadd n w pc l
  | _ => s.runCread n w pc l

/-- Issue a channel command in cycle c: it passes through the xc. queue and leaves it in the next cycle (R265), or, with WAITEN = 1, waits as a command of the
queue (R40) (DEDUCED, log entry 59). -/
def Mach.chanIssue (s : Mach) (n : Nat) (w : IWord) (c : Nat) : Mach :=
  let t := s.tile n
  if iWaiten w then s.putTile n ((t.issued w c).updEng 6 fun e => { e with waiting := e.waiting ++ [t.queued (s.pads n) w c none] })
  else (s.putTile n ((t.issued w c).updEng 6 fun e => { e with leaves := e.leaves ++ [c + 1] })).runChan n w t.pc (c + 1)

/-- A blocking channel operation reaches the TSQ: it issues, and the next instruction waits as at a drain point, or it holds. -/
def Mach.chanOp (s : Mach) (n op : Nat) (w : IWord) : Mach :=
  match (s.tile n).gate s.part.caps s.clk.aclk 6 op w with
  | .idle => s
  | .faulted t => s.putTile n t
  | .go c =>
    if s.chanClosed n w || (s.chanReady n w && decide ((s.tile n).chanOcc c < 4) && (s.tile n).xcRoom c) then
      (s.chanIssue n w c).updTile n fun t => t.hold (.drain c)
    else (s.tryPad n w).updTile n fun t => t.hold (.chan c)

/-- Issue resumes at a held channel operation whose condition holds, with every synchronous engine idle (R45) (DEDUCED, log entry 7). -/
def Mach.chanResume (s : Mach) (n : Nat) : Mach :=
  let t := s.tile n
  match t.cur.hold with
  | .chan _ =>
    let w := t.tsqWord
    if t.allIdle && !t.stoppedAt s.clk.aclk && !t.tsq.halted && (s.chanClosed n w || s.chanReady n w) then
      let c := maxOr s.clk.aclk [t.tm.nextIssue, t.idleFrom]
      if s.chanClosed n w || (decide (t.chanOcc c < 4) && t.xcRoom c) then
        let s1 := s.updTile n fun t => t.hold .none
        s1.chanIssue n w c
      else s
    else s
  | _ => s

end Sys2Proof.Machine
end

