-- ==== Sys2Proof/Machine/Gsc.lean ====
section
/-! DEFINITION. Global sync counters (R253 to R257). -/

namespace Sys2Proof.Machine

/-- A global counter. -/
def Mach.gsc (s : Mach) (n : Nat) : Gsc := s.gscs.get {} n

/-- GSC_CFG_n. -/
def Mach.gscCfg (s : Mach) (n : Nat) : Word := s.reg (0x4_0000 + 16 * n)

/-- Change a global counter. -/
def Mach.updGsc (s : Mach) (n : Nat) (f : Gsc → Gsc) : Mach := { s with gscs := SMap.upd {} s.gscs n f }

/-- The counter-flag event (R254; source 0x00A). -/
def Mach.gscEvent (s : Mach) (n : Nat) (o u z : Bool) : Mach :=
  if o || u || z then s.raise 0x00A (mkWord [(0, n), (16, b2n o), (17, b2n u), (18, b2n z)]) 0 else s

/-- Signal a global counter (R247, R254). -/
def Mach.gscSignal (s : Mach) (n agent : Nat) : Mach :=
  let c := s.gsc n
  let ovr := decide (0xFFFF ≤ c.value)
  let s1 := s.updGsc n fun x => { x with value := satTo 0xFFFF (x.value + 1), oflag := x.oflag || ovr, lvalid := true, agent := agent }
  s1.gscEvent n ovr false (c.value == 0 && bit (s.gscCfg n) 17)

/-- Debit a global counter (R249, R254): below zero it stays at 0 with UFLAG; true where it would have gone below. -/
def Mach.gscDebit (s : Mach) (n : Nat) : Mach × Bool :=
  let c := s.gsc n
  if c.value = 0 then ((s.updGsc n fun x => { x with uflag := true }).gscEvent n false true false, true)
  else (s.updGsc n fun x => { x with value := x.value - 1 }, false)

/-- Reset a global counter to INIT (R253): from 0 to a nonzero INIT, it goes from 0 to nonzero (R254). -/
def Mach.gscReset (s : Mach) (n : Nat) : Mach :=
  let v := fld (s.gscCfg n) 15 0
  (s.updGsc n fun x => { x with value := v, lvalid := false, agent := 0, rr := 0xFFFF }).gscEvent n false false
    ((s.gsc n).value == 0 && v != 0 && bit (s.gscCfg n) 17)

/-- The agent that a global counter grants next: ascending AGENT after the last granted (R253). -/
def Gsc.next (c : Gsc) : Option Nat :=
  let hi := c.waiters.filter fun a => decide (c.rr < a)
  match hi with
  | [] => if c.waiters.isEmpty then none else some (minOr 0 c.waiters)
  | _ => some (minOr 0 hi)

/-- A write of GSC_CMD_n (R253, R254): RST wins; SIG and DEB together change nothing; the agent is the host (5) or Brim (6). -/
def Mach.gscCmd (s : Mach) (n : Nat) (v : Word) (agent : Nat) : Mach :=
  if bit v 2 then s.gscReset n
  else if bit v 0 && bit v 1 then s
  else if bit v 1 then (s.gscDebit n).1
  else if bit v 0 then s.gscSignal n agent
  else s

end Sys2Proof.Machine
end

