-- ==== Sys2Proof/Machine/HostBase.lean ====
section
/-! DEFINITION. Rings in host memory, doorbells, completions, interrupts and the event controller (R376 to R385, R389, R397 to R407). -/

namespace Sys2Proof.Machine

/-! ## Errors and interrupts -/

/-- Record a host-interface error (HQ_ERR) and raise the host-error event. -/
def Mach.hqError (s : Mach) (cause ring index : Nat) : Mach :=
  let e := s.hq.err
  let n := if bit e 31 then e ||| 0x40000000 else mkWord [(31, 1), (24, cause), (16, ring), (0, index % 2 ^ 16)]
  let s1 := { s with hq := { s.hq with err := n } }
  s1.raise 0x000 n 0

/-- Send MSI-X vector v (R382), where the host has enabled MSI-X: pending while its table entry masks it (PRESUMED, log entry 27). -/
def Mach.msix (s : Mach) (v : Nat) : Mach :=
  if !s.hq.pci.msix then s
  else if bit (s.reg (0x1_800C + 16 * v)) 0 then { s with hq := { s.hq with pba := s.hq.pba ||| BitVec.ofNat 32 (2 ^ v) } }
  else { s with hq := { s.hq with msix := SMap.upd 0 s.hq.msix v fun n => n + 1 } }

/-- Host requests may be issued: the link is up, IDE has not failed, and the function is in D0 (R373, R395). -/
def Mach.hostUp (s : Mach) : Bool := s.hq.linkUp && !s.hq.ideFailed && !s.hq.d3

/-! ## Rings -/

/-- HQ_RING_CFG of ring r. -/
def ringCfg (r : Nat) : Nat := 0x1_0048 + 0x20 * r

/-- A ring is enabled. -/
def Mach.ringEn (s : Mach) (r : Nat) : Bool := bit (s.reg (ringCfg r)) 31

/-- Entries a ring holds (R376). -/
def Mach.ringSize (s : Mach) (r : Nat) : Nat := 2 ^ (fld (s.reg (ringCfg r)) 27 24 + 4)

/-- Host bus address of a ring. -/
def Mach.ringBase (s : Mach) (r : Nat) : Nat := s.pair (0x1_0040 + 0x20 * r)

/-- Bytes of an entry (R376). -/
def entryBytes (r : Nat) : Nat := if r < 16 then 64 else if r < 32 then 16 else if r < 36 then 32 else if r < 40 then 16 else 32

/-- A ring's state. -/
def Mach.ring (s : Mach) (r : Nat) : Ring := s.hq.rings.get {} r

/-- Change a ring. -/
def Mach.updRing (s : Mach) (r : Nat) (f : Ring → Ring) : Mach := { s with hq := { s.hq with rings := SMap.upd {} s.hq.rings r f } }

/-- Entries in a ring. -/
def Mach.ringOcc (s : Mach) (r : Nat) : Nat := ((s.ring r).tail + s.ringSize r - (s.ring r).head) % s.ringSize r

/-- A ring is full (R377). -/
def Mach.ringFull (s : Mach) (r : Nat) : Bool := s.ringOcc r + 1 == s.ringSize r

/-- Host memory words from a bus address. -/
def Mach.hostWords (s : Mach) (a n : Nat) : List Word := wordsOfBytes (s.hmem.bytes a (4 * n))

/-- Write words to host memory. -/
def Mach.hostPut (s : Mach) (a : Nat) (ws : List Word) : Mach := { s with hmem := s.hmem.setBytes a (bytesOfWords ws) }

/-- Set PHASE in the last word of an entry. -/
def withPhase (ph : Bool) : List Word → List Word
  | [] => []
  | [w] => [if ph then w ||| 0x80000000 else w &&& 0x7FFFFFFF]
  | w :: r => w :: withPhase ph r

/-- Write an entry to a device-written ring that has room (R377, R382). -/
def Mach.writeEntry (s : Mach) (r : Nat) (ws : List Word) : Mach :=
  let x := s.ring r
  let sz := s.ringSize r
  let empty := x.head == x.tail
  let s1 := s.hostPut (s.ringBase r + entryBytes r * x.tail) (withPhase x.phase ws)
  let t := (x.tail + 1) % sz
  let s2 := s1.updRing r fun y => { y with tail := t, phase := if t = 0 then !y.phase else y.phase }
  if empty && bit (s.reg (ringCfg r)) 7 then s2.msix (fld (s.reg (ringCfg r)) 12 8) else s2

/-- A device-written ring can take an entry now. -/
def Mach.ringTakes (s : Mach) (r : Nat) : Bool := s.ringEn r && !(s.ringFull r) && s.hostUp

/-- A doorbell (R379, R380, R382): the new tail of a ring the host writes, or the new head of one the device writes. -/
def Mach.doorbell (s : Mach) (r : Nat) (v : Word) (tail : Bool) : Mach :=
  let idx := v.toNat % 2 ^ 16
  let x := s.ring r
  let sz := s.ringSize r
  let n := (idx + sz - (if tail then x.tail else x.head)) % sz
  let room := if tail then sz - 1 - s.ringOcc r else s.ringOcc r
  let stop := fun (m : Mach) => m.updRing r fun y => { y with stopped := true }
  if !(s.ringEn r) then s.hqError 1 r idx
  else if x.stopped then s
  else if 2 ^ 16 ≤ v.toNat ∨ sz ≤ idx then (stop s).hqError 2 r idx
  else if room < n then (stop s).hqError 3 r idx
  else if n = 0 then s
  else if tail then s.updRing r fun y => { y with tail := idx }
  else
    let s1 := s.updRing r fun y => { y with head := idx }
    if idx != x.tail && bit (s.reg (ringCfg r)) 7 then s1.msix (fld (s.reg (ringCfg r)) 12 8) else s1

/-- Disable a ring (R381): pointers and phase reset; a device-written ring discards what it has not written, and the command rings whose completions are
discarded continue (R395). -/
def Mach.disableRing (s : Mach) (r : Nat) : Mach :=
  let ws := (s.ring r).waiting
  let freed := if 16 ≤ r ∧ r < 32 then ws.filterMap fun e =>
      if fld (e.getD 0 0) 7 0 = 0x1F then none else some (fld (e.getD 1 0) 3 0) else []
  let s1 := s.updRing r fun y => { y with head := 0, tail := 0, phase := true, stopped := false, fetched := [], waiting := [] }
  let s2 := if r = 40 then { s1 with evc := { s1.evc with hostQ := [] } } else { s1 with hq := { s1.hq with jcOrder := s1.hq.jcOrder.filter fun x => x != r } }
  freed.foldl (fun m q => m.updRing q fun y => { y with busy := false }) s2

/-! ## Completions (R383, R385, R389) -/

/-- CID of a descriptor. -/
def Cmd.cid (c : Cmd) : Nat := fld (c.desc.getD 0 0) 31 16

/-- OP of a descriptor. -/
def Cmd.op (c : Cmd) : Nat := fld (c.desc.getD 0 0) 7 0

/-- A completion entry for the completion ring of a command (R389): it waits to be written; a disabled ring takes none, and its command ring continues.
A command whose completion an FLR withdrew stands under ring 16 and posts none (R372). -/
def Mach.postEntry (s : Mach) (c : Cmd) (op status detail info : Nat) : Mach :=
  let q := 16 + fld (s.reg (ringCfg c.ring)) 20 16 % 16
  let e := [mkWord [(16, c.cid), (8, status), (0, op)], mkWord [(16, c.sqhead), (0, c.ring)], BitVec.ofNat 32 detail, BitVec.ofNat 32 (info % 2 ^ 31)]
  if 16 ≤ c.ring then s
  else if s.ringEn q then s.updRing q fun y => { y with waiting := y.waiting ++ [e] }
  else if op = 0x1F then s
  else s.updRing c.ring fun y => { y with busy := false }

/-- A command completes (DEDUCED, log entry 26). -/
def Mach.post (s : Mach) (c : Cmd) (status detail info : Nat) : Mach := s.postEntry c c.op status detail info

/-- Take the command at the front of a ring, if the ring may start one (R385): the ring is then busy until the completion is posted. -/
def Mach.startCmd (s : Mach) (r : Nat) : Option (Cmd × Mach) :=
  let x := s.ring r
  match x.fetched with
  | [] => none
  | d :: rest =>
    if x.busy || decide (16 ≤ r) then none
    else
      let sq := (x.head + s.ringSize r - rest.length % s.ringSize r) % s.ringSize r
      some ({ ring := r, desc := d, sqhead := sq }, s.updRing r fun y => { y with fetched := rest, busy := true })

/-- LOAD, START, STOP, ABORT, RESTART, UNLOAD and FITTING (R385). -/
def isJobControl (op : Nat) : Bool := [0x10, 0x11, 0x12, 0x13, 0x14, 0x15, 0x30].contains op

/-- Fetch a command descriptor (R380, R384), or stop the ring on a failed fetch. A full completion ring holds the ring (R378). -/
def Mach.fetchDesc (s : Mach) (r : Nat) (failed : Bool) : Mach :=
  let x := s.ring r
  let q := 16 + fld (s.reg (ringCfg r)) 20 16 % 16
  let held := s.ringEn q && s.ringFull q && !((s.ring q).waiting.isEmpty)
  if decide (16 ≤ r) || !(s.ringEn r) || x.stopped || x.head == x.tail || decide (4 ≤ x.fetched.length) || held || !(s.hostUp) then s
  else if failed then (s.updRing r fun y => { y with stopped := true }).hqError 4 r 0
  else
    let d := s.hostWords (s.ringBase r + 64 * x.head) 16
    let s1 := s.updRing r fun y => { y with fetched := y.fetched ++ [d], head := (y.head + 1) % s.ringSize r }
    if isJobControl (fld (d.getD 0 0) 7 0) then { s1 with hq := { s1.hq with jcOrder := s1.hq.jcOrder ++ [r] } } else s1

/-- Write the first waiting completion of completion ring p (R383): its command ring may then start its next command. -/
def Mach.writeCompletion (s : Mach) (p : Nat) : Mach :=
  let r := 16 + p
  match (s.ring r).waiting with
  | [] => s
  | e :: rest =>
    if decide (16 ≤ p) || !(s.ringTakes r) then s
    else
      let s1 := (s.updRing r fun y => { y with waiting := rest }).writeEntry r e
      if fld (e.getD 0 0) 7 0 = 0x1F then s1 else s1.updRing (fld (e.getD 1 0) 3 0) fun y => { y with busy := false }

/-! ## The event controller (R401 to R406) -/

/-- EVC_GRP_g. -/
def grpReg (g : Nat) : Nat := 0x2_1000 + 4 * g

/-- A level source (R398 and the lists of chapters 17, 18 and 21). -/
def isLevel (src : Nat) : Bool :=
  src == 0x009 || (decide (0x010 ≤ src) && decide (src < 0x018)) || [0x096, 0x0D6, 0x116, 0x156, 0x184, 0x191, 0x192, 0x196].contains src

/-- A target of a group is available (R402, R405). -/
def Mach.targetFree (s : Mach) (g t : Nat) : Bool :=
  bit (s.reg (grpReg g)) t &&
    (if t = 0 then s.ringEn 40 && decide (s.evc.hostQ.length < 64) else decide ((s.evc.brimQ.get [] (t - 1)).length < 64))

/-- The first available target after LAST (R402). -/
def Mach.claimTarget (s : Mach) (g : Nat) : Option Nat :=
  let last := s.evc.last.get 4 g
  ((upTo 5).map fun i => (last + 1 + i) % 5).find? fun t => s.targetFree g t

/-- The group of a source. -/
def Mach.groupOfSrc (s : Mach) (src : Nat) : Nat := fld (s.reg (srcCfg src)) 3 0

/-- The record of a claim (R403, R404). -/
def claimRecord (src grp tgt : Nat) (e : EvSrc) : List Word :=
  let spur := isLevel src && !e.lvl
  let ty := if spur then 2 else if isLevel src then 1 else 0
  [mkWord [(26, tgt), (24, ty), (16, e.count), (0, if spur then 0x3FF else src)], BitVec.ofNat 32 grp,
   BitVec.ofNat 32 e.stamp, BitVec.ofNat 32 (e.stamp / 2 ^ 32), if spur then BitVec.ofNat 32 src else e.d0, if spur then 0 else e.d1, 0, 0]

/-- One claim (R401 to R403), with the Hatbox copy of a masked source (ITG_HBXMASK_k). -/
def Mach.claim (s : Mach) : Mach :=
  let order := (upTo 512).map fun i => (s.evc.lastSrc + 1 + i) % 512
  match order.find? fun x => (s.evc.srcs.get {} x).pend && (s.claimTarget (s.groupOfSrc x)).isSome with
  | none => s
  | some src =>
    let g := s.groupOfSrc src
    let t := (s.claimTarget g).getD 0
    let e := s.evc.srcs.get {} src
    let rec0 := claimRecord src g t e
    let spur := isLevel src && !e.lvl
    let ev := s.evc
    let was := ev.brimQ.get [] (t - 1)
    let ev1 := { ev with
      srcs := ev.srcs.put src { e with count := 0, pend := false }
      last := ev.last.put g t
      lastSrc := src
      spurn := if spur then satTo 0xFFFF (ev.spurn + 1) else ev.spurn
      hostQ := if t = 0 then ev.hostQ ++ [rec0] else ev.hostQ
      brimQ := if t = 0 then ev.brimQ else ev.brimQ.put (t - 1) (was ++ [rec0])
      irq := if t != 0 && was.isEmpty then insSorted (t - 1) ev.irq else ev.irq }
    let s1 := { s with evc := ev1 }
    if bit (s.reg (0x6_0110 + 4 * (src / 32))) (src % 32) then s1.hatbox 1 (numbered rec0) else s1

/-- The staging queue writes a record to the event ring (R405). -/
def Mach.eventWrite (s : Mach) : Mach :=
  match s.evc.hostQ with
  | [] => s
  | e :: rest => if s.ringTakes 40 then ({ s with evc := { s.evc with hostQ := rest } }).writeEntry 40 e else s

/-- EVC_BQACK_c (R406). -/
def Mach.bqAck (s : Mach) (c : Nat) : Mach :=
  let q := (s.evc.brimQ.get [] c).drop 1
  { s with evc := { s.evc with brimQ := s.evc.brimQ.put c q, irq := if q.isEmpty then s.evc.irq.erase c else insSorted c s.evc.irq } }

/-- EN of a source is written 0 (R407). -/
def Mach.srcOff (s : Mach) (src : Nat) : Mach :=
  { s with evc := { s.evc with srcs := SMap.upd {} s.evc.srcs src fun e => { e with count := 0, pend := false } } }

end Sys2Proof.Machine
end

