-- ==== Sys2Proof/Machine/Device.lean ====
section
/-! DEFINITION. The device address space (R280 to R286): where a device address lies, reading and writing one line, the object table, bulk movers, and
hb. commands (R289 to R298). -/

namespace Sys2Proof.Machine

/-! ## Places -/

/-- Where a device address lies. -/
inductive DevPlace where
  | stack (n a : Nat)
  | hub (a : Nat)
  | host (bus : Nat)
  | tile (t w : Nat)
  | none
  deriving DecidableEq, Repr

/-- Fields of an object table entry (R283). -/
def oeValid (e : BitVec 128) : Bool := bit e 127
/-- STATE. -/
def oeState (e : BitVec 128) : Nat := fld e 126 125
/-- HOST. -/
def oeHost (e : BitVec 128) : Bool := bit e 124
/-- The stacks of SMASK. -/
def oeStacks (e : BitVec 128) : List Nat := bitsSet 8 (fld e 123 116)
/-- PBASE in bytes. -/
def oePbase (e : BitVec 128) : Nat := fld e 115 90 * 2 ^ 21
/-- Object length in bytes. -/
def oeLen (e : BitVec 128) : Nat := (fld e 89 72 + 1) * 2 ^ 21
/-- DBASE in bytes. -/
def oeDbase (e : BitVec 128) : Nat := fld e 71 54 * 2 ^ 21

/-- The base of the host window in host bus addresses (BMV_HWBASE). -/
def Mach.hwBase (s : Mach) : Nat := s.pair 0x5_0000

/-- Byte o of an object under a placement (R284). -/
def Mach.placeIn (s : Mach) (e : BitVec 128) (o : Nat) : DevPlace :=
  if oeHost e then .host ((s.hwBase + oePbase e + o) % 2 ^ 64)
  else
    let st := oeStacks e
    let g := o / 4096
    if st.isEmpty then .none
    else .stack (st.getD (g % st.length) 0) (oePbase e + g / st.length * 4096 + o % 4096)

/-- The entry that covers a device address. -/
def Mach.entryOf (s : Mach) (a : Nat) : Option (Nat × BitVec 128) :=
  s.ot.ents.find? fun x => oeValid x.2 && decide (oeDbase x.2 ≤ a) && decide (a < oeDbase x.2 + oeLen x.2)

/-- Where a device address lies (R280 to R284). -/
def Mach.devPlace (s : Mach) (a : Nat) : DevPlace :=
  if a < 0x80_0000_0000 then
    (match s.entryOf a with
     | some (_, e) => s.placeIn e (a - oeDbase e)
     | none => .none)
  else if a < 0x1000_0000_0000 then .none
  else if a < 0x1001_C000_0000 then .tile ((a - 0x1000_0000_0000) / 2 ^ 20) ((a - 0x1000_0000_0000) % 2 ^ 20 / 4)
  else if a < 0x2000_0000_0000 then .none
  else if a < 0x2000_0200_0000 then .hub (a - 0x2000_0000_0000)
  else if a < 0x8000_0000_0000 then .none
  else if a < 0x1_0000_0000_0000 then .host ((s.hwBase + (a - 0x8000_0000_0000)) % 2 ^ 64)
  else .none

/-- An HBM stack. -/
def Mach.stack (s : Mach) (n : Nat) : Stack := s.hbms.get {} n

/-- Change a stack. -/
def Mach.updStack (s : Mach) (n : Nat) (f : Stack → Stack) : Mach := { s with hbms := SMap.upd {} s.hbms n f }

/-- A tile that the aperture refuses (R281): one that does not exist, lies in an unavailable row or takes no part in the loaded job. -/
def Mach.apertureRefuses (s : Mach) (t : Nat) : Bool := !(s.tileExists t) || s.unavail t || !(s.tile t).tsq.inJob

/-- The outcome of a line access: words (for a read), data that cannot be corrected, or a refusal with its CODE (CDC_HBERR0). -/
inductive DevRes where
  | ok (ws : List Word)
  | bad
  | err (code : Nat)
  deriving DecidableEq, Repr

/-- The host window refuses an access at this address. -/
def hostRefused (hostErr : Bool) (up : Bool) : Bool := hostErr || !up

/-- Read n words at a device address; the words lie in one line. -/
def Mach.devRead (s : Mach) (a n : Nat) (aperture hostErr : Bool) : DevRes :=
  match s.devPlace a with
  | .stack k b =>
    if (s.stack k).failed then .err 6
    else if (s.stack k).bad.contains (b / 32 * 32) then .bad
    else .ok (wordsOfBytes ((s.stack k).mem.bytes b (4 * n)))
  | .hub b => if s.hubBad.contains (b / 32 * 32) then .bad else .ok (wordsOfBytes (s.hub.bytes b (4 * n)))
  | .host b => if hostRefused hostErr s.hostUp then .err 5 else .ok (s.hostWords b n)
  | .tile t w =>
    if !aperture || s.apertureRefuses t then .err 2
    else if !(s.tile t).segOn w then .err 3
    else match ((s.tile t).yieldRead 7 w n s.clk.aclk).1 with
      | some ws => .ok ws
      | none => .err 4
  | .none => .err 1

/-- Words stored in a stack; a whole sector has fresh check bits. -/
def Stack.put (x : Stack) (b : Nat) (ws : List Word) : Stack :=
  { x with mem := x.mem.setBytes b (bytesOfWords ws)
           bad := if ws.length = 8 then x.bad.filter fun c => c != b else x.bad
           soft := if ws.length = 8 then x.soft.filter fun c => c != b else x.soft }

/-- Write words at the place of a device address; they lie in one line. -/
def Mach.placeWrite (s : Mach) (a : Nat) (ws : List Word) (aperture hostErr : Bool) : Mach × Option Nat :=
  match s.devPlace a with
  | .stack k b =>
    if (s.stack k).failed then (s, some 6)
    else (s.updStack k fun x => x.put b ws, none)
  | .hub b => ({ s with hub := s.hub.setBytes b (bytesOfWords ws)
                        hubBad := if ws.length = 8 then s.hubBad.filter fun c => c != b else s.hubBad
                        hubSoft := if ws.length = 8 then s.hubSoft.filter fun c => c != b else s.hubSoft }, none)
  | .host b => if hostRefused hostErr s.hostUp then (s, some 5) else (s.hostPut b ws, none)
  | .tile t w =>
    if !aperture || s.apertureRefuses t then (s, some 2)
    else if !(s.tile t).segOn w then (s, some 3)
    else (s.updTile t fun x => x.yieldWrite 7 w ws s.clk.aclk, none)
  | .none => (s, some 1)

/-- Where a migration also writes a device address (R286): in its destination, for a granule that it has copied. -/
def Mach.mirror (s : Mach) (a : Nat) : DevPlace :=
  match s.ot.moving with
  | some (_, dst) => if decide (oeDbase dst ≤ a) && decide (a < oeDbase dst + 4096 * s.ot.gran) then s.placeIn dst (a - oeDbase dst) else .none
  | none => .none

/-- Write words at a device address; they lie in one line. A write to a granule that a migration has copied goes to both placements (R286). -/
def Mach.devWrite (s : Mach) (a : Nat) (ws : List Word) (aperture hostErr : Bool) : Mach × Option Nat :=
  let r := s.placeWrite a ws aperture hostErr
  match r.2, s.mirror a with
  | none, .stack k b => (r.1.updStack k fun x => x.put b ws, none)
  | none, .host b => (r.1.hostPut b ws, none)
  | _, _ => r

/-- A stack takes no new requests: TSTATE 3 (R296), or its controller recovers (R297). -/
def Stack.waits (x : Stack) : Bool := x.tstate == 3 || x.held

/-- The stack of a place takes no new requests. -/
def Mach.placeWaits (s : Mach) (p : DevPlace) : Bool := match p with | .stack k _ => (s.stack k).waits | _ => false

/-- The stack of a device address takes no new requests. -/
def Mach.devWaits (s : Mach) (a : Nat) : Bool := s.placeWaits (s.devPlace a)

/-- Some line of a range waits on a stack that takes no new requests. -/
def Mach.rangeWaits (s : Mach) (a n : Nat) : Bool := (s.hbms.any fun x => x.2.waits) && (upTo n).any fun m => s.devWaits (a + 32 * m)

/-- The device address lies in the host window. -/
def Mach.isHostAddr (s : Mach) (a : Nat) : Bool := match s.devPlace a with | .host _ => true | _ => false

/-- Count a sector that could not be corrected after retry (R293, R416) (DEDUCED, log entry 61). -/
def Mach.countBad (s : Mach) (a : Nat) : Mach :=
  match s.devPlace a with
  | .stack k _ => s.updStack k fun x => { x with uen := satTo 0xFFFF (x.uen + 1) }
  | .hub _ => { s with itg := s.itg.addEcc [(7, 1)] }
  | _ => s

/-- A read of n words at a device address has found its data good: what was corrected on the way is counted (R85, R287, R411). -/
def Mach.countSoft (s : Mach) (a n : Nat) : Mach :=
  match s.devPlace a with
  | .stack k b => if (s.stack k).soft.contains (b / 32 * 32) then s.updStack k fun x => { x with cen := satTo 0xFFFF (x.cen + 1) } else s
  | .hub b => if s.hubSoft.contains (b / 32 * 32) then { s with itg := s.itg.addEcc [(6, 1)] } else s
  | .tile t w => s.updTile t fun x => (x.yieldRead 7 w n s.clk.aclk).2.2
  | _ => s

/-- Count what a read of n lines from a device address met: the errors corrected in the lines whose data is good, and the one that ends the read, where it could
not be corrected (R85, R287, R411). -/
def Mach.countRead : Nat → Nat → Mach → Mach
  | 0, _, s => s
  | n + 1, a, s =>
    match s.devRead a 8 true false with
    | .ok _ => Mach.countRead n (a + 32) (s.countSoft a 8)
    | .bad => s.countBad a
    | .err 4 => s.countSoft a 8
    | .err _ => s

/-! ## Bulk movers -/

/-- A bulk mover. -/
def Mach.mover (s : Mach) (m : Nat) : Mover := s.movers.get {} m

/-- Change a bulk mover. -/
def Mach.updMover (s : Mach) (m : Nat) (f : Mover → Mover) : Mach := { s with movers := SMap.upd {} s.movers m f }

/-- A mover runs a transfer. -/
def Mach.moverBusy (s : Mach) (m : Nat) : Bool := (s.mover m).xfer.isSome

/-- USER of BMV_STAT_m (DEDUCED, log entry 33). -/
def MoverUser.code : MoverUser → Nat
  | .tile _ _ _ => 3
  | .copy _ => 0
  | .snap (some _) => 0
  | .snap none => 2
  | .migrate => 1

/-- Start a transfer on a free mover. -/
def Mach.startXfer (s : Mach) (m : Nat) (x : Xfer) : Mach := s.updMover m fun y => { y with xfer := some x, user := x.user.code }

/-- Copy n lines (R295, R388): the machine after it, and the first failure with its device address and whether the data could not be corrected. -/
def Mach.copyLines (src dst : Nat) (hostErr : Bool) : Nat → Nat → Mach → Mach × Option (Nat × Nat)
  | 0, _, s => (s, none)
  | n + 1, m, s =>
    let a := src + 32 * m
    let b := dst + 32 * m
    match s.devRead a 8 true hostErr with
    | .err c => (if c = 4 then s.countSoft a 8 else s, some (c, a))
    | .bad => (s.countBad a, some (8, a))
    | .ok ws =>
      let r := (s.countSoft a 8).devWrite b ws true hostErr
      match r.2 with
      | some c => (r.1, some (c, b))
      | none => Mach.copyLines src dst hostErr n (m + 1) r.1

/-- No line of a transfer waits on a stack that takes no new requests. -/
def Mach.copyWaits (s : Mach) (src dst n : Nat) : Bool := s.rangeWaits src n || s.rangeWaits dst n

/-- Record an hb. error on a die (CDC_HBERR) and raise the hb-error event (R292). -/
def Mach.hbError (s : Mach) (t code pc addr : Nat) : Mach :=
  let d := dieOf t
  let w0 := (s.die d).hberr.get 0 0
  let s1 :=
    if bit w0 31 then s.updDie d fun y => { y with hberr := y.hberr.put 0 (w0 ||| 0x40000000) }
    else s.updDie d fun y => { y with hberr :=
      [(0, mkWord [(31, 1), (26, code), (0, t % 2 ^ 13)]), (1, BitVec.ofNat 32 (pc % 2 ^ 17)), (2, BitVec.ofNat 32 (addr % 2 ^ 32 / 32 * 32)),
       (3, BitVec.ofNat 32 (addr / 2 ^ 32 % 2 ^ 16))] }
  s1.raise (0x082 + 0x40 * d) ((s1.die d).hberr.get 0 0) ((s1.die d).hberr.get 0 1)

/-- The cycle in which the writes of a transfer have been done: those into a tile yield (R83). -/
def Mach.xferEnd (s : Mach) (x : Xfer) : Nat :=
  match s.devPlace x.dst with
  | .tile t _ => (s.tile t).quiet 7 s.clk.aclk
  | _ => s.clk.aclk

/-- The signal of a transfer that has ended with every write acknowledged (R258, R295). -/
def Mach.xferSignal (s : Mach) (m : Nat) (x : Xfer) : Mach :=
  if x.sigk = 1 then s.gscSignal x.gsc (4 * 2 ^ 13 + m)
  else if x.sigk = 2 then s.updTile x.stile fun t => t.signal x.ctr (4 * 2 ^ 13 + m) (s.xferEnd x)
  else s

/-- STATUS and DETAIL of a failed host command's transfer (R390): a poisoned completion of the host window is DATA (R371). -/
def failStatus (code addr : Nat) (poison : Bool) : Nat × Nat :=
  (if code = 8 ∨ code = 4 ∨ (code = 5 ∧ poison) then 0x05 else 0x04, addr / 32 % 2 ^ 32)

/-- A transfer of a tile or a COPY command ends (R258, R281, R295, R388, R416). -/
def Mach.endXfer (s : Mach) (m : Nat) (hostErr : Bool) (poison : Bool := false) : Mach :=
  match (s.mover m).xfer with
  | none => s
  | some x =>
    let go := match x.user with | .tile _ _ _ => true | .copy _ => true | _ => false
    if !go || s.copyWaits x.src x.dst x.n then s
    else
      let r := s.copyLines x.src x.dst hostErr x.n 0
      match r.2 with
      | none =>
        let s1 := (r.1.updMover m fun y => { y with xfer := none, err := false, done := satTo 0xFFFF (y.done + 1) }).xferSignal m x
        (match x.user with
         | .tile t (some c) _ => s1.updTile t fun y => y.signal c (2 ^ 13 + 8) (s1.xferEnd x)
         | .copy c => s1.post c 0 0 x.n
         | _ => s1)
      | some (code, addr) =>
        let s1 := r.1.updMover m fun y => { y with xfer := none, err := true }
        let s2 := if code = 8 && s.hq.job != .idle then s1.alarm 1 else s1
        (match x.user with
         | .tile t _ pc => s2.hbError t code pc addr
         | .copy c => s2.post c (failStatus code addr poison).1 (failStatus code addr poison).2 0
         | _ => s2)

/-! ## The object table (R285, R286) -/

/-- Two ranges overlap. -/
def overlap (a n b k : Nat) : Bool := decide (a < b + k) && decide (b < a + n)

/-- Bytes that a placement takes in each of its stacks, or in the host window. -/
def oeSpan (e : BitVec 128) : Nat :=
  if oeHost e then oeLen e else cdiv (fld e 89 72 + 1) (max 1 (oeStacks e).length) * 2 ^ 21

/-- Two placements overlap in some stack, or in the host window. -/
def placesMeet (a b : BitVec 128) : Bool :=
  (oeHost a == oeHost b) && overlap (oePbase a) (oeSpan a) (oePbase b) (oeSpan b) &&
    (oeHost a || (oeStacks a).any fun n => (oeStacks b).contains n)

/-- The placements that valid entries hold, a moving entry's destination among them; of entry i, only the destination where it moves. -/
def Mach.placements (s : Mach) (skip : Option Nat) : List (BitVec 128) :=
  ((s.ot.ents.filter fun x => oeValid x.2 && some x.1 != skip).map fun x => x.2) ++
    (match s.ot.moving with | some (_, e) => [e] | none => [])

/-- Checks 3 to 5 of R285 on a placement: the first that fails. -/
def Mach.placeErr (s : Mach) (e : BitVec 128) : Option Nat :=
  if (s.placements none).any fun x => placesMeet e x then some 3
  else if !(oeHost e) && (fld e 123 116 == 0 || (oeStacks e).any fun n => !(s.stack n).present || (s.stack n).failed) then some 4
  else if oeHost e then (if 0x8000_0000_0000 < oePbase e + oeLen e then some 5 else none)
  else if 2 ^ 36 < oePbase e + oeSpan e then some 5
  else none

/-- The argument entry HBM_OTARG_w. -/
def Mach.otArg (s : Mach) : BitVec 128 :=
  BitVec.ofNat 128 ((upTo 4).foldl (fun a w => a + (s.reg (0xC_8010 + 4 * w)).toNat * 2 ^ (32 * w)) 0)

/-- An entry with VALID and STATE set. -/
def withState (e : BitVec 128) (st : Nat) : BitVec 128 :=
  setFld (setFld (setFld e 127 127 (b2n (st != 0))) 126 125 st) 53 0 0

/-- HBM_OTSTAT. -/
def Mach.otStat (s : Mach) : Word := mkWord [(31, b2n s.ot.busy), (28, s.ot.err), (0, s.ot.entry)]

/-- A command ends: its result, and the object-table event. -/
def Mach.otEnd (s : Mach) (e err : Nat) : Mach :=
  let s1 := { s with ot := { s.ot with busy := false, err := err, entry := e } }
  s1.raise 0x003 s1.otStat 0

/-- PLACE (R285): the checks, then the entry takes the argument; the command stays busy until it is done (DEDUCED, log entry 28). -/
def Mach.otPlace (s : Mach) (i : Nat) : Mach :=
  let e := s.otArg
  let cur := s.ot.ents.get 0 i
  if oeState cur != 0 || oeValid cur then s.otEnd i 1
  else if decide (2 ^ 39 < oeDbase e + oeLen e) ||
      (s.ot.ents.any fun x => oeValid x.2 && overlap (oeDbase e) (oeLen e) (oeDbase x.2) (oeLen x.2)) then s.otEnd i 2
  else match s.placeErr e with
    | some c => s.otEnd i c
    | none => { s with ot := { s.ot with ents := s.ot.ents.put i (withState e 1), busy := true, err := 0, entry := i } }

/-- MIGRATE (R285, R286): the checks, then the entry moves on a bulk mover. -/
def Mach.otMigrate (s : Mach) (i m : Nat) : Mach :=
  let cur := s.ot.ents.get 0 i
  let a := s.otArg
  let dst := setFld (setFld a 89 72 (fld cur 89 72)) 71 54 (fld cur 71 54)
  if oeState cur != 1 then s.otEnd i 1
  else match s.placeErr dst with
    | some c => s.otEnd i c
    | none =>
      if s.moverBusy m then s.otEnd i 6
      else
        let s1 := { s with ot := { s.ot with ents := s.ot.ents.put i (withState cur 2), busy := true, err := 0, entry := i, gran := 0, moving := some (m, withState dst 1) } }
        s1.startXfer m { user := .migrate, src := oeDbase cur, dst := oeDbase cur, n := oeLen cur / 32 }

/-- FREE (R285). -/
def Mach.otFree (s : Mach) (i : Nat) : Mach :=
  let cur := s.ot.ents.get 0 i
  if oeState cur != 1 then s.otEnd i 1
  else { s with ot := { s.ot with ents := s.ot.ents.del i, busy := true, err := 0, entry := i } }

/-- An access of a migration to a place fails (R282, R287, R416): a failed stack, a host window that cannot be reached, a source that cannot be corrected. -/
def Mach.placeFails (s : Mach) (p : DevPlace) : Bool :=
  match p with
  | .stack k _ => (s.stack k).failed
  | .host _ => !s.hostUp
  | _ => false

/-- Copy lines of an object, from line m on, between two placements: whether every source line could be corrected. -/
def Mach.migrateLines (src dst : BitVec 128) : Nat → Nat → Mach → Mach × Bool
  | 0, _, s => (s, true)
  | n + 1, m, s =>
    let a := oeDbase src + 32 * m
    match s.devRead a 8 false false with
    | .ok ws =>
      let s1 := s.countSoft a 8
      let s2 := match s1.placeIn dst (32 * m) with
        | .stack k b => s1.updStack k fun x => x.put b ws
        | .host b => s1.hostPut b ws
        | _ => s1
      Mach.migrateLines src dst n (m + 1) s2
    | _ => (s.countBad a, false)

/-- A migration ends with error status: its object stays in its source placement, and OTSTAT.ERR is a free value (DESIGN CHOICE, log entry 85). -/
def Mach.migrationFails (s : Mach) (m : Nat) : Mach :=
  let i := s.ot.entry
  let f := s.freeWords 1
  let s1 := { f.2 with ot := { f.2.ot with ents := f.2.ot.ents.put i (withState (f.2.ot.ents.get 0 i) 1), moving := none } }
  (s1.updMover m fun y => { y with xfer := none, err := true }).otEnd i ((f.1.headD 0).toNat % 8)

/-- The next granule of a migration is copied (R286): nothing where one of its stacks takes no new requests. -/
def Mach.migrateGranule (s : Mach) : Mach :=
  match s.ot.moving with
  | none => s
  | some (m, dst) =>
    let src := s.ot.ents.get 0 s.ot.entry
    let g := s.ot.gran
    let p := s.placeIn src (4096 * g)
    let q := s.placeIn dst (4096 * g)
    if oeLen src / 4096 ≤ g then s
    else if s.placeFails p || s.placeFails q then s.migrationFails m
    else if s.placeWaits p || s.placeWaits q then s
    else
      let r := Mach.migrateLines src dst 128 (128 * g) s
      if r.2 then { r.1 with ot := { r.1.ot with gran := g + 1 } } else r.1.migrationFails m

/-- Up to n granules of a migration are copied. -/
def Mach.migrateSome : Nat → Mach → Mach
  | 0, s => s
  | n + 1, s => Mach.migrateSome n s.migrateGranule

/-- The granules that a migration has not copied are copied, and with the last the entry takes its new placement (R286); nothing more where a stack takes no
new requests (DEDUCED, log entry 28). -/
def Mach.migrationSwitch (s : Mach) : Mach :=
  let s1 := s.migrateSome (oeLen (s.ot.ents.get 0 s.ot.entry) / 4096 - s.ot.gran)
  match s1.ot.moving with
  | none => s1
  | some (m, dst) =>
    let i := s1.ot.entry
    if s1.ot.gran < oeLen dst / 4096 then s1
    else
      let s2 := { s1 with ot := { s1.ot with ents := s1.ot.ents.put i dst, moving := none } }
      (s2.updMover m fun y => { y with xfer := none, err := false, done := satTo 0xFFFF (y.done + 1) }).otEnd i 0

/-- A migration has an end in the host window. -/
def Mach.migratesHost (s : Mach) : Bool :=
  match s.ot.moving with
  | some (_, dst) => oeHost dst || oeHost (s.ot.ents.get 0 s.ot.entry)
  | none => false

/-- A PLACE or FREE command finishes. -/
def Mach.otDone (s : Mach) : Mach := if s.ot.busy && s.ot.moving.isNone then s.otEnd s.ot.entry 0 else s

/-! ## hb. commands (R289 to R293) -/

/-- The device address of line m of an hb. command. -/
def HbCmd.addr (h : HbCmd) (m : Nat) : Nat := (h.dev + 32 * m) % 2 ^ 48

/-- The lines that an HBM engine of a die has outstanding (R289): those of its commands that have not moved, at most 256 of each command. -/
def Mach.hbLoad (s : Mach) (d e : Nat) : Nat :=
  (s.tiles.filter fun x => dieOf x.1 == d).foldl (fun a x =>
    (x.2.hb.filter fun h => h.eng == e).foldl (fun b h => b + min 256 (h.n - h.donelines)) a) 0

/-- The HBM engines of a die that can take a command (R289). -/
def Mach.hbFree (s : Mach) (d : Nat) : List Nat := (upTo 16).filter fun e => decide (s.hbLoad d e < 256)

/-- The engine that takes a tile's command: one of the free ones, which of them the spec does not say (DESIGN CHOICE, log entry 34). -/
def Mach.hbTake (s : Mach) (n : Nat) : Nat × Mach :=
  let d := dieOf n
  let r := s.freeWords 1
  let l := s.hbFree d
  (l.getD ((r.1.headD 0).toNat % max 1 l.length) 0, r.2.updDie d fun y => { y with hbLast := n })

/-- The signal of a command that HBM engine eng of the tile's die has completed (R243). -/
def Mach.hbSignal (s : Mach) (n eng : Nat) (sig : Option Nat) (cyc : Nat) : Mach :=
  match sig with
  | none => s
  | some c => s.updTile n fun t => t.signal c (3 * 2 ^ 13 + 16 * dieOf n + eng) cyc

/-- hb.ld or hb.st in cycle L (R291, R292), taken by engine e: the tile-side checks over all n lines, then the command is in flight. -/
def Tile.runHb (t : Tile) (j : Job) (e : Nat) : Tile :=
  let w := j.q.w
  let n := fld w 37 26 + 1
  let ld := iOp w == 0x10
  let p := t.ptr 7 (fld w 39 38)
  let d := (t.dev.get 0 (fld w 41 40)).toNat
  match ((upTo n).filterMap fun m =>
      match p.refusal 0xAAAAAAAA (8 * (p.loff + m)) 8 ld with | some x => some x | none => none).head? with
  | some (c, d0, d1) => t.fault c 0 7 j.q.pc j.l d0 d1
  | none =>
    let h : HbCmd :=
      { ld := ld, ptr := p, pc := j.q.pc, l := j.l, dev := (d + 32 * fld w 25 2) % 2 ^ 48, n := n, cyc := j.q.cyc, eng := e, sig := iSig w }
    let t1 := t.advPtr (bit w 0) 7 (fld w 39 38) n
    let t2 := if bit w 0 then { t1 with dev := t1.dev.put (fld w 41 40) (BitVec.ofNat 64 ((d + 32 * n) % 2 ^ 48)) } else t1
    { t2 with hb := t2.hb ++ [h] }

/-- Move line m of an hb. command: the machine after it, a CODE that ends the command, and whether the line's sector could not be corrected. -/
def Mach.hbLine (s : Mach) (n : Nat) (h : HbCmd) (m : Nat) (hostErr : Bool) : Mach × Option Nat × Bool :=
  let a := h.addr m
  let w := h.ptr.base + 8 * (h.ptr.loff + m)
  let t := s.tile n
  if !(t.segOn w) then (s, some 3, false)
  else if h.ld then
    match s.devRead a 8 false hostErr with
    | .err c => (s, some c, false)
    | .bad => ((s.countBad a).updTile n fun t => t.yieldWrite 7 w zeroLine s.clk.aclk, none, true)
    | .ok ws => ((s.countSoft a 8).updTile n fun t => t.yieldWrite 7 w ws s.clk.aclk, none, false)
  else
    match t.yieldRead 7 w 8 s.clk.aclk with
    | (none, _, t1) => (s.putTile n t1, some 4, false)
    | (some ws, _, t1) => let r := (s.putTile n t1).devWrite a ws false hostErr; (r.1, r.2, false)

/-- The hb. command k of a tile. -/
def Mach.hbCmd (s : Mach) (n k : Nat) : Option HbCmd := (s.tile n).hb[k]?

/-- Move the lines from m on, up to the first that fails: the machine, the number of the failing line with its CODE, and the first line that
could not be corrected (DESIGN CHOICE, log entry 22). -/
def Mach.hbLines (n : Nat) (h : HbCmd) (hostErr : Bool) : Nat → Nat → Option Nat → Mach → Mach × Option (Nat × Nat) × Option Nat
  | 0, _, b, s => (s, none, b)
  | k + 1, m, b, s =>
    let r := s.hbLine n h m hostErr
    match r.2.1 with
    | some c => (r.1, some (m, c), b)
    | none => Mach.hbLines n h hostErr k (m + 1) (if r.2.2 && b.isNone then some m else b) r.1

/-- Replace or remove hb. command k of a tile. -/
def Mach.setHb (s : Mach) (n k : Nat) (h : Option HbCmd) : Mach :=
  s.updTile n fun t => { t with hb := match h with | some x => t.hb.set k x | none => t.hb.eraseIdx k }

/-- Some line of the command waits on a stack that takes no new requests. -/
def Mach.hbWaits (s : Mach) (h : HbCmd) : Bool :=
  (s.hbms.any fun x => x.2.waits) && (upTo (h.n - h.donelines)).any fun m => s.devWaits (h.addr (h.donelines + m))

/-- The uncorrectable fault of an hb. command that ends, with its first line that could not be corrected, if any (R293). -/
def Mach.hbUncorrected (s : Mach) (n : Nat) (h : HbCmd) (m : Option Nat) : Mach :=
  match m with
  | some m => s.updTile n fun t => t.fault 0x17 0 7 h.pc s.clk.aclk (h.ptr.base + 8 * (h.ptr.loff + m)) 0
  | none => s

/-- A waiting yielding request of an hb. command is granted (R83): its next line moves; a line that cannot be corrected is zero. -/
def Mach.hbGrant (s : Mach) (n k : Nat) : Mach :=
  match s.hbCmd n k with
  | none => s
  | some h =>
    if h.n ≤ h.donelines ∨ s.devWaits (h.addr h.donelines) then s
    else
      let r := s.hbLine n h h.donelines false
      match r.2.1 with
      | some _ => s
      | none =>
        r.1.setHb n k (some { h with donelines := h.donelines + 1, badLine := if r.2.2 && h.badLine.isNone then some h.donelines else h.badLine })

/-- An hb. command's last line is in place and it signals (R258), with one uncorrectable fault for its first line that could not be corrected (R293); one with
a line that ends it with error status does not complete. -/
def Mach.hbComplete (s : Mach) (n k : Nat) : Mach :=
  match s.hbCmd n k with
  | none => s
  | some h =>
    if s.hbWaits h then s
    else
      let r := Mach.hbLines n h false (h.n - h.donelines) h.donelines h.badLine s
      match r.2.1 with
      | some _ => s
      | none => ((r.1.setHb n k none).hbSignal n h.eng h.sig ((r.1.tile n).quiet 7 s.clk.aclk)).hbUncorrected n h r.2.2

/-- An hb. command ends with error status (R292): at its first line that fails; nothing happens where none does, or where a line before it waits on a stack
that takes no new requests. -/
def Mach.hbFails (s : Mach) (n k : Nat) (hostErr : Bool) : Mach :=
  match s.hbCmd n k with
  | none => s
  | some h =>
    let r := Mach.hbLines n h hostErr (h.n - h.donelines) h.donelines h.badLine s
    match r.2.1 with
    | none => s
    | some (m, c) =>
      if (s.hbms.any fun x => x.2.waits) && (upTo (m - h.donelines)).any fun i => s.devWaits (h.addr (h.donelines + i)) then s
      else
        (((r.1.setHb n k none).hbError n c h.pc (h.addr m)).updDie (dieOf n) fun y => { y with hbDead := y.hbDead ++ [(h.cyc, n)] }).hbUncorrected n h r.2.2

end Sys2Proof.Machine
end

