-- ==== Sys2Proof/Machine/Training.lean ====
section
/-! DEFINITION. The training-watch block (R302, R303, R308 to R325): loss watch, gate word, marks, windows, queries and snapshots; and the digest engine
(R339 to R341). -/

namespace Sys2Proof.Machine

/-! ## Window counts -/

/-- Count in the window of now (TRW_WINCNT_k). -/
def Mach.winAdd (s : Mach) (k n : Nat) : Mach := s.winAdds [(k, n)]

/-- The window that is to close next closes (R303): the timebase has left it. -/
def Mach.windowClose (s : Mach) : Mach :=
  match s.winLog with
  | none => s
  | some w =>
    let j := s.trw.winIdx
    if s.clk.tb.toNat / 2 ^ w ≤ j then s
    else
      let st := j * 2 ^ w
      let s1 := { s with trw := { s.trw with winCnt := s.trw.win.get [] j, win := s.trw.win.del j, winStart := st, winIdx := j + 1 } }
      s1.raise 0x005 (BitVec.ofNat 32 st) (BitVec.ofNat 32 (st / 2 ^ 32))

/-- A write of TRW_WINCFG that starts windows, or changes their length: the first of them is the one that holds the timebase, and it counts from the write
(DESIGN CHOICE, log entry 86). -/
def Mach.winStarts (s old : Mach) : Mach :=
  match s.winLog with
  | none => s
  | some w => if old.winLog == some w then s else { s with trw := { s.trw with win := [], winIdx := s.clk.tb.toNat / 2 ^ w } }

/-! ## Loss watch (R311 to R313) -/

/-- TRW_LWSTAT. -/
def Mach.lwStat (s : Mach) : Word :=
  let t := s.trw
  mkWord [(31, b2n t.spike), (30, b2n t.approved), (29, b2n t.nf), (28, b2n t.seqerr), (0, satTo 0xFFFF t.n)]

/-- The loss watch is on (R312, TRW_LWCFG). -/
def Mach.lwOn (s : Mach) : Bool := bit (s.reg 0x7_0010) 31 && fld (s.reg 0x7_0010) 3 0 != 0

/-- APPRN. -/
def Mach.apprn (s : Mach) : Nat := fld (s.reg 0x7_0014) 15 0

/-- FP64 operations of the loss watch, each rounded to nearest even. -/
def dAdd (a b : Nat) : Nat := (fAdd {} 14 a b).1
/-- Difference. -/
def dSub (a b : Nat) : Nat := (fSub {} 14 a b).1
/-- Product. -/
def dMul (a b : Nat) : Nat := (fMul {} 14 a b).1

/-- The FP64 code of m * 2^e. -/
def dOf (m : Nat) (e : Int) : Nat := (arith {} 14 (.fin false m e)).1

/-- Process an accepted sample (R311), from the loss-watch state it starts with. -/
def Mach.lossSample (s : Mach) (x step : Word) : Mach :=
  let c := s.reg 0x7_0010
  let t := s.trw
  let al := fld c 3 0
  let alpha := dOf 1 (-(al : Int))
  let k := dOf (fld c 15 8) (-4)
  let pol := fld c 29 28
  let xd := (convert {} 0 14 none false x.toNat).1
  let isnf := nonFinite 0 x.toNat
  let d := dSub xd t.m
  let pos := FVal.lt (.fin false 0 0) (valOf 14 d)
  let dd := dMul d d
  let lim := dMul (dMul k k) t.v
  let spike := if isnf then true else if t.n = 0 then false
    else decide (fld c 25 16 ≤ t.n) && pos && FVal.lt (valOf 14 lim) (valOf 14 dd)
  let appr := !isnf && spike && (pol == 1 || (pol == 2 && decide (0 < s.apprn)))
  let take := !isnf && (!spike || appr)
  let m1 := if isnf then t.m else if t.n = 0 then xd else if take then dAdd t.m (dMul alpha d) else t.m
  let v1 := if isnf then t.v else if t.n = 0 then 0
    else if take then dMul (dSub (dOf 1 0) alpha) (dAdd t.v (dMul (dMul alpha d) d)) else t.v
  let s1 := { s with trw := { t with
    m := m1
    v := v1
    n := if take then t.n + 1 else t.n
    got := true
    step := step
    loss := x
    pm := t.m
    pv := t.v
    pn := t.n
    pappr := s.apprn
    spike := spike
    approved := appr
    nf := isnf
    spkn := if spike then satTo 0xFFFF (t.spkn + 1) else t.spkn
    unappn := if spike && !appr then satTo 0xFFFF (t.unappn + 1) else t.unappn } }
  let s2 := if pol == 2 && appr then s1.setReg 0x7_0014 (BitVec.ofNat 32 (s.apprn - 1)) else s1
  let s3 := if spike then s2.winAdd 3 1 else s2
  let s4 := if spike && !appr then s3.winAdd 4 1 else s3
  if spike then s4.raise 0x004 s4.lwStat step else s4

/-- A loss sample reaches the loss watch (R312). -/
def Mach.lossIn (s : Mach) (x step : Word) : Mach :=
  let t := s.trw
  if !(s.lwOn) then s
  else if !t.got || step == t.step + 1 then s.lossSample x step
  else if step == t.step then
    (({ s with trw := { t with m := t.pm, v := t.pv, n := t.pn } }).setReg 0x7_0014 (BitVec.ofNat 32 t.pappr)).lossSample x step
  else
    let s1 := { s with trw := { t with seqerr := true } }
    s1.raise 0x004 s1.lwStat step

/-- The gate word (R310). -/
def Mach.gateWord (s : Mach) (step : Word) (nfstep : Bool) : Word :=
  let t := s.trw
  let has := s.lwOn && t.got && t.step == step
  let alarms := fld (s.reg 0x6_0000) 6 0
  mkWord [(3, b2n has), (2, b2n (alarms == 0)), (1, b2n (!(has && t.spike && !t.approved))), (0, b2n (!nfstep))]

/-! ## Digests (R339 to R341, R426) -/

/-- Rotate a 64-bit value left. -/
def rol64 (x : BitVec 64) (n : Nat) : BitVec 64 := x.rotateLeft n

/-- One SipRound. -/
def sipRound : BitVec 64 × BitVec 64 × BitVec 64 × BitVec 64 → BitVec 64 × BitVec 64 × BitVec 64 × BitVec 64
  | (v0, v1, v2, v3) =>
    let v0 := v0 + v1
    let v1 := rol64 v1 13 ^^^ v0
    let v0 := rol64 v0 32
    let v2 := v2 + v3
    let v3 := rol64 v3 16 ^^^ v2
    let v0 := v0 + v3
    let v3 := rol64 v3 21 ^^^ v0
    let v2 := v2 + v1
    let v1 := rol64 v1 17 ^^^ v2
    let v2 := rol64 v2 32
    (v0, v1, v2, v3)

/-- Absorb one 64-bit word with two rounds. -/
def sipWord (v : BitVec 64 × BitVec 64 × BitVec 64 × BitVec 64) (m : BitVec 64) : BitVec 64 × BitVec 64 × BitVec 64 × BitVec 64 :=
  let x := sipRound (sipRound (v.1, v.2.1, v.2.2.1, v.2.2.2 ^^^ m))
  (x.1 ^^^ m, x.2)

/-- linehash (R339): SipHash-2-4 with key words i and 0 over the 32 bytes of a line. -/
def linehash (i : Nat) (ws : List Word) : BitVec 64 :=
  let k0 := BitVec.ofNat 64 i
  let v : BitVec 64 × BitVec 64 × BitVec 64 × BitVec 64 :=
    (k0 ^^^ 0x736F6D6570736575, 0x646F72616E646F6D, k0 ^^^ 0x6C7967656E657261, 0x7465646279746573)
  let w := fun (j : Nat) => BitVec.ofNat 64 ((ws.getD (2 * j) 0).toNat + (ws.getD (2 * j + 1) 0).toNat * 2 ^ 32)
  let a := [w 0, w 1, w 2, w 3, (0x2000000000000000 : BitVec 64)].foldl sipWord v
  let f := sipRound (sipRound (sipRound (sipRound (a.1, a.2.1, a.2.2.1 ^^^ 0xFF, a.2.2.2))))
  f.1 ^^^ f.2.1 ^^^ f.2.2.1 ^^^ f.2.2.2

/-- EXPECT where the digest engine is on. -/
def Mach.digExpect (s : Mach) : Option Nat :=
  let c := s.reg 0x6_8010
  if bit c 31 && fld c 28 0 != 0 then some (fld c 28 0) else none

/-- A STEP whose digest replica comparison forms (R426). -/
def Mach.cmpStepOk (s : Mach) (step : Word) : Bool :=
  let c := s.reg 0x6_8030
  if bit c 31 && fld c 30 16 != 0 then step.toNat % fld c 30 16 == 0 else true

/-- RANK. -/
def Mach.rank (s : Mach) : Nat := fld (s.reg 0x6_8000) 21 16

/-- The root takes a package's final digest (R342, R427): one counts for each package and STEP, the one that the package reported last (R425). -/
def Mach.addReport (s : Mach) (r : DigestAt) : Mach :=
  { s with itg := { s.itg with reports := (s.itg.reports.filter fun x => !(x.pkg == r.pkg && x.step == r.step)) ++ [r] } }

/-- The package's digest becomes final (R341, R427): the registers take it, the event is raised, and the package reports it to the root of the comparison, on the
control lane where the root is another package. -/
def Mach.digestFinal (s : Mach) : Mach :=
  let d := s.dig
  let s1 := { s with dig := { d with busy := false, run := 0, lines := 0, isFinal := true, closed := true, finStep := d.step, fin := d.run } }
  let s2 := s1.raise 0x007 d.step 0
  let c := s.reg 0x6_8030
  if !(bit c 31) || fld c 30 16 == 0 then s2
  else if fld c 15 8 == s.pkgIdx then s2.addReport { rank := s.rank, step := d.step.toNat, pkg := s.pkgIdx, dig := d.run, lines := d.lines }
  else s2.ctlTo (fld c 15 8) (.digest (fld c 15 8) { rank := s.rank, step := d.step.toNat, pkg := s.pkgIdx, dig := d.run })

/-- Lines for a digest that is already final: OVER, and the step alarm. -/
def Mach.digestOver (s : Mach) : Mach := ({ s with dig := { s.dig with ovr := true } }).alarm 0

/-- Add line hashes to the running digest of a STEP (R340, R341). -/
def Mach.digestAdd (s : Mach) (step : Word) (hs : List (BitVec 64)) : Mach :=
  match s.digExpect with
  | none => s
  | some ex =>
    if !(s.cmpStepOk step) then s
    else if s.dig.closed && s.dig.finStep == step then s.digestOver
    else
      let d := s.dig
      let fresh := !d.busy || d.step != step
      let older := d.busy && decide (2 ^ 31 ≤ (step - d.step).toNat)
      if older then s
      else
        let d1 : Digest := if fresh then { d with busy := true, incomp := d.incomp || d.busy, lines := 0, run := 0, step := step } else d
        let k := min hs.length (ex - d1.lines)
        let s1 := { s with dig := { d1 with lines := d1.lines + k, run := (hs.take k).foldl (fun a h => a + h) d1.run } }
        let s2 := if d1.lines + k = ex then s1.digestFinal else s1
        if k < hs.length then s2.digestOver else s2

/-! ## Snapshots (R322 to R324) -/

/-- The extents of TRW_SNAPX_e, with the place that the parity of PTILE selects (R323). -/
def Mach.snapExtents (s : Mach) : List (Nat × Nat) :=
  (upTo 64).filterMap fun e =>
    let w := fun (k : Nat) => s.reg (0x7_0400 + 32 * e + 4 * k)
    let c := w 5
    if bit c 31 then
      let b := bit c 30 && (s.tile (fld c 12 0)).tm.p
      let a := s.pair (0x7_0400 + 32 * e + if b then 8 else 0)
      some (a, fld (w 4) 23 0 + 1)
    else none

/-- Destination buffer b. -/
def Mach.snapDst (s : Mach) (b : Nat) : Nat := s.pair (0x7_0208 + 8 * b)

/-- Start a snapshot: its mover is held where it is free. -/
def Mach.startSnap (s : Mach) (step : Word) (dst : Nat) (buf : Option Nat) (cmd : Option Cmd) : Mach :=
  let m := fld (s.reg 0x7_0200) 20 16
  let sn : Snap := { step := step, dst := dst, buf := buf, exts := s.snapExtents, start := s.clk.tb.toNat, mover := m, cmd := cmd }
  let s1 := { s with trw := { s.trw with snap := some sn } }
  if s1.moverBusy m then s1
  else s1.startXfer m { user := .snap cmd, src := 0, dst := dst, n := sn.exts.foldl (fun a x => a + x.2) 0 }

/-- Copy at most lim lines of the extents to a destination, forming the copy digest (R323): lines copied, digest, and the first failure. -/
def Mach.snapCopy (dst : Nat) (hostErr : Bool) (lim : Nat) : List Nat → Nat → BitVec 64 → Mach → Mach × BitVec 64 × Option (Nat × Nat)
  | [], _, g, s => (s, g, none)
  | a :: r, i, g, s =>
    if lim ≤ i then (s, g, none)
    else match s.devRead a 8 true hostErr with
      | .err c => (s, g, some (c, a))
      | .bad => ((s.countBad a).alarm 1, g, some (8, a))
      | .ok ws =>
        let w := (s.countSoft a 8).devWrite (dst + 32 * i) ws true hostErr
        match w.2 with
        | some c => (w.1, g, some (c, dst + 32 * i))
        | none => Mach.snapCopy dst hostErr lim r (i + 1) (g + linehash i ws) w.1

/-- The mover of a snapshot runs it: it copies. -/
def Mach.snapRuns (s : Mach) (x : Snap) : Bool :=
  match (s.mover x.mover).xfer with | some y => (match y.user with | .snap _ => true | _ => false) | none => false

/-- The lines of a snapshot's extents, by device address. -/
def Snap.srcs (x : Snap) : List Nat := x.exts.flatMap fun e => (upTo e.2).map fun m => e.1 + 32 * m

/-- Some line that a snapshot is to copy lies in a stack that takes no new requests, or goes there (R296). -/
def Mach.snapWaits (s : Mach) (x : Snap) : Bool := (x.exts.any fun e => s.rangeWaits e.1 e.2) || s.rangeWaits x.dst (x.srcs.length + 2)

/-- A commit mark stops the copy of a snapshot at once (R324): it has then copied a number of lines that the spec leaves open. -/
def Mach.snapTear (s : Mach) : Mach :=
  match s.trw.snap with
  | none => s
  | some x =>
    if x.torn.isSome then s
    else
      let f := s.freeWords 1
      let lim := if s.snapRuns x && !(s.snapWaits x) then (f.1.headD 0).toNat % (x.srcs.length + 1) else 0
      let r := Mach.snapCopy x.dst false lim x.srcs 0 0 f.2
      { r.1 with trw := { r.1.trw with snap := some { x with torn := some r.2 } } }

/-- A commit mark that is counted (R322): every N-th starts a snapshot, or counts in MISSED while one copies; a copy that runs is torn. -/
def Mach.snapMark (m : Mach) (step : Word) : Mach :=
  let s := m.snapTear
  let c := s.reg 0x7_0200
  if bit c 31 && fld c 15 0 != 0 then
    let k := s.trw.marks + 1
    let s1 := { s with trw := { s.trw with marks := k } }
    if k % fld c 15 0 != 0 then s1
    else if s1.trw.snap.isSome then { s1 with trw := { s1.trw with missed := satTo 0xFFFF (s1.trw.missed + 1) } }
    else
      let b := match s1.trw.good with | none => 0 | some g => 1 - g
      s1.startSnap step (s1.snapDst b) (some b) none
  else s

/-- TRW_SNAPSTAT. -/
def Mach.snapStat (s : Mach) : Word :=
  mkWord [(31, b2n s.trw.snap.isSome), (29, s.trw.result), (28, s.trw.buf), (0, s.trw.missed)]

/-- A snapshot stops and writes its trailer (R323, R324): one that no commit mark has stopped copies every line first. -/
def Mach.snapEnd (s : Mach) (hostErr : Bool) (poison : Bool := false) : Mach :=
  match s.trw.snap with
  | none => s
  | some x =>
    let held := (s.mover x.mover).xfer.isNone || s.snapRuns x
    if !held || s.snapWaits x then s
    else
      let g := s.freeWords 2
      let srcs := x.srcs
      let r := match x.torn with
        | some p => (g.2, p.1, p.2)
        | none => Mach.snapCopy x.dst hostErr srcs.length srcs 0 0 g.2
      let res := if r.2.2.isSome then 2 else if x.torn.isSome then 1 else 0
      let pd : List Word := if s.dig.isFinal && s.dig.finStep == x.step then [s.dig.fin.setWidth 32, (s.dig.fin >>> 32).setWidth 32] else g.1
      let two := fun (n : Nat) => [BitVec.ofNat 32 n, BitVec.ofNat 32 (n / 2 ^ 32)]
      let tr : List Word := [x.step, BitVec.ofNat 32 res] ++ pd ++ two r.2.1.toNat ++ two x.start ++ two s.clk.tb.toNat ++ List.replicate 6 0
      let a := x.dst + 32 * srcs.length
      let s1 := (r.1.devWrite a (tr.take 8) true hostErr).1
      let s2 := (s1.devWrite (a + 32) (tr.drop 8) true hostErr).1
      let s3 := s2.updMover x.mover fun y => { y with xfer := none, err := res == 2, done := if res = 2 then y.done else satTo 0xFFFF (y.done + 1) }
      let s4 := { s3 with trw := { s3.trw with
        snap := none
        result := res
        buf := x.buf.getD s3.trw.buf
        good := if res = 0 && x.buf.isSome then x.buf else s3.trw.good } }
      let s5 := s4.raise 0x006 s4.snapStat x.step
      match x.cmd with
      | some c => (match r.2.2 with
          | some (code, addr) => s5.post c (failStatus code addr poison).1 (failStatus code addr poison).2 res
          | none => s5.post c 0 0 res)
      | none => s5

/-! ## Step marks (R316, R418, R419) -/

/-- MARKTILE of ITG_RPCFG. -/
def Mach.markTile (s : Mach) : Nat := fld (s.reg 0x6_0010) 12 0

/-- hx.smark reaches the hub (R316). -/
def Mach.smark (s : Mach) (n kind : Nat) (step : Word) : Mach :=
  let count := fun (m : Mach) => (m.winAdd (5 + kind) 1 : Mach)
  let total := fun (m : Mach) => { m with trw := { m.trw with outcome := SMap.upd 0 m.trw.outcome kind fun x => satTo 0xFFFFFFFF (x + 1) } }
  if kind = 0 then
    if s.trw.lastCommit = some step then s
    else
      let s1 := { (total (count s)) with itg := { s.itg with attempt := 1 } }
      ({ s1 with trw := { s1.trw with lastCommit := some step } }).snapMark step
  else
    let s1 := total (count s)
    if kind = 2 && n == s.markTile && s.itg.phase == .idle && s.itg.pendTrig.isNone then { s1 with itg := { s1.itg with pendTrig := some 0 } } else s1

/-! ## Queries (R319 to R321, R391, R392) -/

/-- TRW_QTGT_r. -/
def Mach.qtgt (s : Mach) (r : Nat) : Word := s.reg (0x7_0100 + 4 * r)

/-- A query completion for ring r. -/
def Mach.qPost (s : Mach) (r : Nat) (c : QCpl) : Mach :=
  { s with hq := { s.hq with qcpl := SMap.upd [] s.hq.qcpl r fun l => l ++ [c] } }

/-- A query ends without an answer: status, with the counts of an expired one. -/
def Mach.qEnd (s : Mach) (q : Query) (status : Nat) : Mach :=
  let s1 := { s with hq := { s.hq with queries := s.hq.queries.filter fun x => x.qid != q.qid } }
  let s2 := if status = 3 then ({ s1 with trw := { s1.trw with exp := SMap.upd 0 s1.trw.exp q.ring fun n => satTo 0xFFFF (n + 1) } }).winAdd 9 1 else s1
  s2.qPost q.ring { qid := some q.qid, tag := q.tag, lines := 0, status := status, deadline := q.deadline }

/-- QIDs in use: outstanding queries, and completions that are not yet written. -/
def Mach.qidUsed (s : Mach) (i : Nat) : Bool :=
  (s.hq.queries.any fun q => q.qid == i) || s.hq.qcpl.any fun x => x.2.any fun c => c.qid == some i

/-- The hub may fetch a query descriptor of ring r (R319, R378, R391): a QID is free, and its completion ring does not hold it. -/
def Mach.queryFetches (s : Mach) (r : Nat) : Bool :=
  let x := s.ring (32 + r)
  let held := s.ringEn (36 + r) && s.ringFull (36 + r) && !((s.hq.qcpl.get [] r).isEmpty)
  decide (r < 4) && s.ringEn (32 + r) && !x.stopped && x.head != x.tail && bit (s.qtgt r) 31 && !held && s.hostUp && (upTo 4096).any fun i => !(s.qidUsed i)

/-- The fetch of a query descriptor fails (R371, R380): its ring stops. -/
def Mach.queryFetchFails (s : Mach) (r : Nat) : Mach :=
  if s.queryFetches r then (s.updRing (32 + r) fun y => { y with stopped := true }).hqError 4 (32 + r) 0 else s

/-- Fetch a query descriptor of ring r (R319, R378, R391, R392). -/
def Mach.queryFetch (s : Mach) (r : Nat) : Mach :=
  let k := 32 + r
  let x := s.ring k
  if !(s.queryFetches r) then s
  else match (upTo 4096).find? fun i => !(s.qidUsed i) with
    | none => s
    | some i =>
      let d := s.hostWords (s.ringBase k + 32 * x.head) 8
      let w := fun (j : Nat) => d.getD j 0
      let s1 := s.updRing k fun y => { y with head := (y.head + 1) % s.ringSize k }
      let q : Query := { qid := i, ring := r, tag := w 0, plen := fld (w 1) 10 0, cap := fld (w 1) 27 16 + 1,
                         deadline := (w 2).toNat + (w 3).toNat * 2 ^ 32, paddr := (w 4).toNat + fld (w 5) 15 0 * 2 ^ 32, aaddr := (w 6).toNat + fld (w 7) 15 0 * 2 ^ 32 }
      let badBits := fld (w 1) 15 11 != 0 || fld (w 1) 31 28 != 0 || fld (w 5) 31 16 != 0 || fld (w 7) 31 16 != 0
      if badBits || q.plen == 0 || q.paddr % 32 != 0 || q.aaddr % 32 != 0 then s1.qEnd q 5
      else if q.deadline ≤ s.clk.tb.toNat then s1.qEnd q 3
      else { s1 with hq := { s1.hq with queries := s1.hq.queries ++ [q] } }

/-- The head query of a ring that waits for delivery. -/
def Mach.qHead (s : Mach) (r : Nat) : Option Query := s.hq.queries.find? fun q => q.ring == r && !q.delivered

/-- The head that is delivered next: the earliest deadline, ties to the lower ring. -/
def Mach.qNext (s : Mach) : Option Query :=
  ((upTo 4).filterMap fun r => s.qHead r).foldl (fun b q => match b with | some x => if q.deadline < x.deadline then some q else b | none => some q) none

/-- Read the payload lines of a query. -/
def Mach.qPayload (s : Mach) (a : Nat) (err : Bool) : Nat → Nat → Option (List (List Word))
  | 0, _ => some []
  | n + 1, m =>
    match s.devRead (a + 32 * m) 8 true err with
    | .ok ws => (Mach.qPayload s a err n (m + 1)).map fun r => ws :: r
    | _ => none

/-- The size of the intake queue of ring r. -/
def Mach.qSize (s : Mach) (r : Nat) : Nat := rqSize ((s.tile (fld (s.qtgt r) 12 0)).rqe (fld (s.qtgt r) 19 16))

/-- The hub's message to the intake queue of ring r. -/
def Mach.hubMsg (s : Mach) (r : Nat) (k : MsgKind) : Msg :=
  { kind := k, spkg := 0xFF, stile := 0x1FFF, ch := r, dpkg := s.pkgIdx, dtile := fld (s.qtgt r) 12 0, dq := fld (s.qtgt r) 19 16 }

/-- Deliver the next query as a ring record (R266, R320, R392): against credit, with a pad first where needed; one whose deadline has come expires. -/
def Mach.queryDeliver (s : Mach) (readErr : Bool) : Mach :=
  match s.qNext with
  | none => s
  | some q =>
    let r := q.ring
    let need := 8 * (q.plen + 2)
    let size := s.qSize r
    if q.deadline ≤ s.clk.tb.toNat then s.qEnd q 3 else
    let c := s.qch.get {} r
    let s0 := if !c.closed && c.place size need == 2 then
        ({ s with qch := s.qch.put r { c with tail := 0, credit := c.credit - (size - c.tail) } }).sendMsg { s.hubMsg r .pad with words := size - c.tail }
      else s
    let c1 := s0.qch.get {} r
    if c1.closed || c1.place size need != 1 then s0
    else match s0.qPayload q.paddr readErr q.plen 0 with
      | none => (Mach.countRead q.plen q.paddr s0).qEnd q 6
      | some ls =>
        let l0 : List Word := [BitVec.ofNat 32 q.qid, BitVec.ofNat 32 r, BitVec.ofNat 32 q.deadline, BitVec.ofNat 32 (q.deadline / 2 ^ 32), BitVec.ofNat 32 q.cap, 0, 0, 0]
        let s1 := { s0 with
          qch := s0.qch.put r { c1 with tail := (c1.tail + need) % size, credit := c1.credit - need, seq := (c1.seq + 1) % 2 ^ 16 }
          hq := { s0.hq with queries := s0.hq.queries.map fun (x : Query) => if x.qid == q.qid then { x with delivered := true } else x } }
        (Mach.countRead q.plen q.paddr s1).sendMsg { s1.hubMsg r .record with lines := l0 :: ls, seq := c1.seq, tag := q.qid, words := need }

/-- A query still waiting for credit at its deadline expires (R320). -/
def Mach.queryExpire (s : Mach) (r : Nat) : Mach :=
  match s.qHead r with
  | some q => if q.deadline ≤ s.clk.tb.toNat then s.qEnd q 3 else s
  | none => s

/-- Every outstanding query is aborted (R321). -/
def Mach.abortQueries (s : Mach) : Mach := s.hq.queries.foldl (fun m q => m.qEnd q 4) s

/-- Copy the lines of an answer (R321): the machine, and whether every line went. -/
def Mach.answerLines (a : Nat) : List (List Word) → Nat → Mach → Mach × Bool
  | [], _, s => (s, true)
  | x :: r, m, s =>
    let w := s.devWrite (a + 32 * m) x true false
    if w.2.isSome then (w.1, false) else Mach.answerLines a r (m + 1) w.1

/-- hx.qans reaches the hub (R321). -/
def Mach.queryAnswer (s : Mach) (n qid k line l : Nat) : Mach :=
  match s.hq.queries.find? fun q => q.qid == qid with
  | none => s.raise 0x008 (BitVec.ofNat 32 qid) 0
  | some q =>
    let m := min k q.cap
    let x := (s.tile n).hubLines (8 * line) m l
    let s0 := s.putTile n x.2
    let r := match x.1 with
      | .ok ls => Mach.answerLines q.aaddr ls 0 s0
      | .error _ => (s0, false)
    let s1 := { r.1 with hq := { r.1.hq with queries := r.1.hq.queries.filter fun x => x.qid != qid } }
    let st := if !r.2 then 6 else if q.cap < k then 2 else 0
    s1.qPost q.ring { qid := some qid, tag := q.tag, lines := if r.2 then m else 0, status := st, deadline := q.deadline }

/-- Write a query completion once its ring has room (R377, R392): the answer time is the timebase now (DEDUCED, log entry 29). -/
def Mach.queryWrite (s : Mach) (r : Nat) : Mach :=
  match s.hq.qcpl.get [] r with
  | [] => s
  | c :: rest =>
    if decide (4 ≤ r) || !(s.ringTakes (36 + r)) then s
    else
      let tb := s.clk.tb.toNat
      let late := c.status == 0 && decide (c.deadline ≤ tb)
      let st := if late then 1 else c.status
      let s1 := { s with hq := { s.hq with qcpl := s.hq.qcpl.put r rest } }
      let s2 := if late then ({ s1 with trw := { s1.trw with late := SMap.upd 0 s1.trw.late r fun n => satTo 0xFFFF (n + 1) } }).winAdd 8 1 else s1
      s2.writeEntry (36 + r) [c.tag, mkWord [(16, c.lines), (0, st)], BitVec.ofNat 32 tb, BitVec.ofNat 32 (tb / 2 ^ 32)]

end Sys2Proof.Machine
end

