-- ==== Sys2Proof/Machine/Queues.lean ====
section
/-! DEFINITION. Queued instructions (R42 to R45, R133, R229, R246, R254, R308, R309): how a command enters its engine's queue, leaves it, and runs; the
hx. requests of a tile at the hub (R254, R295, R308 to R311, R316, R321, R340, R399, R475). -/

namespace Sys2Proof.Machine

/-! ## hx. requests -/

/-- The signal of an hx. command's completion (R243). -/
def Mach.hxDone (s : Mach) (n : Nat) (sig : Option Nat) (cyc : Nat) : Mach :=
  match sig with
  | none => s
  | some c => s.updTile n fun t => t.signal c (2 ^ 13 + 8) cyc

/-- An hx. request that ends with error status: the die's hb. error record, with an address that the spec does not give (DEDUCED, log entry 32). -/
def Mach.hxError (s : Mach) (n code pc : Nat) : Mach :=
  let r := s.freeWords 2
  r.2.hbError n code pc ((r.1.getD 0 0).toNat + (r.1.getD 1 0).toNat % 2 ^ 16 * 2 ^ 32)

/-- Word k of a descriptor. -/
def dv (d : List Word) (k : Nat) : Word := d.getD k 0

/-- Word k of a descriptor, as a number. -/
def dw (d : List Word) (k : Nat) : Nat := (d.getD k 0).toNat

/-- The descriptor of an hx.move keeps its layout (R295). -/
def Mach.moveOk (s : Mach) (d : List Word) : Bool :=
  let k := fld (dv d 5) 9 8
  let src := dw d 0 + dw d 1 * 2 ^ 32
  let dst := dw d 2 + dw d 3 * 2 ^ 32
  let tl := fld (dv d 6) 12 0
  decide (dw d 1 < 2 ^ 16) && decide (dw d 3 < 2 ^ 16) && src % 32 == 0 && dst % 32 == 0 && decide (dw d 4 < 2 ^ 28)
    && (dw d 5 == fld (dv d 5) 4 0 + k * 2 ^ 8) && k != 3 && dw d 7 == 0
    && (if k = 1 then decide (dw d 6 < 2 ^ 10)
        else if k = 2 then dw d 6 == tl + fld (dv d 6) 19 16 * 2 ^ 16 && s.tileExists tl && !(s.unavail tl) && (s.tile tl).tsq.inJob
        else dw d 6 == 0)

/-- hx.move in cycle l (R295). -/
def Mach.runMove (s : Mach) (n : Nat) (w : IWord) (pc l : Nat) : Mach :=
  let x := (s.tile n).hubRead (8 * fld w 17 3) 8 l
  let s := s.putTile n x.2
  match x.1 with
  | .error c => s.hxError n c pc
  | .ok d =>
    if s.moveOk d then
      s.startXfer (fld (dv d 5) 4 0)
        { user := .tile n (iSig w) pc, src := dw d 0 + dw d 1 * 2 ^ 32, dst := dw d 2 + dw d 3 * 2 ^ 32, n := dw d 4 + 1, sigk := fld (dv d 5) 9 8,
          gsc := fld (dv d 6) 9 0, stile := fld (dv d 6) 12 0, ctr := fld (dv d 6) 19 16 }
    else s.hxError n 7 pc

/-- hx.loss (R308, R311, R312). -/
def Mach.runLoss (s : Mach) (n : Nat) (w : IWord) (pc l : Nat) : Mach :=
  let x := (s.tile n).hubRead (fld w 17 0) 1 l
  let s := s.putTile n x.2
  let s1 := match x.1 with
    | .ok ws => s.lossIn (ws.getD 0 0) ((s.tile n).stepAt l)
    | .error c => (s.hxError n c pc).alarm 6
  s1.hxDone n (iSig w) l

/-- hx.gate (R309, R310): its word is written through port 7. -/
def Mach.runGate (s : Mach) (n : Nat) (w : IWord) (pc l : Nat) : Mach :=
  let t := s.tile n
  let a := fld w 17 0
  if t.segOn a then
    let t1 := t.yieldWrite 7 a [s.gateWord (t.stepAt l) (t.asOf l).cnt.nfStep] l
    (s.putTile n t1).hxDone n (iSig w) (t1.quiet 7 l)
  else s.hxError n 3 pc

/-- The descriptor of an hx.dig has a nonzero bit where 0 is required (R340). -/
def digBad (d : List Word) : Bool :=
  !(decide (dw d 0 < 2 ^ 9) && decide (dw d 1 < 2 ^ 15) && decide (dw d 2 < 2 ^ 15) && decide (dw d 4 < 2 ^ 4) && dw d 5 == 0 && dw d 6 == 0 && dw d 7 == 0)

/-- hx.dig (R340, R341): the errors that add nothing; otherwise the line hashes of its lines. In a kernel run, handle 255 of the descriptor is the kernel's
argument handle (R47). -/
def Mach.runDig (s : Mach) (n : Nat) (q : QCmd) (l : Nat) : Mach :=
  let t := s.tile n
  let w := q.w
  let pc := q.pc
  let x := t.hubRead (8 * fld w 17 3) 8 l
  let s := s.putTile n x.2
  match x.1 with
  | .error c => s.hxError n c pc
  | .ok d =>
    if digBad d then s.updTile n fun t => t.fault 0x01 0 8 pc l (w.toNat % 2 ^ 32) (w.toNat / 2 ^ 32)
    else
      let k := fld (dv d 2) 14 0 + 1
      let h := fld (dv d 0) 7 0
      let p := resolve t.tab.handles (t.pAt l) (if q.cuff && h == 255 then q.arg else h) (bit (dv d 0) 8) (fld (dv d 1) 14 0)
      match ((upTo k).filterMap fun m => p.refusal 0xAAAAAAAA (8 * (p.loff + m)) 8 false).head? with
      | some (c, d0, d1) => s.updTile n fun t => t.fault c 0 8 pc l d0 d1
      | none =>
        let a := p.base + 8 * p.loff
        let base := dw d 3 + fld (dv d 4) 3 0 * 2 ^ 32
        let y := (s.tile n).hubLines a k l
        let s := s.putTile n y.2
        match y.1 with
        | .error c => s.hxError n c pc
        | .ok ls => (s.digestAdd (t.stepAt l) ((numbered ls).map fun z => linehash (base + z.1) z.2)).hxDone n (iSig w) l

/-- hx.idle (R475): the package keeps the earliest deadline. -/
def Mach.runIdle (s : Mach) (n : Nat) (w : IWord) (l : Nat) : Mach :=
  let dl := s.clk.tb.toNat + 1000 * fld w 41 18
  let h := match s.pw.hint with | some x => min x dl | none => dl
  ({ s with pw := { s.pw with hint := some h } }).hxDone n (iSig w) l

/-- An hx. request reaches the hub (R254, R308). -/
def Mach.runHx (s : Mach) (n : Nat) (q : QCmd) (l : Nat) : Mach :=
  let w := q.w
  let pc := q.pc
  let g := fld w 41 32
  match iOp w with
  | 0x10 => (s.gscSignal g n).hxDone n (iSig w) l
  | 0x11 => (s.updGsc g fun x => { x with waiters := insSorted n x.waiters }).updTile n fun t => { t with gwait := some (g, iSig w, pc) }
  | 0x12 =>
    let r := s.gscDebit g
    let s1 := if r.2 && !(bit (s.gscCfg g) 16) then r.1.updTile n fun t => t.fault 0x48 0 8 pc l (g + 2 ^ 16) 0 else r.1
    s1.hxDone n (iSig w) l
  | 0x18 => s.runMove n w pc l
  | 0x19 => (s.raise (0x1C0 + fld w 41 36) (BitVec.ofNat 32 (fld w 35 20)) (BitVec.ofNat 32 (n % 2 ^ 13 + 2 ^ 31))).hxDone n (iSig w) l
  | 0x20 => s.runLoss n w pc l
  | 0x21 => s.runGate n w pc l
  | 0x22 => (s.smark n (fld w 41 40) ((s.tile n).stepAt l)).hxDone n (iSig w) l
  | 0x28 => s.runDig n q l
  | 0x30 => (s.queryAnswer n (fld w 41 30) (fld w 29 18 + 1) (fld w 17 3) l).hxDone n (iSig w) l
  | 0x38 => s.runIdle n w l
  | _ => s

/-- The head of a tile's hx. queue could leave now, its own wait apart (R254, R295, R309). -/
def Mach.hxReady (s : Mach) (n : Nat) (q : QCmd) : Bool :=
  let t := s.tile n
  t.gwait.isNone &&
    (match iOp q.w with
     | 0x18 => (match (t.hubRead (8 * fld q.w 17 3) 8 s.clk.aclk).1 with
         | .ok d => !(s.moveOk d) || !(s.moverBusy (fld (dv d 5) 4 0))
         | .error _ => true)
     | 0x21 => t.allIdle && ((t.eng 7).waiting.all fun x => decide (q.cyc < x.cyc)) && t.hb.all fun h => decide (q.cyc < h.cyc)
     | _ => true)

/-- Whether the hx. head of a tile, if any, could leave. -/
def Mach.hxHead (s : Mach) (n : Nat) : Bool := match ((s.tile n).eng 8).waiting with | q :: _ => s.hxReady n q | [] => false

/-- The hb. and hx. queues of a tile whose heads could leave as far as the HBM engines (R289) and the hub (R254) are concerned. -/
def Mach.extReady (s : Mach) (n : Nat) : List Nat :=
  (if (s.hbFree (dieOf n)).isEmpty then [] else [7]) ++ (if s.hxHead n then [8] else [])

/-! ## Queues -/

/-- A command of the hb. queue that an HBM engine takes in its leave cycle (R289 to R291): hb.ptr and hb.dev load their register, complete and signal at once. -/
def Mach.runHbQueue (s : Mach) (n : Nat) (j : Job) : Mach :=
  let w := j.q.w
  let r := s.hbTake n
  match iOp w with
  | 0x01 => (r.2.updTile n fun t => t.setPtr 7 (fld w 41 40) j.q.ptr).hbSignal n r.1 (iSig w) j.l
  | 0x02 => (r.2.updTile n fun t => { t with dev := t.dev.put (fld w 41 40) (BitVec.ofNat 64 (fld w 38 0 * 2 ^ 9)) }).hbSignal n r.1 (iSig w) j.l
  | _ => r.2.updTile n fun t => t.runHb j r.1

/-- A command from its leave cycle on. -/
def Mach.runQueued (s : Mach) (n : Nat) (j : Job) : Mach :=
  let w := j.q.w
  match iEng w, iOp w with
  | 6, 0x10 => s.runXcSend n j
  | 6, 0x11 => s.updTile n fun t => t.runXcRecv j
  | 6, 0x20 | 6, 0x21 | 6, 0x22 | 6, 0x24 | 6, 0x25 => s.runChan n w j.q.pc j.l
  | 7, _ => s.runHbQueue n j
  | 8, _ => s.runHx n j.q j.l
  | _, _ => s.updTile n fun t => t.runSync j

/-- The head of a queue leaves in cycle l. -/
def Mach.leave (s : Mach) (n eng : Nat) (q : QCmd) (l : Nat) : Mach :=
  (s.updTile n fun t => t.updEng eng fun e => { e with waiting := e.waiting.drop 1, leaves := e.leaves ++ [l] }).runQueued n
    { q := q, env := s.env n, l := l }

/-- Heads without a wait leave one after the other; g is a cycle before which none does. -/
def Mach.pumpGo (n eng g : Nat) : Nat → Mach → Mach
  | 0, s => s
  | k + 1, s =>
    match ((s.tile n).eng eng).waiting with
    | [] => s
    | q :: _ =>
      if iWaiten q.w || (decide (7 ≤ eng) && !((s.extReady n).contains eng)) || (s.tile n).stoppedAt ((s.tile n).leaveCyc q g) then s
      else Mach.pumpGo n eng g k (s.leave n eng q ((s.tile n).leaveCyc q g))

/-- Let the heads of an engine's queue leave that can. -/
def Mach.pump (s : Mach) (n eng g : Nat) : Mach := Mach.pumpGo n eng g ((s.tile n).eng eng).waiting.length s

/-- A tile's hb. queue has a head that an HBM engine could take now. -/
def Mach.hbHead (s : Mach) (n : Nat) : Bool :=
  match ((s.tile n).eng 7).waiting with
  | q :: _ => !(iWaiten q.w) && !((s.tile n).stoppedAt ((s.tile n).leaveCyc q s.clk.aclk))
  | [] => false

/-- The tile of a die that the HBM engines serve next (R289): round robin by tile. -/
def Mach.hbNext (s : Mach) (d : Nat) : Option Nat :=
  let l := (s.tiles.filter fun x => dieOf x.1 == d && s.hbHead x.1).map fun x => x.1
  match l.filter fun n => decide ((s.die d).hbLast < n) with
  | n :: _ => some n
  | [] => l.head?

/-- The HBM engines of a die take up to k commands that wait for them. -/
def Mach.pumpHbGo (d : Nat) : Nat → Mach → Mach
  | 0, s => s
  | k + 1, s =>
    match s.hbNext d with
    | none => s
    | some n => if (s.hbFree d).isEmpty then s else Mach.pumpHbGo d k (Mach.pumpGo n 7 s.clk.aclk 1 s)

/-- The HBM engines of a tile's die take the commands that wait for them, after one of them has moved or ended lines. -/
def Mach.pumpHb (s : Mach) (n : Nat) : Mach :=
  let d := dieOf n
  Mach.pumpHbGo d ((s.tiles.filter fun x => dieOf x.1 == d).foldl (fun a x => a + (x.2.eng 7).waiting.length) 0) s

/-- Let the hx. queue of a tile go on, after something that its head may have waited for. -/
def Mach.pumpHx (s : Mach) (n : Nat) : Mach := s.pump n 8 s.clk.aclk

/-- Let every hx. queue go on that holds a command. -/
def Mach.pumpAllHx (s : Mach) : Mach :=
  ((s.tiles.filter fun x => !((x.2.eng 8).waiting.isEmpty)).map fun x => x.1).foldl (fun m n => m.pumpHx n) s

/-- xc.send issues in cycle c (R229): it leaves in the next cycle, or faults. -/
def Mach.sendIssue (s : Mach) (n : Nat) (w : IWord) (c : Nat) : Mach :=
  let t := s.tile n
  let q := t.queued (s.pads n) w c none
  match t.sendTiming (s.extReady n) w (c + 1) with
  | some sub =>
    s.putTile n ((t.issued w c).fault 0x40 sub 6 t.pc (c + 1) (fld w 40 28 + b2n (bit w 41) * 2 ^ 13) 0)
  | none =>
    let t1 := t.issued w c
    let t2 := if iWaiten w then
        { t1 with lscs := SMap.upd {} t1.lscs (iWaitctr w) fun (l : Lsc) => { l.take (c + 1) 1 with rr := 7 } }
      else t1
    let t3 := t2.updEng 6 fun e => { e with waiting := [q] }
    if t3.stoppedAt (c + 1) then s.putTile n t3 else (s.putTile n t3).leave n 6 q (c + 1)

/-- A queued instruction is issued in cycle c. -/
def Mach.enqIssue (s : Mach) (n eng : Nat) (w : IWord) (c : Nat) (err : Option MulErr) : Mach :=
  let t := s.tile n
  let q := t.queued (s.pads n) w c err
  ((s.putTile n ((t.issued w c).updEng eng fun e => { e with waiting := e.waiting ++ [q] })).pump n eng 0)

/-- A queued instruction reaches the TSQ (R42, R44): it issues when its queue has room; a full hb. or hx. queue makes a stall. -/
def Mach.engOp (s : Mach) (n eng op : Nat) (w : IWord) (err : Option MulErr) : Mach :=
  let t := s.tile n
  match t.gate s.part.caps s.clk.aclk eng op w with
  | .idle => s
  | .faulted t => s.putTile n t
  | .go c =>
    if eng = 6 ∧ op = 0x10 then s.sendIssue n w c
    else match (t.eng eng).roomAt (engDepth eng) c with
      | none => if t.asyncQueue eng then s.updTile n fun t => t.hold (.stall eng) else s
      | some r =>
        if t.asyncQueue eng && r != c then s.updTile n fun t => t.hold (.stall eng)
        else if t.mayIssue w r then s.enqIssue n eng w r err
        else s

/-! ## Grants and completions -/

/-- A queue head leaves with its wait granted in a cycle (R246, R247). -/
def Mach.grantHead (s : Mach) (n eng cyc : Nat) : Mach :=
  match ((s.tile n).eng eng).waiting with
  | [] => s
  | q :: _ => ((s.leave n eng q ((s.tile n).leaveCyc q cyc)).pump n eng 0)

/-- The cycle update of a local counter grants waiters (R246, R247). -/
def Mach.lscGrant (s : Mach) (n c : Nat) : Mach :=
  let t := s.tile n
  let gs := t.granted (s.extReady n) c s.clk.aclk
  let cyc := maxOr s.clk.aclk ((t.lscs.get ({} : Lsc) c).cyc :: (if gs.any fun w => decide (w ≤ 1) then [t.idleFrom] else []))
  if gs.isEmpty || t.stoppedAt cyc then s
  else
    let s1 := s.updTile n fun t => t.grantCtx c gs cyc
    (gs.filter fun w => decide (2 ≤ w)).foldl (fun m w => m.grantHead n (w - 1) cyc) s1

/-- A synchronous engine's command reaches its completion cycle (R135); an hx.gate that waited may then leave. -/
def Mach.engComplete (s : Mach) (n eng : Nat) : Mach := (s.updTile n fun t => t.complete eng).pumpHx n

/-- A global counter grants the agent next in order (R253, R254): the count falls, and the tile's hx.gwait completes. -/
def Mach.gscGrant (s : Mach) (n : Nat) : Mach :=
  let g := s.gsc n
  if g.value = 0 then s
  else match g.next with
    | none => s
    | some a =>
      let s1 := s.updGsc n fun x => { x with value := x.value - 1, rr := a, waiters := x.waiters.erase a }
      match (s.tile a).gwait with
      | none => s1
      | some (_, sig, _) => ((s1.updTile a fun t => { t with gwait := none }).hxDone a sig s.clk.aclk).pumpHx a

end Sys2Proof.Machine
end

