-- ==== Sys2Proof/Machine/Job.lean ====
section
/-! DEFINITION. The job as a whole (R58, R59, R244, R271, R325, R347, R386, R387, R420, R421, R434, R493): its release, its stop, the restore of a replay, and
the reset of the tile domain. -/

namespace Sys2Proof.Machine

/-- The tiles of the loaded job. -/
def Mach.jobTiles (s : Mach) : List Nat := (s.tiles.filter fun x => x.2.tsq.inJob).map fun x => x.1

/-- Change every tile of the job. -/
def Mach.mapJob (s : Mach) (f : Nat → Tile → Tile) : Mach :=
  { s with tiles := s.tiles.map fun x => if x.2.tsq.inJob then (x.1, f x.1 x.2) else x }

/-- RWL fields of the job's blocks are locked: from START until UNLOAD (R90, R121, R257, R325, R347, R369, R434). -/
def Mach.locked (s : Mach) : Bool := match s.hq.job with | .running => true | .paused => true | .ended => true | _ => false

/-- JOBSTATE as a number (R386). -/
def JobState.num : JobState → Nat
  | .idle => 0
  | .loaded => 1
  | .running => 2
  | .paused => 3
  | .ended => 4

/-- A thermal trip holds (R470). -/
def Mach.tripped (s : Mach) : Bool := !(s.pw.trips.isEmpty) || s.hbms.any fun x => x.2.trip

/-! ## Start and restore -/

/-- The channel state at start, or at a restart (R271). -/
def Tile.channelStart (t : Tile) (restart : Bool) : Tile :=
  { t with
    rqs := (t.tab.rqe.filter fun x => rqOpens x.2).map fun x =>
      (x.1, ({ opn := true, rseq := if restart then (t.rq x.1).rseqSaved else 0, rseqSaved := if restart then (t.rq x.1).rseqSaved else 0 } : RecvQ))
    scs := (t.tab.sce.filter fun x => bit x.2 63).map fun x =>
      (x.1, ({ credit := fld x.2 36 20, seq := if restart then (t.sc x.1).seqSaved else 0, seqSaved := if restart then (t.sc x.1).seqSaved else 0 } : SendCh)) }

/-- What the start command and a replay restore set alike in a tile (R244, R305, R213, R421): counters, positions, queues, loop, phase, NFSTEP. -/
def Tile.clearRun (t : Tile) : Tile :=
  let t := t.now
  { t with
    pipe := []
    lscs := []
    rng := []
    slots := []
    sched := []
    gwait := none
    tfr := {}
    engs := []
    hb := []
    mxe := { t.mxe with e7head := 0, e7cnt := 0 }
    cnt := { t.cnt with nfStep := false }
    tsq := { t.tsq with halted := false, cuff := {}, mode := .off, retPend := false, queue := [], lineBuf := [], loop := none, phase := .compute, sr := 0 }
    tm := { t.tm with xguard := 0, xlen := 0, prevRel := none, commits := [], pend := none } }

/-- The release of a tile at a program position in a cycle, with SR = 0 (R58, R420). -/
def Tile.releaseAt (t : Tile) (pc : BitVec 17) (rel : Nat) : Tile :=
  { t with
    tsq := { t.tsq with started := true, halted := false, main := { pc := pc }, phase := .compute, sr := 0 }
    tm := { t.tm with relAt := some rel, nextIssue := rel } }

/-- The start command in a tile (R58, R97, R213, R271, R417). -/
def Tile.start (t : Tile) (step0 : Word) (rel : Nat) : Tile :=
  let x := (t.clearRun.channelStart false).releaseAt t.tsq.entryPc rel
  { x with tm := { x.tm with p := false, step := step0, repc := t.tsq.entryPc } }

/-- The restore of a replay restart in a tile (R421): it is not released yet. -/
def Tile.restore (t : Tile) : Tile :=
  let x := t.clearRun.channelStart true
  { x with tsq := { x.tsq with started := false, main := { pc := t.tm.repc } } }

/-- Reset every global counter with JOB = 1 (R253). -/
def Mach.resetJobGsc (s : Mach) : Mach :=
  let ns := ((s.regs.filter fun x => decide (0x4_0000 ≤ x.1) && decide (x.1 < 0x4_4000) && x.1 % 16 == 0 && bit x.2 18).map fun x => (x.1 - 0x4_0000) / 16)
  ns.foldl (fun m n => m.gscReset n) s

/-- The hub's channels of the query rings at start (R271, R320): credit for the whole intake queue (DEDUCED, log entry 30). -/
def Mach.startQueryChannels (s : Mach) : Mach :=
  { s with qch := ((upTo 4).filter fun r => bit (s.qtgt r) 31).map fun r => (r, ({ credit := s.qSize r } : SendCh)) }

/-- The trees' sync sequences return to 0 (R362). -/
def Mach.resetSeqs (s : Mach) : Mach :=
  { s with dil := { s.dil with trees := s.dil.trees.map fun x => (x.1, { x.2 with arr := [], sent := false, seq := 0 }) } }

/-- What the start command clears in the training-watch block (R306, R325), the digest engine (R347) and the integrity block (R434). -/
def Mach.startClears (s : Mach) : Mach :=
  let t := s.trw
  let s1 := { s with
    trw := { t with m := 0, v := 0, n := 0, got := false, step := 0, loss := 0, spike := false, approved := false, nf := false, seqerr := false, spkn := 0,
                    unappn := 0, nfs := [], outcome := [], lastCommit := none, missed := 0, marks := 0 }
    dig := {}
    itg := { s.itg with exhaust := false, trig := 0, attempt := 1, epoch := 1, nreplay := 0, stale := 0, cmpValid := false, verdict := 0, ncmp := 0, cmpStep := 0,
                        cmpMis := 0, reports := [], pendTrig := none, tblTiles := [], phase := .idle }
    dies := s.dies.map fun (x : Nat × Die) => (x.1, { x.2 with nfsum := [], hbDead := [] })
    pw := { s.pw with hint := none, point := if s.pw.armed.isSome then some s.clk.aclk else none } }
  s1.setReg 0x6_0000 0

/-- Every tile of the job starts in one cycle (R58); the START that did it answers. -/
def Mach.doStart (s : Mach) (c : Cmd) : Mach :=
  let rel := s.clk.aclk
  let s1 := (((s.startClears).resetJobGsc).resetSeqs).startQueryChannels
  let s2 := s1.mapJob fun n t => t.start (s.reg (cdc (dieOf n) 0x101_E008)) rel
  let s3 := { s2 with groups := [], flight := [], msgs := []
                      hq := { s2.hq with job := .running, stopReq := false, starter := some c, starting := none, jcBusy := false } }
  (s3.treesBegin).post c 0 0 0

/-- The restore of R421. -/
def Mach.doRestore (s : Mach) : Mach :=
  let bad := s.itg.tblTiles
  let s1 := s.mapJob fun n t =>
    let x := t.restore
    if bad.contains n then { x with tab := s.hq.copies.get x.tab n, badTab := [] } else x
  let s2 := ((s1.resetJobGsc).resetSeqs).startQueryChannels
  let s3 := { s2 with
    groups := [], flight := [], msgs := []
    dig := { s2.dig with busy := false, run := 0, lines := 0, closed := false }
    itg := { s2.itg with tblTiles := [], phase := .barrier }
    dies := s2.dies.map fun (x : Nat × Die) => (x.1, { x.2 with hbDead := [], wdogx := [] }) }
  s3.setReg 0x6_0000 0

/-- The tiles are released at REPC (R420). -/
def Mach.doResume (s : Mach) : Mach :=
  let rel := s.clk.aclk
  let s1 := s.mapJob fun _ t => t.releaseAt t.tm.repc rel
  let s2 := { s1 with
    itg := { s1.itg with phase := .idle, pendTrig := none }
    pw := { s1.pw with hint := none, point := if s1.pw.armed.isSome then some s1.clk.aclk else none }
    hq := { s1.hq with job := .running, restarting := none, jcBusy := if s1.hq.restarting.isSome then false else s1.hq.jcBusy
                       starter := if s1.hq.restarting.isSome then s1.hq.restarting else s1.hq.starter } }
  let s3 := s2.treesBegin
  match s.hq.restarting with
  | some c => s3.post c 0 0 0
  | none => s3

/-! ## Stop -/

/-- Queued commands and the Cuff queue of a tile are discarded, and it issues nothing (R386, R420). -/
def Tile.stopIssue (t : Tile) : Tile :=
  { t with
    engs := t.engs.map fun e => (e.1, { e.2 with waiting := [] })
    gwait := none
    tsq := { t.tsq with started := false, cuff := {}, mode := .off, retPend := false, queue := [], lineBuf := [] } }

/-- The job's tiles stop issue, and their global counter waits are withdrawn (R255). -/
def Mach.stopTiles (s : Mach) : Mach :=
  let ts := s.jobTiles
  let s1 := s.mapJob fun _ t => t.stopIssue
  { s1 with gscs := s1.gscs.map fun x => (x.1, { x.2 with waiters := x.2.waiters.filter fun a => !(ts.contains a) }) }

/-- A tile's synchronous engines and channel commands complete what they run. -/
def Tile.finishEngs (t : Tile) : Tile :=
  [1, 2, 3, 4, 5, 6, 16, 17].foldl (fun x k =>
    let rs := (x.eng k).running
    let y := x.updEng k fun e => { e with running := [] }
    rs.foldl (fun z r => match r.sig with | some c => z.signal c (2 ^ 13 + (if 16 ≤ k then 6 else k)) r.done | none => z) y) t

/-- The hb. command k of a tile completes, or ends with error status; one that waits on a stack that takes no new requests stays in flight. -/
def Mach.hbForce (s : Mach) (n k : Nat) : Mach :=
  let s1 := s.hbComplete n k
  if (s1.tile n).hb.length < (s.tile n).hb.length then s1 else s.hbFails n k false

/-- Every cycle in flight of the job's tiles is over. -/
def Mach.settleTiles (s : Mach) : Mach := s.jobTiles.foldl (fun m n => m.updTile n Tile.still) s

/-- Every in-flight command of the job's tiles ends that can: engines, hb. commands and hx.move transfers. -/
def Mach.drainJob (s : Mach) : Mach :=
  let ts := s.jobTiles
  let s1 := (s.mapJob fun _ t => t.finishEngs).settleTiles
  let s2 := ts.foldl (fun m n => ((upTo (m.tile n).hb.length).reverse).foldl (fun x k => x.hbForce n k) m) s1
  (upTo 32).foldl (fun m k =>
    match (m.mover k).xfer with
    | some x => (match x.user with | .tile _ _ _ => m.endXfer k false | _ => m)
    | none => m) s2

/-- An hb. command or an hx.move transfer of the job's tiles is in flight (R298). -/
def Mach.inFlight (s : Mach) : Bool :=
  (s.tiles.any fun x => x.2.tsq.inJob && !(x.2.hb.isEmpty)) ||
    s.movers.any fun x => match x.2.xfer with | some y => (match y.user with | .tile _ _ _ => true | _ => false) | none => false

/-- No command of the job's tiles is in flight (R420). -/
def Mach.quiet (s : Mach) : Bool :=
  (s.tiles.all fun x => !(x.2.tsq.inJob) || (x.2.hb.isEmpty && x.2.gwait.isNone && x.2.engs.all fun e => e.2.running.isEmpty && e.2.waiting.isEmpty)) &&
    s.movers.all fun x => match x.2.xfer with | some y => (match y.user with | .tile _ _ _ => false | _ => true) | none => true

/-- The job leaves RUNNING (R386, R387): queries are aborted, and the job-end entry is posted for the command that last released it. -/
def Mach.endJob (s : Mach) (st : JobState) (detail : Nat) : Mach :=
  let s1 := { s with hq := { s.hq with job := st }, itg := { s.itg with phase := .idle, pendTrig := none } }
  let s2 := s1.abortQueries
  match s.hq.starter with
  | some c => s2.postEntry c 0x1F 0 detail (s.trw.outcome.get 0 0)
  | none => s2

/-- Every tile stops as under ABORT, and its in-flight commands end. -/
def Mach.stopJob (s : Mach) : Mach :=
  let s1 := (s.stopTiles).drainJob
  { (s1.mapJob fun _ t => { t with tsq := { t.tsq with halted := true } }) with groups := [] }

/-- Every tile of the running job has halted, and what the tiles requested has ended (R59, R386, R418). -/
def Mach.jobHalted (s : Mach) : Bool :=
  s.hq.job == .running && s.itg.phase == .idle && s.itg.pendTrig.isNone && !(s.jobTiles.isEmpty) &&
    (s.tiles.all fun x => !(x.2.tsq.inJob) || x.2.tsq.halted) && s.quiet

/-! ## The tile domain (R90, R164, R188, R242, R252, R279, R299, R304) -/

/-- A tile after the reset of the tile domain: its memory and the configuration of R90 remain, and CDC_NUMSTAT_t is among
what it clears (DEDUCED, log entry 92). -/
def Tile.domainReset (t : Tile) : Tile := { mem := t.mem, bad := t.bad, soft := t.soft, cfg := t.cfg }

/-- Reset the tile domain. -/
def Mach.tileDomainReset (s : Mach) : Mach :=
  { s with
    tiles := s.tiles.map fun x => (x.1, x.2.domainReset)
    groups := []
    flight := []
    msgs := []
    dies := s.dies.map fun (x : Nat × Die) => (x.1, { x.2 with sgrpLast := [], wdogx := [], xdrop0 := 0, xdrop1 := 0, xdrop2 := 0, xdropn := 0, hberr := [], hbstall := [], hbDead := [] })
    regs := s.regs.filter fun x => !(decide (0x100_0000 ≤ x.1) && decide (x.1 < 0x200_0000) && decide (0x2000 ≤ x.1 % 0x40_0000) && decide (x.1 % 0x40_0000 < 0x2040)) }

/-- The segments that are on, of a mask. -/
def Tile.onSegs (t : Tile) (mask : Nat) : List Nat := (bitsSet 16 mask).filter fun g => fld t.cfg.seg (2 * g + 1) (2 * g) == 2

/-- Scrub segments of a tile (R92): zero words with valid check bits in those that are on. -/
def Tile.scrub (t : Tile) (mask : Nat) : Tile :=
  let on := t.onSegs mask
  let inSeg := fun (w : Nat) => on.contains (w / 0x4000)
  t.both fun t => { t with mem := t.mem.filter fun c => !(inSeg (c.1 / 4)), bad := t.bad.filter fun w => !(inSeg w), soft := t.soft.filter fun w => !(inSeg w) }

/-- UNLOAD (R493); PKGIDX then says that no job is loaded (DEDUCED, log entry 42). -/
def Mach.doUnload (s : Mach) (mask : Nat) : Mach :=
  let s1 := s.drainJob
  let ts := s1.jobTiles
  let s2 := (ts.foldl (fun m n => m.closeAll n) s1).abortQueries
  let s3 := s2.mapJob fun _ t => t.scrub mask
  let s4 := s3.tileDomainReset
  { s4 with hq := { s4.hq with job := .idle, stopReq := false, starter := none, starting := none, restarting := none, copies := [], ringLines := [], tpid := none }
            itg := { s4.itg with shards := [] }
            regs := s4.regs.put 0xB_0000 (s4.reg 0xB_0000 ||| 0xFF)
            qch := [] }

/-- ABORT (R386, R424): a restart in progress ends, tiles stop, the job becomes ENDED. -/
def Mach.doAbort (s : Mach) : Mach := (s.stopJob).endJob .ended 2

end Sys2Proof.Machine
end

