-- ==== Sys2Proof/Machine/Power.lean ====
section
/-! DEFINITION. Clocks, power states, thermal control and resets of the hub (R458 to R479, R514 to R517), and the stacks' thermal states (R296, R297). -/

namespace Sys2Proof.Machine

/-! ## Operating points (R464 to R467) -/

/-- Change the power manager's state. -/
def Mach.updPw (s : Mach) (f : Pw → Pw) : Mach := { s with pw := f s.pw }

/-- C_max: CRP_ACLKMAX, or the code at which R467 holds it. -/
def Mach.cMax (s : Mach) : Nat := match s.pw.held with | some c => c | none => fld (s.reg 0x3_0004) 2 0

/-- The target code (R465). -/
def Mach.target (s : Mach) : Nat := max s.pw.cth (max s.pw.ccap s.cMax)

/-- 10 ms have passed since the previous change. -/
def Mach.mayRise (s : Mach) : Bool := match s.pw.lastChange with | none => true | some t => decide (t + 10000000 ≤ s.clk.tb.toNat)

/-- The voltage is rising for a change up (VPEND). -/
def Mach.vpend (s : Mach) : Bool := s.clk.aclkOn && decide (s.target < s.clk.code) && s.pw.armed.isNone && s.mayRise

/-- CRP_ACLKSTAT. -/
def Mach.aclkStat (s : Mach) : Word :=
  let t := s.target
  mkWord [(31, b2n s.pw.armed.isSome), (30, b2n s.vpend), (24, t), (20, s.pw.cth), (19, b2n (t != 0 && s.cMax == t)), (18, b2n (s.pw.lim != 0)),
          (17, b2n (t != 0 && s.pw.ccap == t)), (16, b2n (t != 0 && s.pw.cth == t)), (0, s.clk.code)]

/-- CRP_PCAP. -/
def Mach.pcap (s : Mach) : Word := mkWord [(8, s.pw.lim), (4, s.pw.ccap), (0, fld (s.reg 0x3_0008) 1 0)]

/-- CRP_PWR. -/
def Mach.pwrReg (s : Mach) : Word := mkWord [(16, s.pw.lastPeak % 2 ^ 16), (0, s.pw.avg % 2 ^ 16)]

/-- The level events of the ceilings (sources 0x191 and 0x192). -/
def Mach.ceilLevels (s : Mach) : Mach :=
  (s.level 0x191 (decide (s.cMax < s.pw.cth)) s.aclkStat 0).level 0x192 (decide (s.cMax < s.pw.ccap) || s.pw.lim != 0) s.pcap s.pwrReg

/-- After a change of a ceiling: a new target replaces an armed change (R467). -/
def Mach.retarget (s : Mach) (old : Nat) : Mach :=
  (if s.target = old then s else s.updPw fun p => { p with armed := none, point := none }).ceilLevels

/-- A change of ceilings or caps. -/
def Mach.setCeil (s : Mach) (f : Pw → Pw) : Mach := (s.updPw f).retarget s.target

/-- The voltage and the idle VCO are ready (R465 steps 1 and 2): the change is armed. -/
def Mach.armChange (s : Mach) : Mach :=
  let t := s.target
  let c := s.clk.code
  if !(s.clk.aclkOn) || s.pw.armed.isSome || t == c then s
  else if c < t then s.updPw fun p => { p with armed := some t, point := none }
  else if s.mayRise then s.updPw fun p => { p with armed := some (c - 1), point := none }
  else s

/-- At a frequency point, which in a running job is the cycle of a release (R57), every die switches (R466); package states never apply it (R467) (DEDUCED, log entry 37). -/
def Mach.switchAclk (s : Mach) : Mach :=
  match s.pw.armed with
  | none => s
  | some c =>
    if s.pw.st != 0 || !(s.clk.aclkOn) || (s.hq.job == .running && s.pw.point != some s.clk.aclk) then s
    else
      let s1 := { s with clk := { s.clk with code := c }
                         pw := { s.pw with armed := none, point := none, lastChange := some s.clk.tb.toNat } }
      s1.raise 0x190 s1.aclkStat 0

/-- The regulator misses its voltage (R467) (DEDUCED, log entry 37). -/
def Mach.regulatorMiss (s : Mach) : Mach :=
  if s.vpend then
    let c := s.clk.code
    (s.setCeil fun p => { p with held := some c, armed := none }).raise 0x198 (BitVec.ofNat 32 (c - 1)) 0
  else s

/-! ## Thermal control (R468 to R470) -/

/-- CRP_TEMP_u. -/
def Mach.tempReg (s : Mach) (u : Nat) : Word :=
  mkWord [(31, b2n (s.pw.trips.contains u)), (8, s.pw.maxts.get 0 u), (0, s.pw.temps.get 0 u)]

/-- ACLK stops, hb. engines and bulk movers stop, and transfers in flight end with error status (R470, R517). The CODE of their records is not in the spec (DEDUCED, log entry 39). -/
def Mach.stopEngines (s : Mach) : Mach :=
  let s1 := { s with clk := { s.clk with aclkOn := false } }
  let s2 := s1.jobTiles.foldl (fun m n => (m.tile n).hb.foldl (fun x h =>
    let r := x.freeWords 1
    ((r.2.setHb n 0 none).hbError n ((r.1.headD 0).toNat % 16) h.pc (h.addr h.donelines)).updDie (dieOf n) fun y => { y with hbDead := y.hbDead ++ [(h.cyc, n)] }) m) s1
  (upTo 32).foldl (fun m k =>
    match (m.mover k).xfer with
    | none => m
    | some x =>
      let m1 := m.updMover k fun y => { y with xfer := none, err := true }
      match x.user with
      | .tile t _ pc =>
        let r := m1.freeWords 1
        r.2.hbError t ((r.1.headD 0).toNat % 16) pc x.src
      | .copy c => m1.post c 0x04 (x.src / 32 % 2 ^ 32) 0
      | .snap (some c) => { m1 with trw := { m1.trw with snap := none, result := 2 } }.post c 0x04 (x.src / 32 % 2 ^ 32) 2
      | .snap none => { m1 with trw := { m1.trw with snap := none, result := 2 } }
      | .migrate => m1.migrationFails k) s2

/-- A running job becomes ENDED, with a job-end entry of DETAIL 2 (R470). -/
def Mach.endRunning (s : Mach) : Mach :=
  if s.hq.job == .running then
    ({ ((s.stopTiles).mapJob fun _ t => { t with tsq := { t.tsq with halted := true } }) with groups := [] }).endJob .ended 2
  else s

/-- HBM_STAT_n. -/
def Mach.hbmStat (s : Mach) (n : Nat) : Word :=
  let x := s.stack n
  mkWord [(31, b2n x.present), (30, b2n x.trained), (29, b2n x.conserv), (28, b2n x.failed), (26, if x.present then n / 2 % 4 else 0), (24, x.tstate), (23, b2n x.trip), (0, x.temp)]

/-- A thermal trip (R470, R515, R516): unit 0 to 3 a die, 4 the hub, 8 + n a stack. -/
def Mach.thermalTrip (s : Mach) (unit temp : Nat) : Mach :=
  let first := !s.tripped
  let s1 := if first then (s.stopEngines).endRunning else s
  let s2 := if 8 ≤ unit then s1.updStack (unit - 8) fun x => { x with trip := true } else s1.updPw fun p => { p with trips := insSorted unit p.trips }
  let s3 := { s2 with pins := { s2.pins with thermTrip := true, pwrEn := s2.pins.pwrEn &&& 0x3C000 } }
  let s4 := s3.hatbox 10 [(0, BitVec.ofNat 32 unit), (1, BitVec.ofNat 32 temp)]
  let s5 := if s4.hbx.copying then s4 else s4.flashCopy
  let w : Word := if 8 ≤ unit then s5.hbmStat (unit - 8)
    else s5.tempReg unit
  s5.raise 0x193 w (BitVec.ofNat 32 unit)

/-- The populated dies of the variant and the hub, with their sampled temperatures. -/
def Mach.sampled (s : Mach) (temps : List Nat) : List (Nat × Nat) := (numbered (temps.take 5)).filter fun x => x.1 == 4 || s.present x.1

/-- A 10 us temperature sample (R468, R469, R470). -/
def Mach.tempSample (s : Mach) (temps : List Nat) : Mach :=
  let xs := s.sampled temps
  let t := maxOr 0 ((xs.filter fun x => x.1 != 4).map fun x => x.2)
  let s1 := s.updPw fun p => { p with
    temps := xs.foldl (fun m x => SMap.put m x.1 (satTo 255 x.2)) p.temps
    maxts := xs.foldl (fun m x => SMap.upd 0 m x.1 fun o => max o (satTo 255 x.2)) p.maxts
    hot := max p.hot t }
  let s2 := if 103 ≤ t then s1.setCeil fun p => { p with cth := 4, cool := 0 } else s1
  let s3 := xs.foldl (fun m x =>
    m.level (if x.1 = 4 then 0x196 else 0x096 + 0x40 * x.1) (decide (100 ≤ x.2)) (m.tempReg x.1) 0) s2
  (xs.filter fun x => decide (110 ≤ x.2) && !(s.pw.trips.contains x.1)).foldl (fun m x => m.thermalTrip x.1 x.2) s3

/-- A 1 ms thermal interval ends (R469). -/
def Mach.thermalEnd (s : Mach) : Mach :=
  let h := s.pw.hot
  if 100 ≤ h then s.setCeil fun p => { p with cth := min 4 (p.cth + 1), cool := 0, hot := 0 }
  else if 92 ≤ h then s.setCeil fun p => { p with cool := 0, hot := 0 }
  else if s.pw.cool + 1 < 10 then s.setCeil fun p => { p with cool := p.cool + 1, hot := 0 }
  else s.setCeil fun p => { p with cth := p.cth - 1, cool := 0, hot := 0 }

/-! ## Power caps (R471, R472) -/

/-- The caps of R1 for the variant, by LEVEL. -/
def capOf (variant level : Nat) : Nat :=
  match variant, level with
  | 0, 0 => 1300
  | 0, 1 => 1000
  | 0, _ => 700
  | 1, 0 => 1100
  | 1, 1 => 1000
  | 1, _ => 700
  | _, 0 => 650
  | _, 1 => 500
  | _, _ => 350

/-- The cap in force, in W. -/
def Mach.cap (s : Mach) : Nat := capOf s.part.variant (fld (s.reg 0x3_0008) 1 0)

/-- A 10 us power sample (R472). -/
def Mach.powerSample (s : Mach) (w : Nat) : Mach :=
  let s1 := s.updPw fun p => { p with peak := max p.peak w, sum := p.sum + w, cnt := p.cnt + 1 }
  if 115 * s.cap < 100 * w then s1.setCeil fun p => { p with ccap := min 4 (p.ccap + 2) } else s1

/-- A 1 ms power interval ends (R472). -/
def Mach.powerEnd (s : Mach) : Mach :=
  let p := s.pw
  let n := max 1 p.cnt
  let close := fun (q : Pw) => { q with avg := p.sum / n, lastPeak := p.peak, sum := 0, cnt := 0, peak := 0 }
  if s.cap * n < p.sum then
    (if p.ccap < 4 then s.setCeil fun q => { close q with ccap := q.ccap + 1, low := 0 }
     else s.setCeil fun q => { close q with lim := min 2 (q.lim + 1), low := 0 })
  else if 100 * p.sum < 85 * s.cap * n then
    (if p.low + 1 < 10 then s.setCeil fun q => { close q with low := q.low + 1 }
     else if p.lim != 0 then s.setCeil fun q => { close q with lim := q.lim - 1, low := 0 }
     else s.setCeil fun q => { close q with ccap := q.ccap - 1, low := 0 })
  else s.setCeil fun q => { close q with low := 0 }

/-! ## Stacks (R296, R297) -/

/-- The thermal state of a stack after a sample (R296): a state is left 3 degrees below its entry threshold. -/
def tstateNext (old temp : Nat) : Nat :=
  let up := if 105 ≤ temp then 3 else if 95 ≤ temp then 2 else if 85 ≤ temp then 1 else 0
  let hold := if 102 ≤ temp then 3 else if 92 ≤ temp then 2 else if 82 ≤ temp then 1 else 0
  max up (min old hold)

/-- A 100 us sample of a stack's base die. -/
def Mach.hbmSample (s : Mach) (n temp : Nat) : Mach :=
  if decide (8 ≤ n) || !(s.stack n).present then s
  else
    let s1 := s.updStack n fun x => { x with temp := satTo 255 temp, tstate := tstateNext x.tstate temp }
    let s2 := s1.level (0x010 + n) ((s1.stack n).tstate == 3) (s1.hbmStat n) 0
    if decide (110 ≤ temp) && !(s.stack n).trip then s2.thermalTrip (8 + n) temp else s2

/-- A stack controller that has not recovered within 10 ms is marked FAILED (R297). -/
def Mach.stackFails (s : Mach) (n : Nat) : Mach :=
  if decide (8 ≤ n) || !(s.stack n).present || (s.stack n).failed then s
  else s.updStack n fun x => { x with failed := true, held := false }

/-! ## Package states (R473 to R477) -/

/-- Exit latency and break-even of a state in ns (R473). -/
def exitNs (st : Nat) : Nat := match st with | 1 => 1000 | 2 => 100000 | 3 => 10000000 | 4 => 300000000 | _ => 0
/-- Break-even. -/
def evenNs (st : Nat) : Nat := match st with | 1 => 4000 | 2 => 1000000 | 3 => 100000000 | 4 => 10000000000 | _ => 0

/-- A tile keeps the package from being idle (R474). -/
def Tile.keepsBusy (t : Tile) (run : Bool) : Bool :=
  let quietTsq := t.tsq.halted || !t.tsq.started || (match t.tm.pend with | some p => p.arrived | none => false) ||
    (t.allIdle && (match t.cur.hold with | .wait _ _ => true | .drain _ => true | .chan _ => true | .stall _ => true | _ => false))
  (run && t.tsq.inJob && (!quietTsq || t.tsq.phase == .guard || t.tsq.phase == .exchange)) ||
    !(t.hb.isEmpty) || t.gwait.isSome || !((t.eng 7).waiting.isEmpty) || !((t.eng 8).waiting.isEmpty)

/-- The package is idle (R474). -/
def Mach.pkgIdle (s : Mach) : Bool :=
  (s.tiles.all fun x => !(x.2.keepsBusy (s.hq.job == .running))) && (s.movers.all fun x => x.2.xfer.isNone) && !s.ot.busy &&
    !s.hq.jcBusy && (s.hq.rings.all fun x => !(decide (x.1 < 16) && x.2.busy)) && !s.itg.fitBusy && s.sec.done

/-- The known events, as timebase values (R475). -/
def Mach.knownEvents (s : Mach) : List Nat :=
  let c := s.reg 0x3_0020
  (match s.pw.hint with | some h => [h] | none => []) ++ (if bit c 30 then [s.pw.timer] else []) ++
    (s.hq.queries.map fun q => q.deadline - 500000) ++ (if bit c 29 then [s.pw.dbexp] else [])

/-- The predicted idle time T in ns (R475). -/
def Mach.idleNs (s : Mach) : Nat :=
  match s.knownEvents with
  | [] => fld (s.reg 0x3_0020) 15 0 * 1000
  | l => minOr 0 l - s.clk.tb.toNat

/-- A state is allowed (R473). -/
def Mach.stateOk (s : Mach) (st : Nat) : Bool :=
  let none := s.hq.job == .idle
  decide (st ≤ fld (s.reg 0x3_0020) 18 16) && decide (exitNs st * 4 ≤ s.idleNs) && decide (evenNs st ≤ s.idleNs) &&
    (decide (st ≤ 2) || none) && (decide (st ≤ 3) || (!(s.ot.ents.any fun x => oeValid x.2) && s.hq.d3 && bit (s.reg 0x3_0020) 31))

/-- CRP_PSSTAT. -/
def Mach.psStat (s : Mach) : Word := mkWord [(28, s.pw.st), (24, s.pw.wake), (0, s.pw.nwake)]

/-- Compute dies off (R88, R473): every segment goes to off, tile memory and tile state are lost. -/
def Mach.diesOff (s : Mach) : Mach :=
  let s1 := s.tileDomainReset
  { s1 with tiles := s1.tiles.map fun x => (x.1, { x.2 with mem := [], bad := [], soft := [], cfg := { x.2.cfg with seg := 0 } }) }

/-- Ports down in A3 and A4 (R473). -/
def Mach.portsOff (s : Mach) : Mach :=
  { s with dil := { s.dil with ports := s.dil.ports.map fun (x : Nat × Port) =>
      (x.1, x.2.off x.2.down) } }

/-- Enter a package state (R473, R515). -/
def Mach.enterState (s : Mach) (st : Nat) : Mach :=
  let s0 := { s with clk := { s.clk with aclkOn := false } }
  let s1 := s0.updPw fun p => { p with apll := if 2 ≤ st then 0 else s.part.dies.foldl (fun a d => a + 2 ^ d) 0 }
  let s2 := if 3 ≤ st then
      (let x := (s1.diesOff).portsOff
       { x with pins := { x.pins with pwrEn := x.pins.pwrEn &&& 0x3C000 }, pw := { x.pw with lpll := 0 } })
    else s1
  let s3 := if 4 ≤ st then
      { s2 with clk := { s2.clk with hclkOn := false }
                pins := { s2.pins with pwrEn := 0 }
                pw := { s2.pw with hpll := false, mpll := false }
                hbms := s2.hbms.map fun (x : Nat × Stack) => (x.1, { x.2 with mem := [], bad := [], soft := [] }) }
    else s2
  let s4 := s3.updPw fun p => { p with st := st }
  s4.raise 0x195 s4.psStat 0

/-- The idle package enters the deepest state that R476 allows; from A3 and A4, whose dies are off, a shallower one only through a wake (DEDUCED, log entry 38). -/
def Mach.stateEnter (s : Mach) : Mach :=
  if !(s.pkgIdle) then s
  else match ([4, 3, 2, 1].filter fun st => s.stateOk st).head? with
    | some st => if st = s.pw.st ∨ (3 ≤ s.pw.st ∧ st < s.pw.st) then s else s.enterState st
    | none => s

/-- The enables of R514 for the dies and stacks in service. -/
def Mach.enables (s : Mach) : Nat :=
  0x3C000 + s.part.dies.foldl (fun a d => a + 2 ^ (6 + d) + 2 ^ (10 + d)) 0

/-- Return to A0 (R476), through S4 to S6 from A3 and A4. -/
def Mach.wakeTo (s : Mach) (cause : Nat) : Mach :=
  if s.pw.st = 0 then s
  else
    let deep := decide (3 ≤ s.pw.st)
    let apll := s.part.dies.foldl (fun a d => a + 2 ^ d) 0
    let s1 := { s with
      clk := { s.clk with aclkOn := !s.tripped && !(s.part.dies.isEmpty), hclkOn := true, code := if deep then 2 else s.clk.code }
      pw := { s.pw with st := 0, wake := cause, nwake := satTo 0xFFFF (s.pw.nwake + 1), apll := apll, hpll := true, mpll := true, lpll := 7 }
      pins := { s.pins with pwrEn := if deep then s.enables else s.pins.pwrEn } }
    if deep then (upTo 12).foldl (fun m p =>
      let q := m.port p
      if q.present && bit (m.reg (dilCtl p)) 31 && !q.jrnl && q.down == 0 then m.portTrain p else m) s1
    else s1

/-- A wake: a known event that is due, or one of the causes 2 to 7 (R476). -/
def Mach.pkgWake (s : Mach) (cause : Nat) : Mach :=
  let due := s.knownEvents.any fun e => decide (e - exitNs s.pw.st ≤ s.clk.tb.toNat)
  if (cause = 1 ∧ due) ∨ (2 ≤ cause ∧ cause ≤ 7) then s.wakeTo cause else s

/-- The timebase reaches CRP_TIMER (R475). -/
def Mach.timerExpiry (s : Mach) : Mach :=
  if bit (s.reg 0x3_0020) 30 && !s.pw.fired && decide (s.pw.timer ≤ s.clk.tb.toNat) then
    (s.updPw fun p => { p with fired := true }).raise 0x197 (BitVec.ofNat 32 s.pw.timer) 0
  else s

/-- A 1 ms interval of host-link use ends (R477), in FLIT mode (R370): use of the current width in percent. -/
def Mach.l0pEnd (s : Mach) (use : Nat) : Mach :=
  if !s.hq.linkUp || !s.hq.pci.flit then s
  else if s.pw.st = 2 then s.updPw fun p => { p with l0p := 2 }
  else if 60 < use then s.updPw fun p => { p with l0p := 16 }
  else if decide (s.pw.st < 2) && decide (use < 25) then s.updPw fun p => { p with l0p := max 4 (p.l0p / 2) }
  else s

/-! ## Resets of the hub (R478, R479) -/

/-- The machine after a reset of the hub. The AON SRAM, fuses, flash, pins, host memory and part identity stay; a warm reset also keeps the timebase, CRP_SSC
and the lanes that have failed with their symbol error counts (R366). PGOOD of the board's groups is high again after a reset that their loss caused (DESIGN CHOICE, log entry 90). What a supply or training interrupts is lost: tile memory, stacks and hub SRAM hold nothing that was written before (log entry 1). -/
def Mach.hubReset (s : Mach) (cold : Bool) (cause : Nat) : Mach :=
  { clk := { tb := if cold then 0 else s.clk.tb, hclkOn := !cold }
    part := { s.part with dies := [], caps := 0, profValid := false, idPart := false, idRest := false, idHbm := false }
    hq := { linkUp := false }
    hmem := s.hmem
    hbx := { s.hbx with copying := false }
    dil := { ports := if cold then [] else (s.dil.ports.filter fun x => !(x.2.failed.isEmpty) || !(x.2.serr.isEmpty)).map fun x => (x.1, { failed := x.2.failed, serr := x.2.serr }) }
    boots := s.boots
    pw := { straps := s.pw.straps, otpDelay := s.pw.otpDelay, otpSsc := s.pw.otpSsc, ssc := if cold then 0 else s.pw.ssc, xt1 := !cold && s.pw.xt1
            xsd := if cold then 0 else s.pw.xsd, xsrc := !cold && s.pw.xsrc, hpll := !cold, cold := cold, cause := cause }
    sec := { lcFuse := s.sec.lcFuse, roots := s.sec.roots, svn := s.sec.svn, kill := s.sec.kill, f := s.sec.f, w := s.sec.w, stage := if cold then 0 else 1
             jaon := s.sec.jaon, jaonOk := s.sec.jaonOk, jflash := s.sec.jflash, flash := s.sec.flash, leafLog := s.sec.leafLog }
    pins := { s.pins with pwrEn := 0, pgood := if cause = 1 ∨ cause = 3 then 0x3F else s.pins.pgood, thermTrip := false, dynAddr := none, alert := false
                          supStop := none, resetWait := false }
    fuseFences := s.fuseFences
    flashFences := s.flashFences
    free := s.free }

/-- A cold or warm reset: the Hatbox record of KIND 13 with CAUSE, then the reset (R478). -/
def Mach.reset (s : Mach) (cold : Bool) (cause : Nat) : Mach := (s.hatbox 13 [(0, BitVec.ofNat 32 cause)]).hubReset cold cause

/-- The AON domain is lost, with its SRAM, Hatbox and journal copy (R517). -/
def Mach.aonLost (s : Mach) : Mach :=
  let s1 := { s with hbx := { flash := s.hbx.flash, fcrc := s.hbx.fcrc, fcopy := s.hbx.fcopy, fslot := s.hbx.fslot }
                     sec := { s.sec with w := none, jaon := [], jaonOk := false } }
  s1.hubReset true 1

/-- RESET_N or another cause of a cold reset (R478, R517): RESET_N waits for a flash copy that runs. -/
def Mach.coldReset (s : Mach) (cause : Nat) : Mach :=
  if cause = 1 then s.aonLost
  else if cause = 2 then (if s.hbx.copying then { s with pins := { s.pins with resetWait := true, pwrEn := 0 } } else s.reset true 2)
  else if cause = 3 ∨ cause = 5 then s.reset true cause
  else s

/-- A warm reset by cause 6 to 9 (R478). A Brim watchdog expiry first starts the flash copy of R433; recovery after a trip needs every sensor below 90 degrees. -/
def Mach.warmReset (s : Mach) (cause : Nat) : Mach :=
  if cause = 7 then (if s.hbx.copying then s else s.flashCopy).reset false 7
  else if cause = 6 ∨ cause = 8 then s.reset false cause
  else if cause = 9 then
    (if s.tripped && (s.pw.temps.all fun x => decide (x.2 < 90)) && s.hbms.all fun x => decide (x.2.temp < 90) then s.reset false 9 else s)
  else s

/-! ## Supplies (R517) -/

/-- SUPFLT_N falls. -/
def Mach.supfltFall (s : Mach) : Mach :=
  let s1 := ({ s with pins := { s.pins with supflt := true } }).hatbox 11 [(0, 0xFF)]
  let s2 := if s1.hbx.copying then s1 else s1.flashCopy
  s2.raise 0x194 0xFF 0

/-- PGOOD of an enabled group from 2 to 17 stays low: the engines stop, the enables drop, and the copy is followed by a cold reset with cause 3. -/
def Mach.pgoodFall (s : Mach) (g : Nat) : Mach :=
  let on := (decide (2 ≤ g) && decide (g < 6)) || (decide (6 ≤ g) && decide (g < 18) && s.pins.pwrEn.testBit g)
  if !on then s
  else
    let s0 := (s.stopEngines).endRunning
    let s1 := { s0 with pins := { s0.pins with pwrEn := 0, pgood := s0.pins.pgood &&& (0x3FFFF - 2 ^ g), supStop := some g } }
    let s2 := s1.hatbox 11 [(0, BitVec.ofNat 32 g)]
    let s3 := if s2.hbx.copying then s2 else s2.flashCopy
    s3.raise 0x194 (BitVec.ofNat 32 g) 0

/-- ITG_HBXSTAT. -/
def Mach.hbxStat (s : Mach) : Word := mkWord [(31, b2n s.hbx.wrap), (29, s.hbx.fcopy), (28, s.hbx.fslot), (0, s.hbx.next)]

/-- The words of the whole ring, as a flash slot holds them. -/
def Hatbox.image (h : Hatbox) : List Word := (upTo 1024).flatMap fun i => (upTo 16).map fun w => (h.recs.get [] i).getD w 0

/-- A flash copy of the Hatbox ends (R433): on completion the slot holds the ring. A supply stop or RESET_N that waited then resets the hub (R517). -/
def Mach.flashCopyEnd (s : Mach) (complete : Bool) : Mach :=
  if !s.hbx.copying then s
  else
    let h := s.hbx
    let s1 := { s with hbx := { h with copying := false, fcopy := if complete then 1 else 2
                                       flash := if complete then h.flash.put h.fslot h.recs else h.flash.del h.fslot
                                       fcrc := if complete then h.fcrc.put h.fslot (Config.crc32 h.image) else h.fcrc.del h.fslot } }
    let s2 := s1.raise 0x1A7 s1.hbxStat 0
    if s2.pins.supStop.isSome then s2.reset true 3
    else if s2.pins.resetWait then s2.reset true 2
    else s2

end Sys2Proof.Machine
end

