-- ==== Sys2Proof/Machine/Integrity.lean ====
section
/-! DEFINITION. Replay restarts (R418 to R424), replica comparison (R426 to R429), fittings and the repair map (R28 to R32, R414, R415), Hatbox pushes
(R432), D2D lanes (R20, R368). -/

namespace Sys2Proof.Machine

/-! ## Replay (R418 to R424) -/

/-- Change the integrity block. -/
def Mach.updItg (s : Mach) (f : Itg → Itg) : Mach := { s with itg := f s.itg }

/-- A trigger that finds ATTEMPT 3 or EN = 0 (R419): no restart; the job becomes PAUSED, and a RESTART that triggered it completes with STATE. -/
def Mach.replayExhausted (s : Mach) (kind : Nat) : Mach :=
  let s1 := s.updItg fun i => { i with exhaust := true, trig := kind, pendTrig := none }
  let s2 := (s1.raise 0x1A2 s1.rpstat s1.stepNo).hatbox 6 []
  let s3 := (s2.stopJob).endJob .paused 1
  match s.hq.restarting with
  | some c => ({ s3 with hq := { s3.hq with restarting := none, jcBusy := false } }).post c 3 3 0
  | none => s3

/-- A replay restart begins (R420 phase 1). -/
def Mach.replayBegin (s : Mach) (kind : Nat) : Mach :=
  let s1 := s.stopTiles
  let s2 := ({ s1 with flight := [], msgs := [] }).updItg fun i => { i with
    epoch := (i.epoch + 1) % 256
    attempt := i.attempt + 1
    nreplay := satTo 0xFFFF (i.nreplay + 1)
    trig := kind
    phase := .quiesce
    pendTrig := none }
  (s2.raise 0x1A1 s2.rpstat s2.stepNo).hatbox 5 []

/-- A replay trigger (R419): ignored while a restart is active. -/
def Mach.trigger (s : Mach) (kind : Nat) : Mach :=
  if s.hq.job != .running || s.itg.phase != .idle then s
  else if bit (s.reg 0x6_0010) 31 && s.itg.attempt != 3 then s.replayBegin kind
  else s.replayExhausted kind

/-- The controller handles the trigger that waits (R418). -/
def Mach.replayTrigger (s : Mach) : Mach := match s.itg.pendTrig with | some k => s.trigger k | none => s

/-- The restore, and the wait sets where ITG_RGLIVE has been written since they were formed (R361, R420); then the package arrives at the barrier. -/
def Mach.restoreForm (s : Mach) : Mach :=
  let s1 := s.doRestore
  (if s1.itg.rgWritten then (s1.announce.updItg fun i => { i with rgWritten := false, forming := true }).formTrees
   else s1.updItg fun i => { i with forming := false }).barrierAdvance

/-- In-flight work of the failed attempt has ended (R420). -/
def Mach.quiesceDone (s : Mach) : Mach := if s.itg.phase == .quiesce && s.quiet then s.restoreForm else s

/-- The restart barrier releases (R420): every package below has arrived, and they get the release. -/
def Mach.barrierRelease (s : Mach) : Mach :=
  if s.barrierIn then
    (if s.jobXchip then (s.tree 0).waitset.foldl (fun m p => m.ownFlit p 0 (.release { g := 0, seq := 0, empty := true, bar := true })) s else s).doResume
  else s

/-- A release message from the effective parent: of a sync, or of the restart barrier (R362, R420). A package in a lower state wakes (R477). -/
def Mach.releaseMsg (s0 : Mach) (p : Nat) (m : TreeMsg) : Mach :=
  let s := s0.wakeTo 3
  if m.bar then (if (s.tree 0).effpar == p && (s.tree 0).barSent then s.barrierRelease else s) else (s.treeReleaseMsg p m).treeAdvance m.g

/-- The barrier is not released in time (R424). -/
def Mach.barrierTimeout (s : Mach) : Mach :=
  if s.itg.phase == .barrier && fld (s.reg 0x6_0010) 19 16 != 0 then s.raise 0x1A3 s.rpstat 0 else s

/-- The wait sets have not formed within 1 ms (R361): the start or restart ends with error status, and no tile is released. -/
def Mach.treeTimeout (s : Mach) : Mach :=
  if s.treesFormed then s
  else
    let g := s.badTree
    match s.hq.starting, s.hq.restarting with
    | some c, _ => (({ s.endForming with hq := { s.hq with starting := none, jcBusy := false } }).treeErr g).post c 0x18 g 0
    | none, some c =>
      if s.itg.phase == .barrier && s.itg.forming then
        (({ s.endForming with hq := { s.hq with restarting := none, jcBusy := false } }).treeErr g).post c 0x18 g 0
      else s
    | none, none => if s.itg.phase == .barrier && s.itg.forming then s.treeErr g else s

/-! ## Replica comparison (R426 to R429) -/

/-- ITG_CMPSTAT. -/
def Mach.cmpStat (s : Mach) : Word := mkWord [(31, b2n s.itg.cmpValid), (28, s.itg.verdict), (0, s.itg.ncmp)]

/-- Replica comparison runs. -/
def Mach.cmpOn (s : Mach) : Bool := let c := s.reg 0x6_8030; bit c 31 && fld c 30 16 != 0

/-- This package is the comparing root. -/
def Mach.isRoot (s : Mach) : Bool := s.cmpOn && fld (s.reg 0x6_8030) 15 8 == s.pkgIdx

/-- A digest report reaches the root. -/
def Mach.digestReport (s : Mach) (r : DigRep) : Mach :=
  if s.isRoot then s.addReport { rank := r.rank, step := r.step, pkg := r.pkg, dig := r.dig, lines := 0 } else s

/-- Record a verdict (R427, R428). -/
def Mach.takeVerdict (s : Mach) (x : Verdict) : Mach :=
  let s1 := s.updItg fun i => { i with
    cmpValid := true, verdict := x.v, ncmp := satTo 0xFFFF (i.ncmp + 1), cmpStep := BitVec.ofNat 32 x.step, cmpMis := x.mis }
  if x.v = 0 then s1 else ((s1.raise 0x1A4 s1.cmpStat s1.itg.cmpStep).hatbox 7 []).stopRequest

/-- Live ranks of the reduction group. -/
def Mach.liveRanks (s : Mach) : List Nat := (bitsSet 64 s.rglive).filter fun r => decide (r ≤ fld (s.reg 0x6_8000) 5 0)

/-- A mask of ranks. -/
def rankMask (l : List Nat) : BitVec 64 := BitVec.ofNat 64 (l.foldl (fun a r => a + 2 ^ r) 0)

/-- A rank that R345 forbids removing, given the ranks that stay. -/
def Mach.rankHeld (s : Mach) (stay : List Nat) (r : Nat) : Bool :=
  s.itg.shards.any fun x => x.1 == r && (match x.2 with | some b => !(stay.contains b) | none => true)

/-- The verdict of R428 on the digests of live ranks, each with its completeness (DEDUCED, log entry 41). -/
def Mach.judge (s : Mach) (step : Nat) (ds : List (Nat × Bool × BitVec 64)) : Verdict :=
  let part := ds.filter fun x => !x.2.1
  if !part.isEmpty then { v := 4, step := step, mis := rankMask (part.map fun x => x.1) }
  else
    let size := fun (d : BitVec 64) => (ds.filter fun x => x.2.2 == d).length
    match ds.find? fun x => decide (ds.length < 2 * size x.2.2) with
    | some w =>
      let out := (ds.filter fun x => x.2.2 != w.2.2).map fun x => x.1
      let stay := (ds.filter fun x => x.2.2 == w.2.2).map fun x => x.1
      if out.isEmpty then { v := 0, step := step, mis := 0 }
      else { v := if out.any fun r => s.rankHeld stay r then 2 else 1, step := step, mis := rankMask out }
    | none => { v := if ds.length = 2 then 3 else 2, step := step, mis := rankMask (ds.map fun x => x.1) }

/-- The root forms the verdict of the earliest STEP reported (R427, R428): complete, or at its time limit. It records its own, and sends it to
every package that a route leads to. -/
def Mach.formVerdict (s : Mach) : Mach :=
  match s.itg.reports with
  | [] => s
  | r0 :: _ =>
    if !s.isRoot then s
    else
      let here := s.itg.reports.filter fun r => r.step == r0.step
      let nppr := fld (s.reg 0x6_8030) 7 0
      let ds := s.liveRanks.map fun k =>
        let rs := here.filter fun r => r.rank == k
        (k, decide (nppr ≤ rs.length), rs.foldl (fun (a : BitVec 64) r => a + r.dig) 0)
      let s1 := s.updItg fun i => { i with reports := i.reports.filter fun r => r.step != r0.step }
      if ds.length ≤ 1 then s1
      else
        let v := s.judge r0.step ds
        ((upTo 255).filter fun i => i != s.pkgIdx).foldl (fun m i => m.ctlTo i (.verdict i v)) (s1.takeVerdict v)

/-- A verdict from the root reaches a package. -/
def Mach.verdictIn (s : Mach) (v : Verdict) : Mach := if s.cmpOn && !s.isRoot && decide (v.v ≤ 4) then s.takeVerdict v else s

/-! ## Hatbox pushes (R432) -/

/-- A write of ITG_HBXPUSH. -/
def Mach.hbxPush (s : Mach) (cls : Nat) (v : Word) : Mach :=
  let k := fld v 6 0
  if 64 ≤ k then s.hatbox k ((upTo 12).map fun w => (w, s.reg (0x6_0180 + 4 * w))) else s.dropped 0x6_01C0 cls v

/-! ## The repair map (R28 to R32) -/

/-- The fences of a row. -/
def fencesAt (l : List Fence) (d half row : Nat) : List Fence := l.filter fun f => f.die == d && f.half == half && f.row == row

/-- CDC_ROWMAP of a row, resolved from fuse and flash entries (R29 to R32). -/
def rowWord (fuse flash : List Fence) (d half row : Nat) : Word :=
  let a := fencesAt fuse d half row
  let b := fencesAt flash d half row
  let cols := (a ++ b).foldl (fun l f => insSorted f.col l) []
  match cols with
  | [] => 0x3F
  | c :: rest =>
    let atc := (a ++ b).filter fun f => f.col == c
    mkWord [(16, b2n (!rest.isEmpty)), (12, if a.any fun f => f.col == c then 1 else 2), (8, if atc.any fun f => f.router then 2 else 1), (0, c)]

/-- Apply the repair map to the dies in service; in the alternate form of S10 fuse entries only (R453). -/
def Mach.applyRepair (s : Mach) : Mach :=
  let flash := if s.sec.alt.testBit 10 then [] else s.flashFences
  s.part.dies.foldl (fun m d => m.updDie d fun x => { x with
    rowmap := ((upTo 56).map fun n => (n, rowWord s.fuseFences flash d (n / 28) (n % 28))).filter fun y => y.2 != 0x3F }) s

/-- A row is unavailable on some die: the package is degraded (R30, R31). -/
def Mach.rowsLost (s : Mach) : Nat := s.dies.foldl (fun a x => a + (x.2.rowmap.filter fun y => bit y.2 16).length) 0

/-! ## Fittings (R414, R415) -/

/-- ITG_FITSTAT. -/
def Mach.fitStat (s : Mach) : Word := mkWord [(31, b2n s.itg.fitBusy), (29, s.itg.fitSrc), (0, s.itg.gfail)]

/-- ITG_FITCNT. -/
def Mach.fitCnt (s : Mach) : Word := mkWord [(16, s.itg.fitRuns), (0, s.itg.fenced)]

/-- The position of a fence. -/
def Fence.at (a b : Fence) : Bool := a.die == b.die && a.half == b.half && a.row == b.row && a.col == b.col

/-- One failing test acts (R415): a fence in the flash map, counted where the position was not fenced before, or a Hatbox record. -/
def Mach.fitFail (s : Mach) (f : FitFail) : Mach :=
  let s1 := s.updItg fun i => { i with gfail := i.gfail ||| 2 ^ (f.group % 16) }
  if f.group ≤ 4 then
    let x : Fence := { die := f.die, half := f.half, row := f.row, col := f.col, router := f.group == 4 }
    let known := (s.fuseFences ++ s.flashFences).any fun y => y.at x
    let same := (s.fuseFences ++ s.flashFences).any fun y => y.at x && (y.router || !x.router)
    let s2 := if same then s1 else ({ s1 with flashFences := s1.flashFences ++ [x] }).hatbox 8 []
    let s3 := if known then s2 else s2.updItg fun i => { i with fenced := satTo 0xFFFF (i.fenced + 1) }
    s3.raise 0x1A6 s3.fitStat 0
  else
    let s2 := s1.hatbox 9 []
    s2.raise 0x1A6 s2.fitStat 0

/-- A fitting run of the named groups (a mask) ends: the machine, the tests that failed and the positions newly fenced. -/
def Mach.fitRun (s : Mach) (src sel : Nat) (fails : List FitFail) : Mach × Nat × Nat :=
  let fs := fails.filter fun f => sel.testBit f.group
  let was := s.itg.fenced
  let s1 := s.updItg fun i => { i with fitBusy := false, fitSrc := src, gfail := 0, fitRuns := satTo 0xFFFF (i.fitRuns + 1) }
  let s2 := fs.foldl (fun m f => m.fitFail f) s1
  let s3 := s2.raise 0x1A5 s2.fitStat s2.fitCnt
  (s3, fs.length, s3.itg.fenced - was)

/-- Brim firmware starts a background fitting on tiles outside the loaded job, with groups among 0 to 3. -/
def Mach.fitBackground (s : Mach) (tiles : List Nat) (groups : Nat) : Mach :=
  let ok := tiles.all fun t => s.tileExists t && !(s.tile t).tsq.inJob
  if s.hq.job == .idle || s.itg.fitBusy || s.hq.jcBusy || !ok || decide (16 ≤ groups) then s
  else
    let s1 := tiles.foldl (fun (m : Mach) t => { m with tiles := SMap.upd {} m.tiles t fun x => x.allSegs 2 }) s
    s1.updItg fun i => { i with fitBusy := true, fitTiles := tiles, fitSrc := 2, gfail := 0, fitSel := groups }

/-- Tiles that a background fitting used are powered off, their segments among it, and keep nothing (R26, R88). -/
def Mach.fitTilesOff (s : Mach) : Mach :=
  let ts := s.itg.fitTiles
  { s with tiles := s.tiles.map fun (x : Nat × Tile) => if ts.contains x.1 && !x.2.tsq.inJob then (x.1, x.2.allSegs 0) else x }

/-- A background fitting yields to a job-control command (R414): it stops without having run to its end (DEDUCED, log entry 70). -/
def Mach.fitYield (s : Mach) : Mach :=
  if s.itg.fitBusy then (s.fitTilesOff).updItg fun i => { i with fitBusy := false, fitTiles := [], fitSel := 0 } else s

/-- A background fitting ends: its tiles are powered off again and keep nothing (R26). -/
def Mach.fitBackgroundEnd (s : Mach) (res : FitResult) : Mach :=
  if !s.itg.fitBusy then s
  else
    let s1 := s.fitTilesOff
    ((s1.updItg fun i => { i with fitTiles := [], fitSel := 0 }).fitRun 2 s.itg.fitSel res.fails).1

/-! ## D2D lanes (R20, R368) -/

/-- The other end of a D2D group: none for a hub-link group. -/
def Mach.d2dPeer (s : Mach) (d k : Nat) : Option (Nat × Nat) :=
  let n := if s.part.variant = 2 then 2 else 4
  if k < 4 then none
  else if k < 6 then some ((d + n - 1) % n, k + 2)
  else some ((d + 1) % n, k - 2)

/-- A D2D group exists on the variant (DEDUCED, log entry 75). -/
def Mach.d2dExists (s : Mach) (d k : Nat) : Bool :=
  s.present d && decide (k < 8) &&
    (if s.part.variant = 2 then decide (k < 4) || (d == 0 && decide (6 ≤ k)) || (d == 1 && decide (4 ≤ k) && decide (k < 6)) else true)

/-- The loaded binary declares no more lines on a ring link than it still carries. -/
def Mach.ringFits (s : Mach) (d k : Nat) : Bool :=
  let link := if k < 6 then (d + 3) % 4 else d
  let cap := s.ringCap d (decide (6 ≤ k))
  decide (s.hq.ringLines.get 0 (2 * link) ≤ cap) && decide (s.hq.ringLines.get 0 (2 * link + 1) ≤ cap)

/-- A group past its spares: the event, the Hatbox record of KIND 4, and the stop request where R368 asks for it. -/
def Mach.d2dDegrade (s : Mach) (d k : Nat) (peer : Option (Nat × Nat)) : Mach :=
  let n := ((s.die d).lanes.get [] k).length
  let ev := fun (m : Mach) (e : Nat × Nat) => m.raise (0x095 + 0x40 * e.1) (BitVec.ofNat 32 e.2) (BitVec.ofNat 32 n)
  let s1 := (match peer with | some e => [(d, k), e] | none => [(d, k)]).foldl ev s
  let s2 := s1.hatbox 4 []
  if (if k < 4 then s.slack else s2.ringFits d k) then s2 else s2.stopRequest

/-- A D2D lane fails: both ends of a ring-link group share its state (DEDUCED, log entry 41). -/
def Mach.d2dFail (s : Mach) (d k l : Nat) : Mach :=
  let fs := (s.die d).lanes.get [] k
  if !(s.d2dExists d k) || decide (68 ≤ l) || fs.contains l then s
  else
    let add := fun (m : Mach) (e : Nat × Nat) => m.updDie e.1 fun x => { x with lanes := SMap.upd [] x.lanes e.2 fun y => insSorted l y }
    let peer := s.d2dPeer d k
    let s1 := add s (d, k)
    let s2 := match peer with | some e => add s1 e | none => s1
    let n := fs.length + 1
    if n ≤ 4 then
      s2.raise (0x094 + 0x40 * d) (BitVec.ofNat 32 (k + l * 2 ^ 8)) 0
    else if n = 5 ∨ n = 37 then s2.d2dDegrade d k peer
    else s2

/-- A D2D group has failed past its spares: the board needs replacing (R20). -/
def Mach.d2dLost (s : Mach) : Bool := s.dies.any fun x => x.2.lanes.any fun y => decide (4 < y.2.length)

end Sys2Proof.Machine
end

