-- ==== Sys2Proof/Machine/Boot.lean ====
section
/-! DEFINITION. Security and boot (R438 to R457, R459, R514): boot stages and their alternate forms, verification of signed objects, the leaf counter, the
mailbox, attestation; and the sideband, JTAG and host-link balls (R521 to R523). -/

namespace Sys2Proof.Machine

/-- Change the security state. -/
def Mach.updSec (s : Mach) (f : Sec → Sec) : Mach := { s with sec := f s.sec }

/-! ## Registers of SEC_ -/

/-- A root slot is valid and not revoked. -/
def Mach.rootOk (s : Mach) (i : Nat) : Bool := let r := s.sec.roots.get {} i; r.valid && !r.revoked

/-- SEC_LC (R450). -/
def Mach.secLc (s : Mach) : Word :=
  let mask := fun (b : Nat) => ((upTo 4).filter fun i => s.rootOk (b + i)).foldl (fun a i => a + 2 ^ i) 0
  if s.sec.lcValid then
    mkWord [(12, mask 0), (8, mask 4), (4, match s.sec.lc with | 1 => 1 | 3 => 0 | _ => 2), (0, s.sec.lc)]
  else 0

/-- SEC_LEAF. -/
def Mach.secLeaf (s : Mach) : Word := mkWord [(31, b2n s.sec.leaf.isSome), (30, b2n s.sec.exh), (0, s.sec.leaf.getD 0)]

/-- SEC_LEAFBLK. -/
def Mach.secLeafBlk (s : Mach) : Word := if s.sec.lcValid then mkWord [(16, s.sec.w.getD 0), (0, s.sec.f)] else 0

/-- SEC_BOOT. -/
def Mach.secBoot (s : Mach) : Word :=
  mkWord [(31, b2n s.sec.done), (30, b2n s.sec.parked), (16, s.sec.alt), (8, s.sec.slot), (0, s.sec.stage)]

/-- The journal that Bonnet reads: the AON copy where it is valid. -/
def Sec.journal (x : Sec) : List JEntry := if x.jaonOk then x.jaon else x.jflash

/-- The latest failure that is not cleared. -/
def Sec.lastFail (x : Sec) : Option JEntry := (x.journal.filter fun e => !e.clr).getLast?

/-- SEC_JRNL. -/
def Mach.secJrnl (s : Mach) : Word :=
  match s.sec.lastFail with
  | some e => if s.sec.lcValid then mkWord [(31, 1), (16, e.cause), (0, e.stage)] else 0
  | none => 0

/-- SEC_JRNLBOOT. -/
def Mach.secJrnlBoot (s : Mach) : Word := match s.sec.lastFail with | some e => if s.sec.lcValid then BitVec.ofNat 32 e.boot else 0 | none => 0

/-- SEC_BOOTCNT. -/
def Mach.secBootCnt (s : Mach) : Word := if s.sec.lcValid then BitVec.ofNat 32 s.boots else 0

/-- Fuse SVN of a component: 0 monitor, 1 Brim, 2 bundle. -/
def Mach.fuseSvn (s : Mach) (k : Nat) : Nat := s.sec.svn.get 0 k

/-- SEC_SVN. -/
def Mach.secSvn (s : Mach) : Word := if s.sec.lcValid then mkWord [(16, s.fuseSvn 2), (8, s.fuseSvn 1), (0, s.fuseSvn 0)] else 0

/-- SEC_MBSTAT_c. -/
def Mbx.stat (b : Mbx) : Word := mkWord [(31, b2n b.req.isSome), (30, b2n b.done), (16, b.err), (0, b.op)]

/-! ## Identity registers (chapter 20) -/

/-- CDC_TPENT_n of die d; log entry 3 gives what a die of no given profile table holds. -/
def Mach.tpEnt (s : Mach) (d n : Nat) : Word := s.part.tpEnt.get (if n = 0 then 0xC0000031 else 0) (4 * d + n)

/-- TPIDs that die d can match. -/
def Mach.tpids (s : Mach) (d : Nat) : List Nat := ((upTo 4).filter fun n => bit (s.tpEnt d n) 31).map fun n => fld (s.tpEnt d n) 15 0

/-- The package TPID set, ascending (R33). -/
def Mach.tpSet (s : Mach) : List Nat :=
  match s.part.dies with
  | [] => []
  | d :: r => ((s.tpids d).filter fun t => r.all fun e => (s.tpids e).contains t).foldl (fun l t => insSorted t l) []

/-- The native capability set of a die (R501) (DESIGN CHOICE, log entry 3). -/
def Mach.dieCap (s : Mach) (d : Nat) : Word := s.part.dieCaps.get (if s.part.variant = 0 then 0x7F else 0x7E) d

/-- HBM stacks of a variant (R1). -/
def stackCount (variant : Nat) : Nat := if variant = 2 then 4 else if variant = 1 then 6 else 8

/-- DIL ports of a variant (R1). -/
def portCount (variant : Nat) : Nat := if variant = 2 then 6 else if variant = 1 then 8 else 12

/-- Stacks populated on the part (R1, R3): the lowest of its mask, as many as its variant has (DEDUCED, log entry 75). -/
def Mach.stackSites (s : Mach) : List Nat :=
  ((bitsSet 8 s.part.stackMask).filter fun n => s.part.variant != 2 || decide (n < 4)).take (stackCount s.part.variant)

/-- DIL ports enabled on the part (R1, R3): the lowest of its mask, as many as its variant has (DEDUCED, log entry 75). -/
def Mach.portsFitted (s : Mach) : List Nat :=
  ((bitsSet 12 s.part.portMask).filter fun p => s.part.variant != 2 || decide (p < 6)).take (portCount s.part.variant)

/-- DIL ports that exist on dies in service (R348). -/
def Mach.portSites (s : Mach) : List Nat := s.portsFitted.filter fun p => s.part.dies.contains (p / 3)

/-! ## Verification (R438, R440, R441) -/

/-- A header field of a signed object: n bytes from o, little-endian. -/
def hdrNat (bs : List Byte) (o n : Nat) : Nat := natOfBytes ((bs.drop o).take n)

/-- FLAGS admit a lifecycle state (R450). -/
def flagsAdmit (lc flags : Nat) : Bool :=
  match lc with
  | 0 => decide (flags < 2)
  | 1 => flags == 0
  | 2 => flags == 0 || flags == 2
  | _ => false

/-- A signer is a root of the given slots (DEDUCED, log entry 66). -/
def Mach.signerIn (s : Mach) (slots : List Nat) (h : BitVec 384) : Bool := slots.any fun i => s.rootOk i && (s.sec.roots.get {} i).hash == h

/-- The checks of R440 on an object: 0, or the code of the first that fails. -/
def Mach.verifyObj (s : Mach) (bs : List Byte) (type : Nat) (slots : List Nat) (cert : Option (BitVec 384)) : Nat :=
  let blen := hdrNat bs 8 4
  let body := (bs.drop 256).take blen
  let signer := BitVec.ofNat 384 (hdrNat bs 64 48)
  let svn := hdrNat bs 6 2
  if decide (bs.length < 256) || hdrNat bs 0 4 != 0x55434858 || bs.length != 256 + blen + 96 + 1740 then 5
  else if hdrNat bs 4 2 != type then 6
  else if !(flagsAdmit s.sec.lc (hdrNat bs 12 4)) then 6
  else if decide (1 ≤ type) && decide (type ≤ 3) && decide (svn < s.fuseSvn (type - 1)) then 4
  else if !(s.signerIn slots signer || cert == some signer) then 3
  else if BitVec.ofNat 384 (hdrNat bs 16 48) != Config.sha384 body then 5
  else
    let key := bytesOfNat 48 signer.toNat
    let hd := bs.take 256
    if !(Config.ecdsaOk key hd ((bs.drop (256 + blen)).take 96)) then 1
    else if !(Config.lmsOk key hd ((bs.drop (256 + blen + 96)).take 1740)) then 2
    else 0

/-- Roots that may sign a type (R441). -/
def rootSlots (type : Nat) : List Nat := if type = 4 then upTo 8 else if type = 6 then [] else upTo 4

/-- Verify an object of a type, with what a passing one leaves: the certificate that a binary needs, measurements 4 and 5, the bundle's SVN. -/
def Mach.verify (s : Mach) (bs : List Byte) (type : Nat) : Mach × Nat :=
  let c := s.verifyObj bs type (rootSlots type) (if type = 6 then s.sec.cert else none)
  if c != 0 then (s, c)
  else
    let h := BitVec.ofNat 384 (hdrNat bs 16 48)
    (s.updSec fun x => { x with
      cert := if type = 4 then some (Config.certSigner ((bs.drop 256).take (hdrNat bs 8 4))) else x.cert
      meas := if type = 3 then x.meas.put 4 h else if type = 6 then x.meas.put 5 h else x.meas
      booted := if type = 3 then x.booted.put 2 (hdrNat bs 6 2) else x.booted }, 0)

/-! ## Measurements and the leaf counter -/

/-- A measurement block (R448). -/
def Mach.measurement (s : Mach) (i : Nat) : BitVec 384 :=
  match i with
  | 1 => Config.measHash 1 []
  | 6 => Config.measHash 6 [s.sec.lc, s.secSvn.toNat, s.secLc.toNat / 256]
  | 7 => Config.measHash 7 [s.sec.alt, s.sec.slot]
  | 8 => Config.measHash 8 ((s.part.dies.map fun d => s.part.dieStep.get 0x10 d) ++ [s.part.caps.toNat] ++ s.tpSet)
  | _ => s.sec.meas.get 0 i

/-- Leaves not yet spent or abandoned. -/
def Mach.leavesLeft (s : Mach) : Nat := (4096 - s.sec.f) * 256 + (match s.sec.w with | some w => 256 - w | none => 0)

/-- Spend a leaf for this boot, and enter it in the flash leaf log (R445, R446). -/
def Mach.spendLeaf (s : Mach) : Mach :=
  let open_ := match s.sec.w with | some w => w == 256 || s.sec.f == 0 | none => true
  let s1 :=
    if open_ && decide (4096 ≤ s.sec.f) then s.updSec fun x => { x with exh := true, leaf := none }
    else
      let n := if open_ then 256 * s.sec.f else 256 * (s.sec.f - 1) + s.sec.w.getD 0
      s.updSec fun x => { x with
        f := if open_ then x.f + 1 else x.f, w := some (if open_ then 1 else x.w.getD 0 + 1), leaf := some n
        leafLog := x.leafLog ++ [(n, s.boots, Config.aliasKeyHash s.boots)] }
  if s1.sec.exh || decide (s1.leavesLeft < 4096) then s1.raise 0x186 s1.secLeaf 0 else s1

/-! ## Boot stages (R451 to R454) -/

/-- Stages that run in their alternate form: those with a failure that is not cleared; S1 has none. -/
def Sec.altMask (x : Sec) : Nat :=
  ((upTo 12).filter fun st => st != 1 && x.journal.any fun e => !e.clr && e.stage == st).foldl (fun a st => a + 2 ^ st) 0

/-- Units of the uncleared failures of a stage. -/
def Sec.failedUnits (x : Sec) (st : Nat) : List Nat :=
  (x.journal.filter fun e => !e.clr && e.stage == st).foldl (fun l e => insSorted e.unit l) []

/-- Write a journal entry (R453). -/
def Mach.journal (s : Mach) (st cause unit : Nat) : Mach :=
  let e : JEntry := { boot := s.boots, stage := st, cause := cause, unit := unit }
  let keep := fun (n : Nat) (l : List JEntry) => let m := l ++ [e]; m.drop (m.length - n)
  s.updSec fun x => { x with jaon := keep 16 x.jaon, jflash := keep 256 x.jflash }

/-- The boot parks (R454). -/
def Mach.park (s : Mach) : Mach :=
  let s1 := s.updSec fun x => { x with parked := true }
  s1.level 0x184 true s1.secBoot 0

/-- Dies that the journal holds in reset. -/
def Mach.heldDies (s : Mach) : List Nat := s.sec.outDies

/-- Brim's dies in service after S5: present and not held. -/
def Mach.diesUp (s : Mach) : List Nat := (upTo 4).filter fun d => s.present d && !(s.sec.outDies.contains d)

/-- An image in a flash slot passes the checks of R440. -/
def Mach.imageOk (s : Mach) (slot k : Nat) : Bool :=
  let i := s.sec.flash.get {} (2 * slot + k)
  i.good && flagsAdmit s.sec.lc i.flags && decide (s.fuseSvn k ≤ i.svn) && s.signerIn (upTo 4) i.signer

/-- The slot that S2 boots (R442, R453). -/
def Mach.bootSlot (s : Mach) : Option Nat :=
  let m := fun (k : Nat) => (s.sec.flash.get {} (2 * k)).svn
  let first := if m 0 < m 1 then 1 else 0
  let a := if s.sec.alt.testBit 2 || s.sec.alt.testBit 3 then 1 - first else first
  [a, 1 - a].find? fun k => s.imageOk k 0 && s.imageOk k 1

/-- The crystal start-up code (R459). -/
def Mach.xtalCode (s : Mach) : Nat := if s.sec.journal.any fun e => !e.clr && e.stage == 0 then 7 else match s.pw.otpDelay with | some n => n | none => s.pw.straps

/-- The next stage begins. -/
def Mach.nextStage (s : Mach) : Mach := s.updSec fun x => { x with stage := x.stage + 1 }

/-- Train the ports at S8 (R350). -/
def Mach.trainPorts (s : Mach) (rep : StageReport) : Mach :=
  s.portSites.foldl (fun m p =>
    let lanes := ((rep.portLanes.filter fun x => x.1 == p).map fun x => x.2).foldl (fun l x => insSorted x l) []
    let m1 := m.updPort p fun q => { q with present := true, failed := lanes.foldl (fun l x => insSorted x l) q.failed }
    if s.sec.outPorts.contains p then m1.updPort p fun q => { q with jrnl := true }
    else if !(bit (m.reg (dilCtl p)) 31) then m1.updPort p fun q => { q with down := 1 }
    else if rep.bad.contains p then m1.updPort p fun q => { q with down := 2 }
    else
      let m2 := m1.portTrain p
      match rep.peers.find? fun x => x.1 == p with
      | some x => m2.updPort p fun q => { q with peer := x.2 ||| 0x80000000 }
      | none => m2) s

/-- Train the stacks at S7 (R288). -/
def Mach.trainStacks (s : Mach) (rep : StageReport) : Mach :=
  let cons := s.sec.alt.testBit 7
  let s1 := s.stackSites.foldl (fun m n => m.updStack n fun x =>
    let dead := rep.bad.contains n || s.sec.outStacks.contains n || !(s.part.dies.contains (n / 2))
    { x with present := true, trained := !dead, conserv := cons, failed := dead }) s
  { s1 with part := { s1.part with idHbm := true } }

/-- The package profile is formed at S5 (R33). -/
def Mach.formProfile (s : Mach) : Mach :=
  let ds := s.diesUp
  let caps := ds.foldl (fun (a : Word) d => a &&& s.dieCap d) (if ds.isEmpty then 0 else 0xFFFFFFFF)
  { s with part := { s.part with dies := ds, caps := caps, profValid := true, idRest := true }
           clk := { s.clk with aclkOn := !(ds.isEmpty), code := 2 } }

/-- What a stage that succeeds does (R451). -/
def Mach.stageDone (s : Mach) (rep : StageReport) : Mach :=
  match s.sec.stage with
  | 0 =>
    let alt := s.sec.journal.any fun e => !e.clr && e.stage == 0
    (({ s with clk := { s.clk with hclkOn := true } }).updPw fun p => { p with
      hpll := true, xsd := s.xtalCode, xsrc := p.otpDelay.isSome && !alt, ssc := if alt then 0 else p.otpSsc }).nextStage
  | 1 =>
    let aon := if s.sec.jaonOk then s.sec.jaon else s.sec.jflash.drop (s.sec.jflash.length - 16)
    let s1 := { s with boots := s.boots + 1, part := { s.part with idPart := true } }
    (s1.updSec fun x => { x with
      lc := x.lcFuse, lcValid := true, alt := x.altMask, outDies := (x.failedUnits 4 ++ x.failedUnits 5).foldl (fun l d => insSorted d l) []
      outPorts := x.failedUnits 8, rateCap := min 2 (x.journal.filter fun e => !e.clr && e.stage == 11).length
      jaon := aon, jaonOk := true }).nextStage
  | 2 =>
    (match s.bootSlot with
     | some k =>
       let i := fun (n : Nat) => s.sec.flash.get {} (2 * k + n)
       ((s.spendLeaf).updSec fun x => { x with
         slot := k, booted := (x.booted.put 0 (i 0).svn).put 1 (i 1).svn, meas := (x.meas.put 2 (i 0).hash).put 3 (i 1).hash }).nextStage
     | none => s)
  | 3 => s.nextStage
  | 4 =>
    let apll := s.diesUp.foldl (fun a d => a + 2 ^ d) 0
    (({ s with pins := { s.pins with pwrEn := 0x3C000 + s.diesUp.foldl (fun a d => a + 2 ^ (6 + d) + 2 ^ (10 + d)) 0 } }).updPw fun p => { p with
      apll := apll, mpll := true, lpll := 7 }).nextStage
  | 5 => (s.formProfile).nextStage
  | 6 => (rep.lanes.foldl (fun m x => m.d2dFail x.1 x.2.1 x.2.2) s).nextStage
  | 7 => (s.trainStacks rep).nextStage
  | 8 => (s.trainPorts rep).nextStage
  | 9 => (if s.sec.alt.testBit 9 then s else (s.fitRun 0 0xFFFF rep.fit.fails).1).nextStage
  | 10 => (s.applyRepair).nextStage
  | _ =>
    let s1 := ({ s with hq := { s.hq with linkUp := true, host := rep.pci, pci := { rep.pci with rate := min rep.pci.rate (6 - s.sec.rateCap) } } }).updPw fun p => { p with ppll := true }
    let s2 := s1.updSec fun x => { x with done := true }
    s2.raise 0x182 s2.secBoot s2.secBootCnt

/-- A stage that fails in its alternate form has a further alternate, or its unit goes out of service (R453, R454). -/
inductive FailPath where
  | reset
  | park
  | goOn
  deriving DecidableEq, Repr

/-- What a failure of a stage leads to (DEDUCED, log entry 44). -/
def Mach.failPath (s : Mach) (st unit : Nat) : FailPath :=
  if !(s.sec.alt.testBit st) then (if st = 4 ∧ 4 ≤ unit then .park else .reset)
  else match st with
    | 4 | 5 => if unit < 4 ∧ !(s.sec.outDies.contains unit) then .reset else .park
    | 6 | 7 | 8 => .goOn
    | 11 => if s.sec.rateCap < 2 then .reset else .park
    | _ => .park

/-- A failure of a unit at a stage is recorded (R451, R453): the journal entry, the Hatbox record and the event. -/
def Mach.recordFail (s : Mach) (cause unit : Nat) : Mach :=
  let s1 := (s.journal s.sec.stage cause unit).hatbox 12 []
  s1.raise 0x183 s1.secJrnl s1.secJrnlBoot

/-- A unit that fails again from S6 onwards leaves service (R454), and the stage does the rest of its work: a ring-link or hub-link group, numbered
8 × die + group, carries nothing; a stack is FAILED; a port stays down (DEDUCED, log entry 44). -/
def Mach.unitsOut (s : Mach) (units : List Nat) (rep : StageReport) : Mach :=
  match s.sec.stage with
  | 6 =>
    let s1 := rep.lanes.foldl (fun m x => m.d2dFail x.1 x.2.1 x.2.2) s
    units.foldl (fun m u => (upTo 68).foldl (fun m l => m.d2dFail (u / 8) (u % 8) l) m) s1
  | 7 => (s.updSec fun x => { x with outStacks := units.foldl (fun l u => insSorted u l) x.outStacks }).trainStacks rep
  | 8 => (s.updSec fun x => { x with outPorts := units.foldl (fun l u => insSorted u l) x.outPorts }).trainPorts rep
  | _ => s

/-- A stage fails for its units (R451 to R454): each is recorded; then reset, park, or the units leave service. -/
def Mach.stageFail (s : Mach) (cause : Nat) (units : List Nat) (rep : StageReport) : Mach :=
  let st := s.sec.stage
  let s2 := units.foldl (fun m u => m.recordFail cause u) s
  if st = 0 then (if s.sec.journal.any fun e => !e.clr && e.stage == 0 then s2.park else s2.reset true 5)
  else match s.failPath st (units.headD 0) with
    | .reset => s2.reset false 6
    | .park => s2.park
    | .goOn => (s2.unitsOut units rep).nextStage

/-- Units that a training stage reports as failing and that take part in it (R288, R350): stacks at S7, enabled ports at S8. -/
def Mach.unitsFailing (s : Mach) (rep : StageReport) : List Nat :=
  match s.sec.stage with
  | 7 => s.stackSites.filter fun n => rep.bad.contains n && !(s.sec.outStacks.contains n) && s.part.dies.contains (n / 2)
  | 8 => s.portSites.filter fun p => rep.bad.contains p && !(s.sec.outPorts.contains p) && bit (s.reg (dilCtl p)) 31
  | _ => []

/-- A boot stage ends (R451): with TESTMODE tied high the E9 stays in S0; a SCRAPPED part parks at S2, and S2 with no slot that verifies fails. -/
def Mach.bootAdvance (s : Mach) (rep : StageReport) : Mach :=
  let st := s.sec.stage
  if s.sec.done || s.sec.parked || (st == 0 && s.pins.testmode) then s
  else if !rep.ok then s.stageFail rep.cause [rep.unit] rep
  else if st = 0 ∧ s.pins.pgood % 64 ≠ 63 then s.stageFail 4 [0] rep
  else if st = 2 ∧ s.sec.lc = 3 then s.park
  else if st = 2 ∧ s.bootSlot.isNone then s.stageFail 2 [0] rep
  else if s.unitsFailing rep != [] then s.stageFail 3 (s.unitsFailing rep) rep
  else s.stageDone rep

/-- A stage watchdog expires. -/
def Mach.stageWatchdog (s : Mach) (unit : Nat) : Mach :=
  if s.sec.done || s.sec.parked then s else s.stageFail 1 [unit] {}

/-! ## The mailbox (R455, R456) -/

/-- A mailbox slot. -/
def Mach.mbx (s : Mach) (c : Nat) : Mbx := s.sec.boxes.get {} c

/-- Argument word w of slot c. -/
def Mach.mbArg (s : Mach) (c w : Nat) : Word := s.reg (0x9_0110 + 0x100 * c + 4 * w)

/-- Bonnet's answer to a request: response words from 0, DONE, ERR, and the event. -/
def Mach.mbDone (s : Mach) (c err : Nat) (rsp : List Word) : Mach :=
  let b := s.mbx c
  let s1 := s.updSec fun x => { x with
    boxes := x.boxes.put c { b with req := none, done := true, err := err, rsp := (numbered rsp).foldl (fun m y => SMap.put m y.1 y.2) b.rsp }
    lastServed := c }
  s1.raise (0x180 + c) (s1.mbx c).stat 0

/-- The slots in which an operation is allowed. -/
def mbSlots (op : Nat) : List Nat :=
  match op with
  | 0x01 | 0x02 | 0x0A => [1]
  | 0x07 | 0x08 => [0]
  | 0x03 | 0x04 | 0x05 | 0x06 | 0x09 => [0, 1]
  | _ => []

/-- A write of SEC_MBCMD_c by its owner while the slot is not BUSY: an undefined OP and one not allowed in the slot are answered at once (DEDUCED, log entry 45). -/
def Mach.mbRequest (s : Mach) (c op : Nat) : Mach :=
  let s1 := s.updSec fun x => { x with boxes := x.boxes.put c { (x.boxes.get {} c) with req := some op, op := op } }
  if op = 0 ∨ 0x0A < op then s1.mbDone c 1 []
  else if !((mbSlots op).contains c) then s1.mbDone c 2 []
  else s1

/-- The slot that Bonnet serves next: the one not served last when both wait. -/
def Mach.nextSlot (s : Mach) : Option Nat :=
  match (s.mbx 0).req, (s.mbx 1).req with
  | some _, some _ => some (1 - s.sec.lastServed)
  | some _, none => some 0
  | none, some _ => some 1
  | none, none => none

/-- Bonnet can serve slot c's request of an operation now: its ROM or monitor runs from S2 on. -/
def Mach.serves (s : Mach) (c op : Nat) : Bool := s.nextSlot == some c && (s.mbx c).req == some op && decide (2 ≤ s.sec.stage)

/-- Words of a hash or key value, lowest first. -/
def wordsOf (n x : Nat) : List Word := (upTo n).map fun i => BitVec.ofNat 32 (x / 2 ^ (32 * i))

/-- The bytes of hub SRAM that arguments 0 to 2 of a request name: none where they do not lie in hub SRAM. -/
def Mach.mbBuffer (s : Mach) (c : Nat) : Option (List Byte) :=
  let a := (s.mbArg c 0).toNat + (s.mbArg c 1).toNat * 2 ^ 32
  let n := (s.mbArg c 2).toNat
  if 0x2000_0000_0000 ≤ a ∧ a + n ≤ 0x2000_0200_0000 then some (s.hub.bytes (a - 0x2000_0000_0000) n) else none

/-- VERIFY. -/
def Mach.mbVerify (s : Mach) : Mach :=
  if !(s.serves 1 0x01) then s
  else match s.mbBuffer 1 with
    | none => s.mbDone 1 3 []
    | some bs =>
      let ty := (s.mbArg 1 3).toNat
      if !([1, 2, 3, 4, 6, 7].contains ty) then s.mbDone 1 3 []
      else
        let r := s.verify bs ty
        let h := wordsOf 12 (hdrNat bs 16 48)
        if r.2 = 0 then r.1.mbDone 1 0 (0 :: h)
        else (r.1.raise 0x187 (mkWord [(0, r.2), (16, ty)]) 0).mbDone 1 5 (BitVec.ofNat 32 r.2 :: h)

/-- The identity keys have ended (R449). -/
def Mach.noIdentity (s : Mach) : Bool := s.sec.kill || decide (2 ≤ s.sec.lc)

/-- SIGN: r and the first words of s, and the rest on a repeated SIGN with argument 13 set to 1. -/
def Mach.mbSign (s : Mach) : Mach :=
  if !(s.serves 1 0x02) then s
  else if s.noIdentity || decide (s.sec.stage < 3) then s.mbDone 1 4 []
  else if s.mbArg 1 13 = 1 then
    (if s.sec.sigRest.isEmpty then s.mbDone 1 4 [] else (s.updSec fun x => { x with sigRest := [] }).mbDone 1 0 s.sec.sigRest)
  else if s.mbArg 1 13 ≠ 0 then s.mbDone 1 3 []
  else
    let t := (upTo 12).foldl (fun a i => a + (s.mbArg 1 i).toNat * 2 ^ (32 * i)) 0
    let ws := wordsOf 24 (Config.aliasSign s.boots (s.mbArg 1 12).toNat (BitVec.ofNat 384 t)).toNat
    (s.updSec fun x => { x with sigRest := ws.drop 16 }).mbDone 1 0 (ws.take 16)

/-- MEASURE. -/
def Mach.mbMeasure (s : Mach) (c : Nat) : Mach :=
  if !(s.serves c 0x03) then s
  else
    let i := (s.mbArg c 0).toNat
    if i = 0 ∨ 8 < i then s.mbDone c 3 [] else s.mbDone c 0 (wordsOf 12 (s.measurement i).toNat)

/-- CERT. -/
def Mach.mbCert (s : Mach) (c : Nat) : Mach :=
  if !(s.serves c 0x04) then s
  else
    let k := (s.mbArg c 0).toNat
    let o := (s.mbArg c 1).toNat
    let n := Config.certLen k s.boots
    if 1 < k then s.mbDone c 3 []
    else if s.noIdentity then s.mbDone c 4 []
    else
      let bs := (upTo 60).filterMap fun i => if o + i < n then some (Config.certByte k s.boots (o + i)) else none
      s.mbDone c 0 (BitVec.ofNat 32 n :: wordsOfBytes bs)

/-- FUSEREAD. -/
def Mach.mbFuseRead (s : Mach) (c : Nat) : Mach :=
  if !(s.serves c 0x05) then s else s.mbDone c 0 [Config.fuseRow (s.mbArg c 0).toNat]

/-- UPDATE (R443): an image that passes R440 goes into the slot not booted; an interrupted write leaves that slot failing check 6. -/
def Mach.mbUpdate (s : Mach) (c : Nat) (flashOk : Bool) : Mach :=
  if !(s.serves c 0x06) then s
  else match s.mbBuffer c with
    | none => s.mbDone c 3 []
    | some bs =>
      let ty := hdrNat bs 4 2
      let slot := 1 - s.sec.slot
      let code := s.verifyObj bs (if ty = 2 then 2 else 1) (upTo 4) none
      if code != 0 then (s.raise 0x187 (mkWord [(0, code), (16, ty % 256)]) 0).mbDone c 5 [BitVec.ofNat 32 code, BitVec.ofNat 32 slot]
      else
        let key := 2 * slot + (if ty = 2 then 1 else 0)
        let img : FlashImg := { svn := hdrNat bs 6 2, flags := hdrNat bs 12 4, signer := BitVec.ofNat 384 (hdrNat bs 64 48), hash := BitVec.ofNat 384 (hdrNat bs 16 48), good := flashOk }
        let s1 := s.updSec fun x => { x with flash := x.flash.put key img }
        if flashOk then (s1.raise 0x188 (BitVec.ofNat 32 slot) (BitVec.ofNat 32 img.svn)).mbDone c 0 [0, BitVec.ofNat 32 slot]
        else s1.mbDone c 6 [0, BitVec.ofNat 32 slot]

/-- SVNADV (R443): only after S11, to the SVN of the image now booted. -/
def Mach.mbSvnAdv (s : Mach) (fuseOk : Bool) : Mach :=
  if !(s.serves 0 0x07) then s
  else
    let k := (s.mbArg 0 0).toNat
    if 2 < k then s.mbDone 0 3 []
    else if !s.sec.done then s.mbDone 0 4 []
    else if !fuseOk then s.mbDone 0 7 []
    else
      let n := max (s.fuseSvn k) (s.sec.booted.get 0 k)
      let s1 := s.updSec fun x => { x with svn := x.svn.put k n }
      (s1.raise 0x189 s1.secSvn 0).mbDone 0 0 [BitVec.ofNat 32 n]

/-- LCADV (R449): refused while a job is loaded; a token bound to this device and to the target state (DEDUCED, log entry 45). -/
def Mach.mbLcAdv (s : Mach) (fuseOk : Bool) : Mach :=
  if !(s.serves 0 0x08) then s
  else match s.mbBuffer 0 with
    | none => s.mbDone 0 3 []
    | some bs =>
      let tgt := hdrNat bs 160 1
      let cur := s.sec.lcFuse
      if s.hq.job != .idle then s.mbDone 0 4 []
      else
        let code := s.verifyObj bs 7 (if tgt = 3 then upTo 8 else upTo 4) none
        if code != 0 then (s.raise 0x187 (mkWord [(0, code), (16, 7)]) 0).mbDone 0 5 [BitVec.ofNat 32 code]
        else if BitVec.ofNat 384 (hdrNat bs 112 48) != Config.deviceKeyHash then
          let r := s.freeWords 1
          r.2.mbDone 0 5 [r.1.getD 0 0]
        else if !((cur == 0 && tgt == 1) || (cur == 1 && tgt == 2) || (cur != 3 && tgt == 3)) then s.mbDone 0 4 []
        else if !fuseOk then s.mbDone 0 7 []
        else
          let body := (bs.drop 256).take (hdrNat bs 8 4)
          let own := (upTo 4).filter fun k => tgt == 1 && Config.tokenHasRoot body k
          let s1 := s.updSec fun x => { x with
            lcFuse := tgt
            kill := x.kill || decide (2 ≤ tgt)
            roots := own.foldl (fun m k => SMap.put m (4 + k) { hash := Config.tokenRoot body k, valid := true, revoked := (SMap.get {} m (4 + k)).revoked }) x.roots }
          (s1.raise 0x185 s1.secLc 0).mbDone 0 0 [0]

/-- JRNLCLR (R453). -/
def Mach.mbJrnlClr (s : Mach) (c : Nat) : Mach :=
  if !(s.serves c 0x09) then s
  else
    let mask := (s.mbArg c 0).toNat % 2 ^ 12
    let had := ((upTo 12).filter fun st => mask.testBit st && s.sec.journal.any fun e => !e.clr && e.stage == st).foldl (fun a st => a + 2 ^ st) 0
    let clr := fun (l : List JEntry) => l.map fun e => if mask.testBit e.stage then { e with clr := true } else e
    (s.updSec fun x => { x with jaon := clr x.jaon, jflash := clr x.jflash }).mbDone c 0 [BitVec.ofNat 32 had]

/-- IDEKEY (R447, R373): with the keys of both directions of a set, the stream is Secure (DEDUCED, log entry 67). -/
def Mach.mbIdeKey (s : Mach) : Mach :=
  if !(s.serves 1 0x0A) then s
  else
    let k := (s.mbArg 1 0).toNat
    let d := (s.mbArg 1 1).toNat
    if 1 < k ∨ 1 < d then s.mbDone 1 3 []
    else if s.noIdentity then s.mbDone 1 4 []
    else
      let s1 := s.updSec fun x => { x with ide := x.ide.put (2 * k + d) (Config.ideKey k d s.boots) }
      let both := (s1.sec.ide.any fun x => x.1 == 2 * k) && s1.sec.ide.any fun x => x.1 == 2 * k + 1
      (if both then { s1 with hq := { s1.hq with ideSecure := true, ideFailed := false } } else s1).mbDone 1 0 []

/-! ## SPDM (R447, R450, R452) -/

/-- The codes of the SPDM messages that the responder supports, in the order of R447. -/
inductive SpdmOp where
  | getVersion | getCapabilities | negotiateAlgorithms | getDigests | getCertificate | challenge | getMeasurements
  | keyExchange | finish | heartbeat | keyUpdate | endSession | vendorDefined
  deriving DecidableEq, Repr

/-- The responder is reachable: the sideband from S3, DOE once the link is up; a RMA part answers only the version and capability messages, a SCRAPPED none. -/
def Mach.spdmReach (s : Mach) (op : SpdmOp) (q : SpdmReq) : Bool :=
  let open_ := if q.mctp then decide (3 ≤ s.sec.stage) else s.sec.done && s.hq.linkUp
  let lc := match s.sec.lc with | 2 => (match op with | .getVersion => true | .getCapabilities => true | _ => false) | 3 => false | _ => true
  open_ && lc

/-- The order that DSP0274 sets (log entry 40): version, capabilities, algorithms, then the others; a session before its messages. -/
def Spdm.inOrder (p : Spdm) : SpdmOp → Bool
  | .getVersion => true
  | .getCapabilities => p.ver
  | .negotiateAlgorithms => p.ver && p.cap
  | .finish => p.alg && p.session == 1
  | .heartbeat => p.session == 2
  | .keyUpdate => p.session == 2
  | .endSession => p.session == 2
  | _ => p.alg

/-- The connection after an answer. -/
def Spdm.after (p : Spdm) : SpdmOp → Spdm
  | .getVersion => { p with ver := true, cap := false, alg := false, session := 0 }
  | .getCapabilities => { p with cap := true }
  | .negotiateAlgorithms => { p with alg := true }
  | .keyExchange => { p with session := 1 }
  | .finish => { p with session := 2 }
  | .endSession => { p with session := 0 }
  | _ => p

/-- An SPDM request: no answer, an ERROR response, or its response. -/
def Mach.spdm (s : Mach) (op : SpdmOp) (q : SpdmReq) : Mach :=
  if !(s.spdmReach op q) then s
  else
    let p := s.sec.spdm
    let certBad := (match op with | .getCertificate => q.slot != 0 | .challenge => q.slot != 0 | _ => false)
    if !q.ok || certBad || !(p.inOrder op) then s.updSec fun x => { x with spdm := { x.spdm with errs := x.spdm.errs + 1 } }
    else
      let s1 := s.updSec fun x => { x with spdm := { (p.after op) with answers := p.answers + 1 } }
      if q.mctp && s1.pins.dynAddr.isNone then { s1 with pins := { s1.pins with alert := true } } else s1

/-! ## Balls (R521 to R523) -/

/-- SETDASA or ENTDAA gives the sideband a dynamic address. -/
def Mach.dynAddr (s : Mach) (byStatic : Bool) (static addr : Nat) : Mach :=
  if s.sec.stage < 3 ∨ (byStatic ∧ static ≠ 0x48 + s.pins.sbaddr) then s
  else { s with pins := { s.pins with dynAddr := some (addr % 128), alert := false } }

/-- DEVID of a variant. -/
def devId (v : Nat) : Nat := 0xE940 + v

/-- The IDCODE register (R522). -/
def Mach.idcode (s : Mach) : Word :=
  mkWord [(28, s.part.hubStep % 16), (12, devId s.part.variant), (1, Config.jep106.toNat), (0, 1)]

/-- A JTAG instruction within the limits of the lifecycle state (R450): 1 IDCODE, 2 boundary scan, 3 any other. -/
def Mach.jtag (s : Mach) (k : Nat) : Mach :=
  let lvl := match (if s.sec.lcValid then s.sec.lc else s.sec.lcFuse) with | 1 => 2 | 3 => 1 | _ => 3
  if k = 0 ∨ lvl < k then s
  else { s with pins := { s.pins with jtag := k, idcode := if k = 1 then s.idcode else s.pins.idcode } }

end Sys2Proof.Machine
end

