-- ==== Sys2Proof/Machine/Regs.lean ====
section
/-! DEFINITION. The register file (R10, R11, R90 to R92, R242, R381, R393, R394, R407, R497 to R506): what each BAR0 word reads as, the side effects of a
read, and what a write does. -/

namespace Sys2Proof.Machine

/-- A class of writers as HQ_OWN numbers it. -/
def writerCls : Writer → Nat
  | .host => 0
  | .brim _ => 1
  | .bonnet => 2

/-- The agent of a writer's counter commands (R243, R254). -/
def writerAgent : Writer → Nat
  | .host => 5 * 2 ^ 13
  | .brim c => 6 * 2 ^ 13 + c % 4
  | .bonnet => 6 * 2 ^ 13

/-- The index of an offset in a set of n registers at a base and a stride. -/
def arr (off base stride n : Nat) : Option Nat :=
  if base ≤ off ∧ (off - base) % stride = 0 ∧ (off - base) / stride < n then some ((off - base) / stride) else none

/-- A set of registers, with what each reads as or does by its index. -/
abbrev Rows (α : Type) := List (Nat × Nat × Nat × (Nat → α))

/-- Look an offset up in a list of register sets. -/
def rowAt {α : Type} (off : Nat) : Rows α → Option α
  | [] => none
  | (b, st, n, f) :: r => match arr off b st n with | some i => some (f i) | none => rowAt off r

/-! ## What a register reads as -/

/-- Tiles available on dies in service (ID_TILES.ACTIVE). -/
def Mach.unavRows (s : Mach) : Nat := s.part.dies.foldl (fun a d => a + ((s.die d).rowmap.filter fun y => bit y.2 16).length) 0

/-- ID_HEALTH. -/
def Mach.health (s : Mach) : Word :=
  let stack := s.hbms.any fun x => x.2.failed
  let held := !(s.sec.outDies.isEmpty)
  let rows := decide (0 < s.unavRows)
  mkWord [(31, b2n (stack || s.d2dLost || held || rows)), (30, b2n (held || s.d2dLost)), (3, b2n stack), (2, b2n s.d2dLost), (1, b2n held), (0, b2n rows)]

/-- ID_DIE_d. -/
def Mach.idDie (s : Mach) (d : Nat) : Word :=
  if !(s.present d) then 0
  else if s.sec.outDies.contains d then (if s.part.idRest || decide (5 ≤ s.sec.stage) then 0xC0000000 else 0)
  else if s.part.idRest then mkWord [(31, 1), (16, (s.tpids d).length), (8, s.part.crowns.get 0 d), (0, s.part.dieStep.get 0x10 d)]
  else 0

/-- The value of a word that Brim loads at S5. -/
def Mach.idw (s : Mach) (w : Word) : Word := if s.part.idRest then w else 0

/-- The ID_ block (the stage at which each register is loaded: DEDUCED, log entry 11). -/
def Mach.idRows (s : Mach) : Rows Word :=
  [ (0x00, 4, 1, fun _ => 0x554C5839),
    (0x04, 4, 1, fun _ => if s.part.idPart then mkWord [(16, devId s.part.variant), (0, s.part.variant)] else 0),
    (0x08, 4, 1, fun _ => s.idw (mkWord [(31, b2n s.part.profValid), (0, s.part.hubStep)])),
    (0x10, 4, 4, fun d => s.idDie d),
    (0x20, 4, 4, fun d => if s.part.dies.contains d then s.idw (s.dieCap d) else 0),
    (0x30, 4, 1, fun _ => s.idw s.part.caps),
    (0x40, 4, 4, fun n => match s.tpSet[n]? with | some t => s.idw (mkWord [(31, 1), (0, t)]) | none => 0),
    (0x50, 4, 1, fun _ => s.idw (mkWord [(8, s.stackSites.foldl (fun a n => a + 2 ^ n) 0), (0, s.part.dies.foldl (fun a d => a + 2 ^ d) 0)])),
    (0x54, 4, 1, fun _ => s.idw (BitVec.ofNat 32 (s.portSites.foldl (fun a p => a + 2 ^ p) 0))),
    (0x58, 4, 1, fun _ => s.idw (mkWord [(16, s.unavRows), (0, 1792 * s.part.dies.length - 32 * s.unavRows)])),
    (0x5C, 4, 1, fun _ => s.idw s.health),
    (0x60, 4, 8, fun n => if s.part.idHbm && s.stackSites.contains n then BitVec.ofNat 32 (Config.hbmRev n).toNat else 0) ]

/-- HQ_OWN: Bonnet's assignment of R393, from S3. -/
def ownClass (b : Nat) : Nat := ([2, 0, 3, 3, 3, 3, 3, 3, 1, 2, 3, 3, 0, 3, 3] : List Nat).getD b 3

/-- HQ_STAT. -/
def Mach.hqStat (s : Mach) : Word := mkWord [(4, b2n s.hq.jcBusy), (3, b2n s.hq.stopReq), (0, s.hq.job.num)]

/-- The HQ_ block, doorbell pages among it (every doorbell reads 0). -/
def Mach.hqRows (s : Mach) : Rows Word :=
  [ (0x1_0000, 4, 1, fun _ => s.hqStat),
    (0x1_0004, 4, 1, fun _ => s.reg 0x1_0004),
    (0x1_0008, 4, 1, fun _ => if 4 ≤ s.sec.stage then mkWord ((upTo 15).map fun b => (2 * b, ownClass b)) else 0),
    (0x1_000C, 4, 1, fun _ => s.hq.ownDrop),
    (0x1_0010, 4, 1, fun _ => s.hq.err),
    (0x1_0040, 0x20, 41, fun r => s.reg (0x1_0040 + 0x20 * r)),
    (0x1_0044, 0x20, 41, fun r => s.reg (0x1_0044 + 0x20 * r)),
    (0x1_0048, 0x20, 41, fun r => s.reg (0x1_0048 + 0x20 * r)),
    (0x1_004C, 0x20, 41, fun r => mkWord [(16, (s.ring r).tail), (0, (s.ring r).head)]),
    (0x1_0050, 0x20, 41, fun r => mkWord [(31, b2n (s.ring r).phase), (30, b2n (s.ringEn r && s.ringFull r)), (29, b2n (s.ring r).stopped)]),
    (0x1_8000, 4, 128, fun i => s.reg (0x1_8000 + 4 * i)),
    (0x1_9000, 4, 1, fun _ => s.hq.pba),
    (0x1_9004, 4, 1, fun _ => 0) ]

/-- The EVC_ block. -/
def Mach.evcRows (s : Mach) : Rows Word :=
  [ (0x2_0000, 4, 512, fun i => s.reg (srcCfg i)),
    (0x2_0800, 4, 512, fun i => let e := s.evc.srcs.get {} i; mkWord [(31, b2n e.pend), (30, b2n (isLevel i && e.lvl)), (0, e.count)]),
    (0x2_1000, 4, 16, fun g => mkWord [(8, s.evc.last.get 4 g), (0, (s.reg (grpReg g)).toNat % 32)]),
    (0x2_1040, 4, 1, fun _ => BitVec.ofNat 32 s.evc.hostQ.length),
    (0x2_1050, 4, 4, fun c => BitVec.ofNat 32 (s.evc.brimQ.get [] c).length),
    (0x2_1100, 4, 32, fun i => ((s.evc.brimQ.get [] (i / 8)).headD []).getD (i % 8) 0),
    (0x2_1180, 4, 4, fun _ => 0),
    (0x2_1200, 4, 1, fun _ => 0),
    (0x2_1204, 4, 1, fun _ => s.reg 0x2_1204),
    (0x2_1208, 4, 1, fun _ => BitVec.ofNat 32 s.evc.spurn) ]

/-- CRP_CLKSTAT. -/
def Mach.clkStat (s : Mach) : Word :=
  mkWord [(31, b2n s.pw.xt1), (30, b2n s.pw.xsrc), (27, s.pw.xsd), (11, b2n s.pw.ppll), (8, s.pw.lpll), (7, b2n s.pw.mpll), (6, b2n s.pw.hpll), (0, s.pw.apll)]

/-- The high or low word of a 64-bit value. -/
def half64 (x : Nat) (hi : Nat) : Word := BitVec.ofNat 32 (x / 2 ^ (32 * hi))

/-- The CRP_ block. CRP_TEMP_4 and CRP_PSCFG have one offset: the word reads as CRP_PSCFG, and a read clears MAXT of unit 4 (DESIGN CHOICE, log entry 76). -/
def Mach.crpRows (s : Mach) : Rows Word :=
  [ (0x3_0000, 4, 1, fun _ => s.aclkStat),
    (0x3_0004, 4, 1, fun _ => s.reg 0x3_0004),
    (0x3_0008, 4, 1, fun _ => s.pcap),
    (0x3_000C, 4, 1, fun _ => s.pwrReg),
    (0x3_0010, 4, 4, fun u => s.tempReg u),
    (0x3_0020, 4, 1, fun _ => s.reg 0x3_0020),
    (0x3_0024, 4, 1, fun _ => s.psStat),
    (0x3_0028, 4, 4, fun i => s.reg (0x3_0028 + 4 * i)),
    (0x3_0038, 4, 2, fun i => half64 (s.pw.hint.getD 0) i),
    (0x3_0040, 4, 1, fun _ => s.clkStat),
    (0x3_0044, 4, 1, fun _ => s.pw.ssc),
    (0x3_0050, 4, 1, fun _ => mkWord [(31, b2n s.pw.cold), (0, s.pw.cause)]),
    (0x3_0054, 4, 1, fun _ => 0) ]

/-- GSC_VAL_n (R255: the first 8 waiters are shown). -/
def Gsc.val (g : Gsc) : Word :=
  mkWord [(24, b2n (decide (8 < g.waiters.length))), (20, min 8 g.waiters.length), (17, b2n g.oflag), (16, b2n g.uflag), (0, g.value)]

/-- The GSC_ and BMV_ blocks. -/
def Mach.gscRows (s : Mach) : Rows Word :=
  [ (0x4_0000, 16, 1024, fun n => s.gscCfg n),
    (0x4_0004, 16, 1024, fun n => (s.gsc n).val),
    (0x4_0008, 16, 1024, fun _ => 0),
    (0x4_000C, 16, 1024, fun n => mkWord [(16, b2n (s.gsc n).lvalid), (0, (s.gsc n).agent)]),
    (0x4_4000, 4, 1, fun _ => s.reg 0x4_4000),
    (0x4_4010, 4, 8, fun k => match (s.gsc (fld (s.reg 0x4_4000) 9 0)).waiters[k]? with | some a => mkWord [(16, 1), (0, a)] | none => 0),
    (0x5_0000, 4, 2, fun i => s.reg (0x5_0000 + 4 * i)),
    (0x5_0100, 4, 32, fun m => let x := s.mover m; mkWord [(31, b2n x.xfer.isSome), (30, b2n x.err), (28, x.user), (0, x.done)]) ]

/-- The ITG_ and HBX_ blocks. -/
def Mach.itgRows (s : Mach) : Rows Word :=
  [ (0x6_0000, 4, 1, fun _ => s.reg 0x6_0000),
    (0x6_0004, 4, 1, fun _ => 0),
    (0x6_0010, 4, 1, fun _ => s.reg 0x6_0010),
    (0x6_0014, 4, 1, fun _ => s.rpstat),
    (0x6_0018, 4, 1, fun _ => BitVec.ofNat 32 s.itg.stale),
    (0x6_0040, 4, 7, fun k => mkWord [(16, s.itg.eccUe.get 0 k), (0, s.itg.ecc.get 0 k)]),
    (0x6_0080, 4, 1, fun _ => s.fitStat),
    (0x6_0084, 4, 1, fun _ => s.fitCnt),
    (0x6_0100, 4, 1, fun _ => s.hbxStat),
    (0x6_0104, 4, 1, fun _ => s.hbx.seq),
    (0x6_0110, 4, 16, fun k => s.reg (0x6_0110 + 4 * k)),
    (0x6_0180, 4, 12, fun w => s.reg (0x6_0180 + 4 * w)),
    (0x6_01C0, 4, 1, fun _ => 0),
    (0x6_8000, 4, 1, fun _ => s.reg 0x6_8000),
    (0x6_8008, 4, 2, fun i => s.reg (0x6_8008 + 4 * i)),
    (0x6_8010, 4, 1, fun _ => s.reg 0x6_8010),
    (0x6_8014, 4, 1, fun _ => mkWord [(31, b2n s.dig.busy), (30, b2n s.dig.ovr), (29, b2n s.dig.incomp), (0, s.dig.lines % 2 ^ 29)]),
    (0x6_8018, 4, 1, fun _ => s.dig.finStep),
    (0x6_8020, 4, 2, fun i => half64 s.dig.fin.toNat i),
    (0x6_8030, 4, 1, fun _ => s.reg 0x6_8030),
    (0x6_8038, 4, 1, fun _ => s.cmpStat),
    (0x6_803C, 4, 1, fun _ => s.itg.cmpStep),
    (0x6_8040, 4, 2, fun i => half64 s.itg.cmpMis.toNat i),
    (0x8_0000, 4, 16384, fun i => (s.hbx.recs.get [] (i / 16)).getD (i % 16) 0) ]

/-- The TRW_ block. -/
def Mach.trwRows (s : Mach) : Rows Word :=
  let t := s.trw
  [ (0x7_0000, 4, 2, fun i => half64 s.clk.tb.toNat i),
    (0x7_0010, 4, 2, fun i => s.reg (0x7_0010 + 4 * i)),
    (0x7_0018, 4, 1, fun _ => s.lwStat),
    (0x7_001C, 4, 1, fun _ => t.step),
    (0x7_0020, 4, 1, fun _ => t.loss),
    (0x7_0028, 4, 2, fun i => half64 t.m i),
    (0x7_0030, 4, 2, fun i => half64 t.v i),
    (0x7_0038, 4, 1, fun _ => mkWord [(16, t.spkn), (0, t.unappn)]),
    (0x7_0040, 4, 6, fun i => half64 (t.nfs.get 0 (i / 2)) (i % 2)),
    (0x7_0060, 4, 3, fun k => BitVec.ofNat 32 (t.outcome.get 0 k)),
    (0x7_0080, 4, 1, fun _ => s.reg 0x7_0080),
    (0x7_0088, 4, 2, fun i => half64 t.winStart i),
    (0x7_0090, 4, 10, fun k => BitVec.ofNat 32 (t.winCnt.get 0 k)),
    (0x7_0100, 4, 4, fun r => s.reg (0x7_0100 + 4 * r)),
    (0x7_0110, 4, 4, fun r => mkWord [(16, t.late.get 0 r), (0, t.exp.get 0 r)]),
    (0x7_0200, 4, 1, fun _ => s.reg 0x7_0200),
    (0x7_0208, 4, 4, fun i => s.reg (0x7_0208 + 4 * i)),
    (0x7_0218, 4, 1, fun _ => s.snapStat),
    (0x7_0400, 4, 512, fun i => s.reg (0x7_0400 + 4 * i)) ]

/-- The SEC_ block. -/
def Mach.secRows (s : Mach) : Rows Word :=
  [ (0x9_0000, 4, 1, fun _ => s.secLc),
    (0x9_0004, 4, 1, fun _ => s.secLeaf),
    (0x9_0008, 4, 1, fun _ => s.secLeafBlk),
    (0x9_0010, 4, 1, fun _ => s.secBoot),
    (0x9_0014, 4, 1, fun _ => s.secBootCnt),
    (0x9_0018, 4, 1, fun _ => s.secJrnl),
    (0x9_001C, 4, 1, fun _ => s.secJrnlBoot),
    (0x9_0020, 4, 1, fun _ => s.secSvn),
    (0x9_0100, 0x100, 2, fun _ => 0),
    (0x9_0104, 0x100, 2, fun c => (s.mbx c).stat),
    (0x9_0110, 4, 16, fun w => s.mbArg 0 w),
    (0x9_0210, 4, 16, fun w => s.mbArg 1 w),
    (0x9_0180, 4, 16, fun w => (s.mbx 0).rsp.get 0 w),
    (0x9_0280, 4, 16, fun w => (s.mbx 1).rsp.get 0 w) ]

/-- DIL_LANE_p_l. -/
def Port.lane (q : Port) (l : Nat) : Word :=
  let act := q.pos.find? fun x => x.1 == l
  if !q.present then 0 else mkWord [(31, b2n (q.failed.contains l)), (30, b2n act.isSome), (24, match act with | some x => x.2 | none => 0), (0, q.serr.get 0 l)]

/-- DIL_SGTSTAT_g_1. -/
def Mach.treeStat1 (s : Mach) (g : Nat) : Word := mkWord [(16, b2n ((s.tree g).formed && (s.localMsg g).isSome)), (0, (s.tree g).seq)]

/-- The block of a DIL port, by offset within it. -/
def Mach.portRows (s : Mach) (p : Nat) : Rows Word :=
  let q := s.port p
  [ (0x00, 4, 1, fun _ => q.stat),
    (0x04, 4, 1, fun _ => s.reg (dilCtl p)),
    (0x08, 4, 1, fun _ => q.peer),
    (0x0C, 4, 1, fun _ => mkWord [(16, q.retryn), (0, q.uncwn)]),
    (0x10, 4, 1, fun _ => BitVec.ofNat 32 q.corrn),
    (0x40, 4, 9, fun l => q.lane l) ]

/-- The common DIL_ registers. -/
def Mach.dilRows (s : Mach) : Rows Word :=
  [ (0xB_0000, 4, 1, fun _ => s.reg 0xB_0000),
    (0xB_0100, 4, 32, fun k => s.reg (0xB_0100 + 4 * k)),
    (0xB_0200, 4, 32, fun i => s.reg (0xB_0200 + 4 * i)),
    (0xB_0300, 8, 16, fun g => (s.tree g).stat0),
    (0xB_0304, 8, 16, fun g => s.treeStat1 g),
    (0xB_0400, 4, 1, fun _ => s.reg 0xB_0400),
    (0xB_0404, 4, 1, fun _ => s.tstat) ]

/-- The block of an HBM stack. -/
def Mach.stackRows (s : Mach) (n : Nat) : Rows Word :=
  [ (0x0, 4, 1, fun _ => s.hbmStat n), (0x4, 4, 1, fun _ => mkWord [(16, (s.stack n).uen), (0, (s.stack n).cen)]) ]

/-- The object table's registers. -/
def Mach.otRows (s : Mach) : Rows Word :=
  [ (0xC_8000, 4, 1, fun _ => 0),
    (0xC_8004, 4, 1, fun _ => s.otStat),
    (0xC_8008, 4, 1, fun _ => BitVec.ofNat 32 (s.ot.gran % 2 ^ 28)),
    (0xC_8010, 4, 4, fun w => s.reg (0xC_8010 + 4 * w)),
    (0xD_0000, 4, 16384, fun i => BitVec.ofNat 32 ((s.ot.ents.get 0 (i / 4)).toNat / 2 ^ (32 * (i % 4)))) ]

/-! ## Compute dies -/

/-- The value of a per-tile register; 0 in an unavailable row (R504). -/
def Mach.perTile (s : Mach) (d t : Nat) (f : Tile → Word) : Word :=
  let n := 1792 * d + t
  if s.unavail n then 0 else f (s.tile n).now

/-- CDC_TFR0. -/
def tfrWord0 (n : Nat) (r : Tfr) : Word :=
  if r.valid then mkWord [(31, 1), (30, b2n r.ovf), (22, r.cause), (18, r.sub), (0, n % 2 ^ 13)] else 0

/-- A word of a tile fault record (R219). -/
def tfrWord (n i : Nat) (r : Tfr) : Word :=
  if !r.valid then 0
  else match i with
    | 0 => tfrWord0 n r
    | 1 => r.word1
    | 2 => BitVec.ofNat 32 r.pcc
    | 3 => BitVec.ofNat 32 r.d0
    | 4 => BitVec.ofNat 32 r.d1
    | _ => 0

/-- CDC_NUMSTAT_t. -/
def numStat (f : NFlags) : Word := mkWord [(3, b2n f.ftzf), (2, b2n f.isatf), (1, b2n f.nanf), (0, b2n f.satf)]

/-- CDC_LSC_t_c. -/
def Tile.lscWord (t : Tile) (c : Nat) : Word :=
  let l := t.lscs.get {} c
  mkWord [(18, (t.waitersShown c).foldl (fun a w => a + 2 ^ w) 0), (17, b2n l.oflag), (16, b2n l.uflag), (0, l.value)]

/-- The head slot of a combining queue: RSEQ mod S. -/
def Tile.headSlot (t : Tile) (q : Nat) : Nat × Nat :=
  let e := t.rqe q
  match (t.rq q).slots.find? fun x => x.1 == (t.rq q).rseq % rqSlots e with
  | some x => (x.2.2.1, x.2.2.2)
  | none => (0, 0)

/-- CDC_RQSTAT_t_q. -/
def Tile.rqStat (t : Tile) (q : Nat) : Word :=
  let e := t.rqe q
  let r := t.rq q
  if rqComb e then mkWord [(31, b2n r.opn), (30, 1), (28, (t.headSlot q).1), (0, r.slots.length)]
  else mkWord [(31, b2n r.opn), (0, r.recs.foldl (fun a x => a + 8 * (x.rlines + if x.pad then 0 else 0)) 0)]

/-- CDC_RQHEAD_t_q. -/
def Tile.rqHead (t : Tile) (q : Nat) : Word :=
  let r := t.rq q
  if rqComb (t.rqe q) then mkWord [(16, (t.headSlot q).2 % 2 ^ 12), (0, r.rseq % 2 ^ 16)]
  else match r.recs with
    | x :: _ => mkWord [(31, b2n x.pad), (16, x.rlines), (0, x.seq % 2 ^ 16)]
    | [] => 0

/-- The block of a compute die in service, by offset within it. -/
def Mach.cdcRows (s : Mach) (d : Nat) : Rows Word :=
  let y := s.die d
  [ (0x1000, 4, 56, fun n => y.rowmap.get 0x3F n),
    (0x2000, 4, 16, fun n => s.sgrpCfg d n),
    (0x2040, 4, 16, fun n => s.sgrpStat d n),
    (0x2080, 4, 16, fun n => y.sgrpLast.get 0 n),
    (0x3000, 4, 1, fun _ => mkWord [(31, b2n (y.segBusy || y.scrubBusy)), (0, (s.reg (cdc d 0x100_3000)).toNat % 2 ^ 16)]),
    (0x4000, 4, 1792, fun t => s.perTile d t fun x => x.cfg.seg),
    (0x6000, 4, 1792, fun t => s.perTile d t fun x => mkWord [(1, b2n x.cfg.num.scope), (0, b2n x.cfg.num.ftz)]),
    (0x8000, 4, 1792, fun t => s.perTile d t fun x => numStat x.cnt.numstat),
    (0xA000, 4, 1792, fun t => s.perTile d t fun x => mkWord [(0, b2n x.cfg.e7q)]),
    (0xC000, 4, 1792, fun t => s.perTile d t fun x => mkWord [(16, x.cnt.abftn), (0, x.cnt.resn)]),
    (0xE000, 4, 1792, fun t => s.perTile d t fun x => mkWord [(16, x.cnt.emptyn), (0, x.cnt.pinfn)]),
    (0x1_0000, 4, 14336, fun i => s.perTile d (i / 8) fun x => tfrWord (1792 * d + i / 8) (i % 8) (x.tfrShown s.clk.aclk)),
    (0x1_E000, 4, 3, fun i => s.reg (cdc d (0x101_E000 + 4 * i))),
    (0x2_0000, 4, 4, fun n => s.tpEnt d n),
    (0x2_0010, 4, 4, fun n => s.part.tpPad.get 0 (4 * d + n)),
    (0x2_0020, 4, 1, fun _ => s.reg (cdc d 0x102_0020)),
    (0x2_0040, 4, 1, fun _ => y.xdrop0),
    (0x2_0044, 4, 1, fun _ => y.xdrop1),
    (0x2_0048, 4, 1, fun _ => y.xdrop2),
    (0x2_004C, 4, 1, fun _ => BitVec.ofNat 32 y.xdropn),
    (0x3_0000, 4, 28672, fun i => s.perTile d (i / 16) fun x => x.lscWord (i % 16)),
    (0x5_0000, 4, 28672, fun i => s.perTile d (i / 16) fun x => let l := x.lscs.get {} (i % 16); mkWord [(16, b2n l.lvalid), (0, l.agent)]),
    (0x6_C000, 4, 1792, fun t => s.perTile d t fun x => BitVec.ofNat 32 x.cfg.usat.toNat),
    (0x7_0000, 4, 28672, fun i => s.perTile d (i / 16) fun x => x.rqStat (i % 16)),
    (0x9_0000, 4, 28672, fun i => s.perTile d (i / 16) fun x => x.rqHead (i % 16)),
    (0xB_0000, 4, 12, fun i => half64 (y.hbstall.get 0 (i / 2)) (i % 2)),
    (0xB_0040, 4, 4, fun i => y.hberr.get 0 i),
    (0xC_0000, 4, 3584, fun i => s.perTile d (i / 2) fun x =>
      if i % 2 = 0 then mkWord [(16, x.cnt.nfVxe), (0, x.cnt.nfMxe)] else mkWord [(16, b2n x.cnt.nfStep), (0, x.cnt.nfCvu)]),
    (0xD_0000, 4, 3, fun k => BitVec.ofNat 32 (y.nfsum.get 0 k)) ]

/-! ## The tile debug aperture (R505, R506) -/

/-- The selected tile. -/
def Mach.tdbTile (s : Mach) : Nat := (s.reg 0x200_0000).toNat % 2 ^ 13

/-- TDB_STAT.VALID. -/
def Mach.tdbValid (s : Mach) : Bool := s.tileExists s.tdbTile && !(s.unavail s.tdbTile)

/-- PHASE as a number. -/
def Phase.num : Phase → Nat
  | .compute => 0
  | .arrived => 1
  | .guard => 2
  | .exchange => 3

/-- The current PC of a tile's sequencer. -/
def Mach.tdbStat (s : Mach) : Word :=
  let t := s.tile s.tdbTile
  mkWord [(31, 1), (30, b2n t.tsq.inJob), (29, b2n (t.faultedAt s.clk.aclk)), (28, b2n t.tm.p), (27, b2n t.tsq.halted), (26, b2n t.inKernel), (24, t.tsq.phase.num), (0, t.pc)]

/-- The registers of the aperture. -/
def Mach.tdbRows (s : Mach) : Rows Word :=
  let t := s.tile s.tdbTile
  let on := fun (w : Word) => if s.tdbValid then w else 0
  [ (0x200_0000, 4, 1, fun _ => s.reg 0x200_0000),
    (0x200_0004, 4, 1, fun _ => on s.tdbStat),
    (0x200_0008, 4, 1, fun _ => on (match t.tm.relAt with | some r => BitVec.ofNat 32 (s.clk.aclk - r) | none => 0)),
    (0x200_000C, 4, 1, fun _ => on (BitVec.ofNat 32 t.tsq.sr.toNat)),
    (0x200_0010, 4, 1, fun _ => on t.tm.step),
    (0x200_0014, 4, 1, fun _ => on (BitVec.ofNat 32 t.tm.repc.toNat)) ]

/-- Word i of an entry held lowest word first. -/
def entWord {n : Nat} (e : BitVec n) (i : Nat) : Word := BitVec.ofNat 32 (e.toNat / 2 ^ (32 * i))

/-- An entry with its word i replaced. -/
def putWord {n : Nat} (e : BitVec n) (i : Nat) (w : Word) : BitVec n := setFld e (32 * i + 31) (32 * i) w.toNat

/-- Word w of an element program's 256 bytes. -/
def EProg.word (p : EProg) (w : Nat) : Word :=
  if w = 0 then BitVec.ofNat 32 p.len
  else if 16 ≤ w ∧ w < 48 then p.ops.getD (w - 16) 0
  else if 48 ≤ w ∧ w < 64 then entWord (p.consts.getD ((w - 48) / 2) 0) (w % 2)
  else 0

/-- A list with item i replaced, filled with d up to n items. -/
def putAt {α : Type} (d : α) (n : Nat) (l : List α) (i : Nat) (f : α → α) : List α :=
  (upTo n).map fun k => if k = i then f (l.getD k d) else l.getD k d

/-- An entry with its low n bits 0: bits that its layout reserves (R11). -/
def clearLow {k : Nat} (n : Nat) (e : BitVec k) : BitVec k := (e >>> n) <<< n

/-- An element program with word w written. -/
def EProg.put (p : EProg) (w : Nat) (v : Word) : EProg :=
  if w = 0 then { p with len := v.toNat % 64 }
  else if 16 ≤ w ∧ w < 48 then { p with ops := putAt 0 32 p.ops (w - 16) fun _ => clearLow 4 v }
  else if 48 ≤ w ∧ w < 64 then { p with consts := putAt 0 8 p.consts ((w - 48) / 2) fun e => putWord e (w % 2) v }
  else p

/-- A word of a tile's tables by byte offset from 0x201_0000: none between the tables. -/
def Tables.read (t : Tables) (o : Nat) : Option Word :=
  let w := o / 4
  if o < 0x800 then some (entWord (t.handles.get 0 (w / 2)) (w % 2))
  else if o < 0xA00 then some (entWord (t.syncs.get 0 ((w - 0x200) / 2)) (w % 2))
  else if o < 0xE00 then some (entWord (t.mcast.get 0 ((w - 0x280) / 4)) (w % 4))
  else if o < 0xE80 then some (entWord (t.rqe.get 0 ((w - 0x380) / 2)) (w % 2))
  else if o < 0xF80 then some (entWord (t.sce.get 0 ((w - 0x3A0) / 2)) (w % 2))
  else if 0x1000 ≤ o ∧ o < 0x2000 then some ((t.progs.get {} ((w - 0x400) / 64)).word (w % 64))
  else none

/-- A sync descriptor without its reserved bits (R49). -/
def syncClean (e : BitVec 64) : BitVec 64 := e &&& BitVec.ofNat 64 (2 ^ 41 - 1)

/-- A receive queue entry without the reserved bits of its KIND (R261). -/
def rqeClean (e : BitVec 64) : BitVec 64 := clearLow (if bit e 62 then 12 else 17) e

/-- Write a word of a tile's tables: bits that an entry's layout reserves stay 0 (R11, R49, R93, R168, R227, R261, R262). -/
def Tables.write (t : Tables) (o : Nat) (v : Word) : Tables :=
  let w := o / 4
  if o < 0x800 then { t with handles := SMap.upd 0 t.handles (w / 2) fun e => clearLow 8 (putWord e (w % 2) v) }
  else if o < 0xA00 then { t with syncs := SMap.upd 0 t.syncs ((w - 0x200) / 2) fun e => syncClean (putWord e (w % 2) v) }
  else if o < 0xE00 then { t with mcast := SMap.upd 0 t.mcast ((w - 0x280) / 4) fun e => clearLow 32 (putWord e (w % 4) v) }
  else if o < 0xE80 then { t with rqe := SMap.upd 0 t.rqe ((w - 0x380) / 2) fun e => rqeClean (putWord e (w % 2) v) }
  else if o < 0xF80 then { t with sce := SMap.upd 0 t.sce ((w - 0x3A0) / 2) fun e => clearLow 20 (putWord e (w % 2) v) }
  else if 0x1000 ≤ o ∧ o < 0x2000 then { t with progs := SMap.upd {} t.progs ((w - 0x400) / 64) fun e => e.put (w % 64) v }
  else t

/-- The entry that a table word belongs to, as badTab names it (R413). -/
def tabKey (o : Nat) : Nat :=
  let w := o / 4
  if o < 0x800 then w / 2
  else if o < 0xA00 then 0x100 + (w - 0x200) / 2
  else if o < 0xE00 then 0x200 + (w - 0x280) / 4
  else if o < 0xE80 then 0x300 + (w - 0x380) / 2
  else if o < 0xF80 then 0x400 + (w - 0x3A0) / 2
  else 0x500 + (w - 0x400) / 64

/-- Write a table word of a tile, with fresh check bits. -/
def Tile.putTab (t : Tile) (o : Nat) (v : Word) : Tile := { t with tab := t.tab.write o v, badTab := t.badTab.filter fun k => k != tabKey o }

/-! ## Reads -/

/-- The value that an offset reads as in its block: none for an unmapped or reserved offset. Tile memory reads as `some` value even where it aborts. -/
def Mach.regVal (s : Mach) (off : Nat) : Option Word :=
  if off < 0x1_0000 then rowAt off s.idRows
  else if off < 0x2_0000 then rowAt off s.hqRows
  else if off < 0x3_0000 then rowAt off s.evcRows
  else if off < 0x4_0000 then rowAt off s.crpRows
  else if off < 0x6_0000 then rowAt off s.gscRows
  else if off < 0x7_0000 then rowAt off s.itgRows
  else if off < 0x8_0000 then rowAt off s.trwRows
  else if off < 0x9_0000 then rowAt off s.itgRows
  else if off < 0xA_0000 then rowAt off s.secRows
  else if off < 0xA_C000 then
    (let p := (off - 0xA_0000) / 0x1000
     if s.portSites.contains p then rowAt (off % 0x1000) (s.portRows p) else none)
  else if off < 0xC_0000 then rowAt off s.dilRows
  else if off < 0xC_8000 then
    (let n := (off - 0xC_0000) / 0x1000
     if s.stackSites.contains n then rowAt (off % 0x1000) (s.stackRows n) else none)
  else if off < 0x10_0000 then rowAt off s.otRows
  else if off < 0x11_0000 then some 0
  else if off < 0x100_0000 then none
  else if off < 0x200_0000 then
    (let d := (off - 0x100_0000) / 0x40_0000
     if s.part.dies.contains d then rowAt (off % 0x40_0000) (s.cdcRows d) else none)
  else if off < 0x201_0000 then rowAt off s.tdbRows
  else if off < 0x201_2000 then
    (match (s.tile s.tdbTile).tab.read (off - 0x201_0000) with
     | some w => some (if s.tdbValid then w else 0)
     | none => none)
  else if 0x210_0000 ≤ off ∧ off < 0x220_0000 then
    (let t := s.tile s.tdbTile
     let w := (off - 0x210_0000) / 4
     some (if !s.tdbValid then 0 else if t.segOn w then ((t.yieldRead 7 w 1 s.clk.aclk).1.getD []).getD 0 0 else 0xFFFFFFFF))
  else none

/-- The pairs that latch, by the offset of the _LO word: the offset of the _HI word (R500). -/
def latchHi (off : Nat) : Option Nat :=
  if off = 0x7_0000 ∨ off = 0x7_0028 ∨ off = 0x7_0030 ∨ off = 0x7_0088 ∨ off = 0x6_8020 ∨ off = 0x6_8040 ∨ off = 0x3_0038 then some (off + 4)
  else if off = 0x7_0040 ∨ off = 0x7_0048 ∨ off = 0x7_0050 then some (off + 4)
  else if 0x100_0000 ≤ off ∧ off < 0x200_0000 ∧ 0xB_0000 ≤ off % 0x40_0000 ∧ off % 0x40_0000 < 0xB_0030 ∧ off % 8 = 0 then some (off + 4)
  else none

/-- A read of an RC field clears it. -/
def Mach.readClears (s : Mach) (off : Nat) : Mach :=
  if off = 0x2_1208 then { s with evc := { s.evc with spurn := 0 } }
  else if off = 0x6_0018 then { s with itg := { s.itg with stale := 0 } }
  else if 0x6_0040 ≤ off ∧ off < 0x6_005C then
    { s with itg := { s.itg with ecc := s.itg.ecc.put ((off - 0x6_0040) / 4) 0, eccUe := s.itg.eccUe.put ((off - 0x6_0040) / 4) 0 } }
  else if 0x7_0110 ≤ off ∧ off < 0x7_0120 then
    { s with trw := { s.trw with late := s.trw.late.put ((off - 0x7_0110) / 4) 0, exp := s.trw.exp.put ((off - 0x7_0110) / 4) 0 } }
  else if 0x3_0010 ≤ off ∧ off < 0x3_0024 then s.updPw fun p => { p with maxts := p.maxts.put ((off - 0x3_0010) / 4) 0 }
  else if 0xA_0000 ≤ off ∧ off < 0xA_C000 ∧ off % 0x1000 = 0xC then s.updPort ((off - 0xA_0000) / 0x1000) fun q => { q with retryn := 0, uncwn := 0 }
  else if 0xA_0000 ≤ off ∧ off < 0xA_C000 ∧ off % 0x1000 = 0x10 then s.updPort ((off - 0xA_0000) / 0x1000) fun q => { q with corrn := 0 }
  else if 0xC_0000 ≤ off ∧ off < 0xC_8000 ∧ off % 0x1000 = 4 then s.updStack ((off - 0xC_0000) / 0x1000) fun x => { x with uen := 0, cen := 0 }
  else if 0x100_0000 ≤ off ∧ off < 0x200_0000 ∧ off % 0x40_0000 = 0x2_004C then s.updDie ((off - 0x100_0000) / 0x40_0000) fun y => { y with xdropn := 0 }
  else s

/-- An access reaches a CDC_ or TDB_ block in A3 or A4: the package wakes (R477, R504). -/
def Mach.wakesFor (s : Mach) (off : Nat) : Bool := decide (3 ≤ s.pw.st) && decide (0x100_0000 ≤ off)

/-- A tile memory word of the aperture that cannot be corrected. -/
def Mach.aborts (s : Mach) (off : Nat) : Bool :=
  let t := s.tile s.tdbTile
  let w := (off - 0x210_0000) / 4
  decide (0x210_0000 ≤ off) && decide (off < 0x220_0000) && s.tdbValid && t.segOn w && (t.yieldRead 7 w 1 s.clk.aclk).1.isNone

/-- A read of a tile memory word through the aperture counts the errors that it meets (R85, R506). -/
def Mach.apertureSeen (s : Mach) (off : Nat) : Mach :=
  let w := (off - 0x210_0000) / 4
  if 0x210_0000 ≤ off ∧ off < 0x220_0000 ∧ s.tdbValid ∧ (s.tile s.tdbTile).segOn w then s.updTile s.tdbTile fun t => (t.yieldRead 7 w 1 s.clk.aclk).2.2 else s

/-- One read of an aligned BAR0 word: its value (none: Completer Abort), and its side effects (R497 to R500, R504, R506). -/
def Mach.readReg (s : Mach) (off : Nat) : Option Word × Mach :=
  if s.wakesFor off then (some 0, s.wakeTo 2)
  else if s.aborts off then (none, s.apertureSeen off)
  else match s.regVal off with
    | none => (some 0, s)
    | some v =>
      let v1 := match s.shadow.find? fun x => x.1 == off with | some x => x.2 | none => v
      let s1 := (s.readClears off).apertureSeen off
      match latchHi off with
      | some hi => (some v1, { s1 with shadow := s1.shadow.put hi ((s.regVal hi).getD 0) })
      | none => (some v1, s1)

/-- A host read, with what it returned. -/
def Mach.hostRead (s : Mach) (off : Nat) : Mach :=
  let r := s.readReg (off / 4 * 4)
  { r.2 with rdata := r.1.map fun w => [w] }

/-! ## Writes -/

/-- Ownership (R394): a write from a class that does not own the field. -/
def Mach.ownDropped (s : Mach) (off cls : Nat) : Mach :=
  let w := mkWord [(30, cls), (0, off % 2 ^ 26)]
  ({ s with hq := { s.hq with ownDrop := w } }).raise 0x001 w 0

/-- The block number of an offset (R496). -/
def blockOf (off : Nat) : Nat :=
  if off < 0xA_0000 then off / 0x1_0000
  else if off < 0xC_0000 then 10
  else if off < 0x10_0000 then 11
  else if off < 0x11_0000 then 12
  else if off < 0x200_0000 then 13
  else 14

/-- A class may write a field of an offset (R393, R457) (DEDUCED, log entry 68). -/
def Mach.ownerOk (s : Mach) (who : Writer) (off : Nat) : Bool :=
  let cls := writerCls who
  if off = 0x9_0100 ∨ off = 0x9_0104 ∨ (0x9_0110 ≤ off ∧ off < 0x9_0150) then cls == 0
  else if off = 0x9_0200 ∨ off = 0x9_0204 ∨ (0x9_0210 ≤ off ∧ off < 0x9_0250) then cls == 1
  else match ownClass (blockOf off) with
    | 3 => !(cls == 0 && s.hq.jcBusy)
    | c => cls == c

/-- Plain stored registers: first offset, stride, count, the bits that RW stores and those that RWL stores (R10). -/
def plainHub : List (Nat × Nat × Nat × Nat × Nat) :=
  [ (0x1_0004, 4, 1, 0x3FFFF, 0), (0x2_1204, 4, 1, 0xFFFFFFFF, 0), (0x4_0000, 16, 1024, 0, 0x7FFFF), (0x4_4000, 4, 1, 0x3FF, 0),
    (0x5_0000, 4, 1, 0xFFFFF000, 0), (0x5_0004, 4, 1, 0xFFFFFFFF, 0), (0x6_0010, 4, 1, 0, 0x800F1FFF), (0x6_0110, 4, 16, 0xFFFFFFFF, 0),
    (0x6_0180, 4, 12, 0xFFFFFFFF, 0), (0x6_8000, 4, 1, 0, 0x803F003F), (0x6_8010, 4, 1, 0, 0x9FFFFFFF), (0x6_8030, 4, 1, 0, 0xFFFFFFFF),
    (0x7_0010, 4, 1, 0, 0xB3FFFF0F), (0x7_0014, 4, 1, 0xFFFF, 0), (0x7_0080, 4, 1, 0x8000003F, 0), (0x7_0100, 4, 4, 0, 0x800F1FFF), (0x7_0200, 4, 1, 0, 0x801FFFFF),
    (0x7_0208, 8, 2, 0, 0xFFFFFFC0), (0x7_020C, 8, 2, 0, 0xFFFF), (0x7_0400, 32, 64, 0, 0xFFFFFFE0), (0x7_0404, 32, 64, 0, 0xFFFF),
    (0x7_0408, 32, 64, 0, 0xFFFFFFE0), (0x7_040C, 32, 64, 0, 0xFFFF), (0x7_0410, 32, 64, 0, 0xFFFFFF), (0x7_0414, 32, 64, 0, 0xC0001FFF),
    (0xB_0000, 4, 1, 0, 0x800000FF), (0xB_0100, 4, 32, 0, 0xFFFFFFFF), (0xB_0200, 8, 16, 0, 0xCFF00FFF), (0xB_0204, 8, 16, 0, 0xFFF),
    (0xC_8010, 4, 4, 0xFFFFFFFF, 0) ]

/-- Plain stored registers of a compute die, by offset within it. -/
def plainDie : List (Nat × Nat × Nat × Nat × Nat) :=
  [ (0x2000, 4, 16, 0, 0xF107FF), (0x1_E000, 4, 3, 0, 0xFFFFFFFF), (0x2_0020, 4, 1, 0, 3) ]

/-- The masks of a plain stored register. -/
def masksOf (off : Nat) : Option (Nat × Nat) :=
  let l := if 0x100_0000 ≤ off then plainDie else plainHub
  let o := if 0x100_0000 ≤ off then off % 0x40_0000 else off
  match l.find? fun x => (arr o x.1 x.2.1 x.2.2.1).isSome with
  | some x => some (x.2.2.2.1, x.2.2.2.2)
  | none => none

/-- Store the bits of a mask. -/
def Mach.storeMask (s : Mach) (off mask : Nat) (v : Word) : Mach :=
  let m := BitVec.ofNat 32 mask
  s.setReg off ((s.reg off &&& ~~~m) ||| (v &&& m))

/-- A write of a stored register with RW and RWL bits (R10): locked bits stay, and every write of them is logged. -/
def Mach.writePlain (s : Mach) (off cls : Nat) (v : Word) (rw rwl : Nat) : Mach :=
  if s.locked && rwl != 0 then
    let s1 := if rw = 0 then s else s.storeMask off rw v
    s1.dropped off cls v
  else s.storeMask off (rw ||| rwl) v

/-- Change per-tile configuration of die d, tile t: RWL, and ignored in an unavailable row. -/
def Mach.writeTileCfg (s : Mach) (off cls d t : Nat) (v : Word) (f : Tile → Tile) : Mach :=
  let n := 1792 * d + t
  if s.unavail n then s
  else if s.locked then s.dropped off cls v
  else s.updTile n f

/-- The tiles of a die that a scrub concerns (R92). -/
def Mach.scrubs (s : Mach) (d n : Nat) (x : Tile) : Bool :=
  dieOf n == d && !(s.unavail n) && (s.hq.job == .idle || x.tsq.inJob)

/-- A write of CDC_SEGCTL (R91, R92). -/
def Mach.writeSegCtl (s : Mach) (off cls d : Nat) (v : Word) : Mach :=
  let s1 := if s.locked then s.dropped off cls v else s.storeMask off 0xFFFF v
  if !(bit v 16) then s1
  else if (s.die d).segBusy || (s.die d).scrubBusy then s1.dropped off cls v
  else
    let mask := (s1.reg off).toNat % 2 ^ 16
    let s2 := { s1 with tiles := s1.tiles.map fun (x : Nat × Tile) => if s1.scrubs d x.1 x.2 then (x.1, x.2.scrub mask) else x }
    s2.updDie d fun y => { y with scrubBusy := true }

/-- W1C of a tile's counter flags. -/
def Tile.clrLsc (t : Tile) (c : Nat) (v : Word) : Tile :=
  { t with lscs := SMap.upd {} t.lscs c fun (l : Lsc) => { l with oflag := l.oflag && !(bit v 17), uflag := l.uflag && !(bit v 16), oflag0 := l.oflag0 && !(bit v 17), uflag0 := l.uflag0 && !(bit v 16) } }

/-- W1C of a tile's numeric flags. -/
def Tile.clrNum (t : Tile) (v : Word) : Tile :=
  (t.both fun t =>
    let f := t.cnt.numstat
    { t with cnt := { t.cnt with numstat := { f with satf := f.satf && !(bit v 0), nanf := f.nanf && !(bit v 1), isatf := f.isatf && !(bit v 2), ftzf := f.ftzf && !(bit v 3) } } }).replay

/-- A write of CDC_TPSEL (R241): one that names an invalid entry, or an entry of another TPID than the loaded binary's, leaves the field unchanged. -/
def Mach.writeTpsel (s : Mach) (off cls d : Nat) (v : Word) : Mach :=
  let e := s.tpEnt d (fld v 1 0)
  if s.locked then s.dropped off cls v
  else if bit e 31 && (match s.hq.tpid with | some t => fld e 15 0 == t | none => true) then s.setReg off (v &&& 3) else s

/-- A write within the block of a compute die in service. -/
def Mach.writeDie (s : Mach) (off cls d : Nat) (v : Word) : Mach :=
  let o := off % 0x40_0000
  if o = 0x3000 then s.writeSegCtl off cls d v
  else if 0x4000 ≤ o ∧ o < 0x5C00 then
    (let t := (o - 0x4000) / 4
     let s1 := s.writeTileCfg off cls d t v fun x => x.setSegs v
     if s.locked || s.unavail (1792 * d + t) then s1 else s1.updDie d fun y => { y with segBusy := true })
  else if 0x6000 ≤ o ∧ o < 0x7C00 then
    s.writeTileCfg off cls d ((o - 0x6000) / 4) v fun x => { x with cfg := { x.cfg with num := { ftz := bit v 0, scope := bit v 1 } } }
  else if 0x8000 ≤ o ∧ o < 0x9C00 then
    (let n := 1792 * d + (o - 0x8000) / 4
     if s.unavail n then s else s.updTile n fun x => x.clrNum v)
  else if 0xA000 ≤ o ∧ o < 0xBC00 then s.writeTileCfg off cls d ((o - 0xA000) / 4) v fun x => { x with cfg := { x.cfg with e7q := bit v 0 } }
  else if 0x6_C000 ≤ o ∧ o < 0x6_DC00 then
    s.writeTileCfg off cls d ((o - 0x6_C000) / 4) v fun x => { x with cfg := { x.cfg with usat := BitVec.ofNat 16 v.toNat } }
  else if o = 0x2_0020 then s.writeTpsel off cls d v
  else if o = 0x2_0040 then (if bit v 31 then s.updDie d fun y => { y with xdrop0 := 0, xdrop1 := 0, xdrop2 := 0 } else s)
  else if 0x3_0000 ≤ o ∧ o < 0x4_C000 then
    (let n := 1792 * d + (o - 0x3_0000) / 64
     if s.unavail n then s else s.updTile n fun x => x.clrLsc ((o - 0x3_0000) / 4 % 16) v)
  else if o = 0xB_0040 then (if bit v 31 then s.updDie d fun y => { y with hberr := [] } else s)
  else match masksOf off with
    | some m => s.writePlain off cls v m.1 m.2
    | none => s

/-- A write of a ring's configuration (R381). -/
def Mach.writeRingCfg (s : Mach) (off cls r : Nat) (v : Word) : Mach :=
  let o := s.reg off
  let en := bit o 31
  let size := fld v 27 24
  let keep := en || decide (13 ≤ size)
  let lsize := if keep then fld o 27 24 else size
  let cq := if 16 ≤ r then 0 else if en then fld o 20 16 else fld v 20 16
  let logged := en && (fld v 27 24 != fld o 27 24 || (decide (r < 16) && fld v 20 16 != fld o 20 16))
  let w := mkWord [(31, b2n (bit v 31)), (24, lsize), (16, cq), (8, fld v 12 8), (7, b2n (bit v 7))]
  let s1 := s.setReg off w
  let s2 := if bit v 31 then s1 else s1.disableRing r
  if logged then s2.dropped off cls v else s2

/-- A write within the HQ_ block. -/
def Mach.writeHq (s : Mach) (off cls : Nat) (v : Word) : Mach :=
  if off = 0x1_0010 then (if bit v 31 then { s with hq := { s.hq with err := 0 } } else s)
  else if 0x1_0040 ≤ off ∧ off < 0x1_0560 then
    (let r := (off - 0x1_0040) / 0x20
     match off % 0x20 with
     | 0x0 => if s.ringEn r then s.dropped off cls v else s.storeMask off 0xFFFFFFC0 v
     | 0x4 => if s.ringEn r then s.dropped off cls v else s.setReg off v
     | 0x8 => s.writeRingCfg off cls r v
     | _ => s)
  else if 0x1_8000 ≤ off ∧ off < 0x1_8200 then
    (let i := (off - 0x1_8000) / 16
     let s1 := s.setReg off v
     if off % 16 = 12 && !(bit v 0) && bit s.hq.pba i then
       ({ s1 with hq := { s1.hq with pba := s1.hq.pba &&& ~~~(BitVec.ofNat 32 (2 ^ i)) } }).msix i
     else s1)
  else match masksOf off with
    | some m => s.writePlain off cls v m.1 m.2
    | none => s

/-- A write within a doorbell page (R379): another offset ignores it; the host link goes back to x16 (R477). -/
def Mach.writeDoorbell (s0 : Mach) (off : Nat) (v : Word) : Mach :=
  let s := s0.updPw fun p => { p with l0p := 16 }
  let p := (off - 0x10_0000) / 0x1000
  match off % 0x1000 with
  | 0x0 => s.doorbell p v true
  | 0x4 => s.doorbell (16 + p) v false
  | 0x8 => if p < 4 then s.doorbell (32 + p) v true else s
  | 0xC => if p < 4 then s.doorbell (36 + p) v false else s
  | 0x10 => if p = 0 then s.doorbell 40 v false else s
  | _ => s

/-- A write within the EVC_ block. -/
def Mach.writeEvc (s : Mach) (off cls : Nat) (v : Word) : Mach :=
  if off < 0x2_0800 then
    (let s1 := s.setReg off (v &&& 0x8000000F)
     if bit v 31 then s1 else s1.srcOff ((off - 0x2_0000) / 4))
  else if 0x2_1000 ≤ off ∧ off < 0x2_1040 then s.setReg off (v &&& 0x1F)
  else if 0x2_1180 ≤ off ∧ off < 0x2_1190 then (if bit v 0 then s.bqAck ((off - 0x2_1180) / 4) else s)
  else if off = 0x2_1200 then s.raise (0x1C0 + fld v 5 0) (s.reg 0x2_1204) 0
  else match masksOf off with
    | some m => s.writePlain off cls v m.1 m.2
    | none => s

/-- A write within the CRP_ block. -/
def Mach.writeCrp (s : Mach) (off cls : Nat) (v : Word) : Mach :=
  let old := s.target
  if off = 0x3_0004 then (if 5 ≤ fld v 2 0 then s else (s.setReg off (v &&& 7)).retarget old)
  else if off = 0x3_0008 then (if fld v 1 0 = 3 then s.dropped off cls v else (s.setReg off (v &&& 3)).retarget old)
  else if off = 0x3_0020 then s.setReg off (if 5 ≤ fld v 18 16 then setFld (v &&& 0xE007FFFF) 18 16 (fld (s.reg off) 18 16) else v &&& 0xE007FFFF)
  else if off = 0x3_0028 ∨ off = 0x3_0030 then s.setReg off v
  else if off = 0x3_002C then (s.setReg off v).updPw fun p => { p with timer := (s.reg 0x3_0028).toNat + v.toNat * 2 ^ 32, fired := false }
  else if off = 0x3_0034 then (s.setReg off v).updPw fun p => { p with dbexp := (s.reg 0x3_0030).toNat + v.toNat * 2 ^ 32 }
  else if off = 0x3_0044 then s.updPw fun p => { p with ssc := v &&& 0xFF }
  else if off = 0x3_0054 then (if fld v 15 0 = 0x5752 then s.warmReset 8 else s.dropped off cls v)
  else s

/-- A write within the GSC_ and BMV_ blocks. -/
def Mach.writeGsc (s : Mach) (off cls agent : Nat) (v : Word) : Mach :=
  if off < 0x4_4000 ∧ off % 16 = 8 then s.gscCmd ((off - 0x4_0000) / 16) v agent
  else if off < 0x4_4000 ∧ off % 16 = 4 then
    s.updGsc ((off - 0x4_0000) / 16) fun g => { g with oflag := g.oflag && !(bit v 17), uflag := g.uflag && !(bit v 16) }
  else match masksOf off with
    | some m => s.writePlain off cls v m.1 m.2
    | none => s

/-- A write of ITG_ALARM (R412, R413): causes clear; TVALID clears with TBL. -/
def Mach.clearAlarm (s : Mach) (v : Word) : Mach :=
  let n := s.reg 0x6_0000 &&& ~~~(v &&& 0x7F)
  if bit v 2 then ({ s with itg := { s.itg with tblTiles := [] } }).setReg 0x6_0000 (n &&& 0x7FFFFFFF) else s.setReg 0x6_0000 n

/-- A write within the ITG_ block. -/
def Mach.writeItg (s : Mach) (off cls : Nat) (v : Word) : Mach :=
  if off = 0x6_0000 then s.clearAlarm v
  else if off = 0x6_0004 then (if bit v 0 then s.alarm 5 else s)
  else if off = 0x6_0014 then s.updItg fun i => { i with exhaust := i.exhaust && !(bit v 30) }
  else if off = 0x6_01C0 then s.hbxPush cls v
  else if off = 0x6_8008 ∨ off = 0x6_800C then
    (if s.hq.job == .running && s.tiles.any (fun x => x.2.tsq.inJob && x.2.tsq.started && !x.2.tsq.halted) then s.dropped off cls v
     else (s.setReg off v).updItg fun i => { i with rgWritten := true })
  else if off = 0x6_8014 then { s with dig := { s.dig with ovr := s.dig.ovr && !(bit v 30), incomp := s.dig.incomp && !(bit v 29) } }
  else match masksOf off with
    | some m => s.writePlain off cls v m.1 m.2
    | none => s

/-- What a write of TRW_LWCFG stores: a write of 3 leaves SPKPOL unchanged. -/
def Mach.lwcfgWord (s : Mach) (v : Word) : Word := if fld v 29 28 = 3 then setFld v 29 28 (fld (s.reg 0x7_0010) 29 28) else v

/-- A write within the TRW_ block. -/
def Mach.writeTrw (s : Mach) (off cls : Nat) (v : Word) : Mach :=
  if off = 0x7_0010 then s.writePlain off cls (s.lwcfgWord v) 0 0xB3FFFF0F
  else if off = 0x7_0080 then (s.storeMask off 0x8000003F v).winStarts s
  else if off = 0x7_0018 then { s with trw := { s.trw with seqerr := s.trw.seqerr && !(bit v 28) } }
  else match masksOf off with
    | some m => s.writePlain off cls v m.1 m.2
    | none => s

/-- A write within the SEC_ block by its owner (R455): dropped and logged while the slot is BUSY. -/
def Mach.writeSec (s : Mach) (off cls : Nat) (v : Word) : Mach :=
  let c := if off < 0x9_0200 then 0 else 1
  let o := off % 0x100
  let busy := (s.mbx c).req.isSome
  if off < 0x9_0100 then s
  else if o = 0 then (if busy then s.dropped off cls v else s.mbRequest c (fld v 7 0))
  else if o = 4 then (if bit v 30 then s.updSec fun x => { x with boxes := x.boxes.put c { (x.boxes.get {} c) with done := false } } else s)
  else if 0x10 ≤ o ∧ o < 0x50 then (if busy then s.dropped off cls v else s.setReg off v)
  else s

/-- A write of DIL_CTL_p (R352, R369). -/
def Mach.writeDilCtl (s : Mach) (off cls p : Nat) (v : Word) : Mach :=
  let was := bit (s.reg off) 31
  let s1 := s.writePlain off cls v 0x80000000 0x70000000
  if was && !(bit v 31) then (if (s.port p).up then s1.portDown p 1 else s1)
  else if bit v 0 then s1.updPort p fun q => if q.up then { q with retrain := true } else q
  else s1

/-- A write within the DIL_ block. -/
def Mach.writeDil (s : Mach) (off cls : Nat) (v : Word) : Mach :=
  if off < 0xA_C000 then (if off % 0x1000 = 4 then s.writeDilCtl off cls ((off - 0xA_0000) / 0x1000) v else s)
  else if 0xB_0300 ≤ off ∧ off < 0xB_0380 ∧ off % 8 = 0 then
    s.updTree ((off - 0xB_0300) / 8) fun t => { t with err := t.err && !(bit v 30) }
  else if off = 0xB_0400 then
    (let s1 := s.setReg off (v &&& 0xC000000F)
     if bit v 31 then s1.timeLevel else s1.freeRun)
  else match masksOf off with
    | some m => s.writePlain off cls v m.1 m.2
    | none => s

/-- A write of HBM_OTCMD (R285). -/
def Mach.writeOtCmd (s : Mach) (off cls : Nat) (v : Word) : Mach :=
  let e := fld v 11 0
  if s.ot.busy then s.dropped off cls v
  else match fld v 31 28 with
    | 1 => s.otPlace e
    | 2 => s.otMigrate e (fld v 20 16)
    | 3 => s.otFree e
    | _ => s.dropped off cls v

/-- A write within the HBM_ block. -/
def Mach.writeHbm (s : Mach) (off cls : Nat) (v : Word) : Mach :=
  if off = 0xC_8000 then s.writeOtCmd off cls v
  else match masksOf off with
    | some m => s.writePlain off cls v m.1 m.2
    | none => s

/-- A write within the tile debug aperture (R506). -/
def Mach.writeTdb (s : Mach) (off cls : Nat) (v : Word) : Mach :=
  if off = 0x200_0000 then s.setReg off (v &&& 0x1FFF)
  else if !s.tdbValid then s.dropped off cls v
  else if off < 0x201_0000 then s
  else if off < 0x201_2000 then
    (if s.hq.job == .running || s.itg.phase != .idle then s.dropped off cls v
     else s.updTile s.tdbTile fun t => t.putTab (off - 0x201_0000) v)
  else if (s.tile s.tdbTile).segOn ((off - 0x210_0000) / 4) then s.updTile s.tdbTile fun t => t.yieldWrite 7 ((off - 0x210_0000) / 4) [v] s.clk.aclk
  else s.dropped off cls v

/-- The effect of a write that its writer may make, at an offset that its block defines. -/
def Mach.writeAt (s : Mach) (who : Writer) (off : Nat) (v : Word) : Mach :=
  let cls := writerCls who
  match blockOf off with
  | 0 => s
  | 1 => s.writeHq off cls v
  | 2 => s.writeEvc off cls v
  | 3 => s.writeCrp off cls v
  | 4 => s.writeGsc off cls (writerAgent who) v
  | 5 => s.writeGsc off cls (writerAgent who) v
  | 6 => s.writeItg off cls v
  | 7 => s.writeTrw off cls v
  | 8 => s
  | 9 => s.writeSec off cls v
  | 10 => s.writeDil off cls v
  | 11 => s.writeHbm off cls v
  | 12 => s.writeDoorbell off v
  | 13 => s.writeDie off cls ((off - 0x100_0000) / 0x40_0000) v
  | _ => s.writeTdb off cls v

/-- One write of a BAR0 word (R394, R497, R498, R504). -/
def Mach.writeReg (s : Mach) (who : Writer) (off : Nat) (v : Word) (be : Nat) : Mach :=
  let cls := writerCls who
  if be ≠ 15 ∨ off % 4 ≠ 0 then s.dropped off cls v
  else if s.wakesFor off then (s.wakeTo 2).dropped off cls v
  else if (s.regVal off).isNone then s.dropped off cls v
  else if !(s.ownerOk who off) then s.ownDropped off cls
  else s.writeAt who off v

end Sys2Proof.Machine
end

