-- ==== Sys2Proof/Machine/Host.lean ====
section
/-! DEFINITION. Host commands (R361, R364, R384 to R390, R414, R418 to R424, R470, R471), BAR2 (R375), the host window's completions (R282, R371), and the
resets and link states of the function (R372, R373, R395, R396, R476, R478). -/

namespace Sys2Proof.Machine

/-! ## Descriptors -/

/-- The operations of R386. -/
def opDefined (op : Nat) : Bool := [0x00, 0x10, 0x11, 0x12, 0x13, 0x14, 0x15, 0x20, 0x21, 0x30, 0x31, 0x32].contains op

/-- The bits of word i that the operand table names (R384, R388). -/
def descMask (op : Nat) (d : List Word) (i : Nat) : Nat :=
  match op, i with
  | _, 0 => 0xFFFF00FF
  | 0x10, 2 => 0xFFFFFFFF | 0x10, 3 => 0xFFFF | 0x10, 4 => 0xFFFFFFFF | 0x10, 5 => 0xBF3F00FF | 0x10, 6 => 0xFFFFFFFF | 0x10, 7 => 0xFFFFFFFF
  | 0x10, 8 => 0xFFFFFFFF
  | 0x15, 2 => 0xFFFF
  | 0x20, 2 => 0xFFFFFFFF | 0x20, 3 => 0xFFFF | 0x20, 4 => 0xFFFFFFFF | 0x20, 5 => 0xFFFF | 0x20, 6 => 0xFFFFFFF | 0x20, 7 => 0x31F
  | 0x20, 8 => (match fld (dv d 7) 9 8 with | 1 => 0x3FF | 2 => 0xF1FFF | _ => 0)
  | 0x21, 2 => 0xFFFFFFFF | 0x21, 3 => 0xFFFF
  | 0x30, 2 => 0xFFFFFFFF | 0x30, 3 => 0xFFFF | 0x30, 4 => 0xFFFFFFFF | 0x30, 5 => 0xFFFF
  | 0x31, 2 => 0x3FFFFFC | 0x31, 3 => 0xFFF | 0x31, 4 => 0xFFFFFFFF | 0x31, 5 => 0xFFFF
  | 0x32, 2 => 0x3
  | _, _ => 0

/-- Word i keeps its range and alignment (R388). -/
def Mach.descRange (s : Mach) (op : Nat) (d : List Word) (i : Nat) : Bool :=
  match op, i with
  | 0x10, 2 => dw d 2 % 64 == 0
  | 0x10, 4 => dw d 4 != 0 && dw d 4 % 64 == 0
  | 0x10, 5 => fld (dv d 5) 7 0 != 0xFF
  | 0x20, 2 => dw d 2 % 32 == 0
  | 0x20, 4 => dw d 4 % 32 == 0
  | 0x20, 7 => fld (dv d 7) 9 8 != 3
  | 0x20, 8 => fld (dv d 7) 9 8 != 2 || !(s.apertureRefuses (fld (dv d 8) 12 0))
  | 0x21, 2 => dw d 2 % 32 == 0
  | 0x30, 2 => dw d 2 % 32 == 0
  | 0x31, 3 => decide (dw d 2 + 4 * (fld (dv d 3) 11 0 + 1) ≤ 0x400_0000)
  | 0x31, 4 => dw d 4 % 32 == 0
  | 0x32, 2 => dw d 2 != 3
  | _, _ => true

/-- The first word of a descriptor that BAD_FIELD names (DEDUCED, log entry 50). -/
def Mach.badField (s : Mach) (op : Nat) (d : List Word) : Option Nat :=
  (upTo 16).find? fun i => dw d i &&& descMask op d i != dw d i || !(s.descRange op d i)

/-- The device address of words i and i + 1. -/
def descAddr (d : List Word) (i : Nat) : Nat := dw d i + fld (dv d (i + 1)) 15 0 * 2 ^ 32

/-- The states in which a command is accepted (R386, R424); after a thermal trip only NOP, READREG and POWERCAP are (R470). -/
def Mach.accepts (s : Mach) (op : Nat) : Bool :=
  let st := s.hq.job
  (!s.tripped || [0x00, 0x31, 0x32].contains op) &&
  match op with
  | 0x10 => st == .idle
  | 0x11 => st == .loaded
  | 0x12 => st == .running
  | 0x13 => st == .running || s.itg.phase != .idle
  | 0x14 => st == .paused || st == .running
  | 0x15 => st == .loaded || st == .paused || st == .ended
  | 0x21 => st == .running || st == .paused || st == .ended
  | 0x30 => st == .idle
  | _ => true

/-- A job-control command of ring r may start (R385): it is the first fetched, and none runs; an ABORT also ends a RESTART that has not completed (R424). -/
def Mach.jobTurn (s : Mach) (r op : Nat) : Bool :=
  s.hq.jcOrder.head? == some r && (!s.hq.jcBusy || (op == 0x13 && s.hq.restarting.isSome))

/-- The row of a command: the command at the front of ring r starts, where it is this one. One whose OP is not defined ends at once with any row. -/
def Mach.cmdRow (s : Mach) (r op : Nat) (f : Cmd → Mach → Mach) : Mach :=
  match s.startCmd r with
  | none => s
  | some (c, s1) =>
    if !(opDefined c.op) then s1.post c 1 0 0
    else if c.op != op || (isJobControl op && !(s.jobTurn r op)) then s
    else
      let s2 := if isJobControl op then ({ s1 with hq := { s1.hq with jcOrder := s1.hq.jcOrder.drop 1 } }).fitYield else s1
      match s2.badField op c.desc with
      | some i => s2.post c 2 i 0
      | none => if s2.accepts op then f c s2 else s2.post c 3 s2.hq.job.num 0

/-- The descriptor at the front of ring r, where it is an accepted command of this OP that keeps its layout. -/
def Mach.front (s : Mach) (r op : Nat) : Option (List Word) :=
  match (s.ring r).fetched with
  | d :: _ => if fld (dv d 0) 7 0 == op && (s.badField op d).isNone && s.accepts op then some d else none
  | [] => none

/-! ## Job control -/

/-- A group that spans packages while its tree is off (R364). -/
def Mach.treeOff (s : Mach) : Option Nat := (upTo 16).find? fun g => s.xchip g && !(bit (s.reg (sgt0 g)) 31)

/-- A segment change or scrub runs on a die (R91). -/
def Mach.segsBusy (s : Mach) : Bool := s.dies.any fun x => x.2.segBusy || x.2.scrubBusy

/-- The START that waits releases the job once every wait set has formed (R361) (DEDUCED, log entry 65). -/
def Mach.tryStart (s : Mach) : Mach :=
  match s.hq.starting with
  | some c => if s.treesFormed then s.doStart c else s
  | none => s

/-- START (R58, R361, R364). -/
def Mach.cmdStart (s : Mach) (c : Cmd) : Mach :=
  match s.treeOff with
  | some g => s.post c 0x18 g 0
  | none =>
    let s1 := (s.announce.formTrees).updItg fun i => { i with rgWritten := false }
    ({ s1 with hq := { s1.hq with starting := some c, jcBusy := true } }).tryStart

/-- START waits while a segment change or scrub runs. -/
def Mach.startRow (s : Mach) (r : Nat) : Mach := if s.segsBusy then s else s.cmdRow r 0x11 fun c m => m.cmdStart c

/-- STOP. -/
def Mach.stopRow (s : Mach) (r : Nat) : Mach := s.cmdRow r 0x12 fun c m => (m.stopRequest).post c 0 0 0

/-- ABORT (R386, R424): a RESTART that had not completed ends with STATE (DEDUCED, log entry 36). -/
def Mach.abortRow (s : Mach) (r : Nat) : Mach :=
  s.cmdRow r 0x13 fun c m =>
    let m1 := m.doAbort
    let m2 := match m.hq.restarting with
      | some x => ({ m1 with hq := { m1.hq with restarting := none, jcBusy := false } }).post x 3 m1.hq.job.num 0
      | none => m1
    m2.post c 0 0 0

/-- RESTART (R418, R419, R424): from PAUSED the restore and the barrier, while RUNNING a replay trigger (DEDUCED, log entry 36). -/
def Mach.restartRow (s : Mach) (r : Nat) : Mach :=
  s.cmdRow r 0x14 fun c m =>
    let m1 := { m with hq := { m.hq with restarting := some c, jcBusy := true } }
    if m.hq.job == .running then m1.trigger 2
    else (({ m1 with hq := { m1.hq with stopReq := false } }).updItg fun i => { i with attempt := 1 }).restoreForm

/-- UNLOAD: it waits for hb. commands and tile transfers in flight to complete or end (R298). -/
def Mach.unloadRow (s : Mach) (r : Nat) : Mach :=
  if (s.front r 0x15).isSome && s.jobTurn r 0x15 && s.drainJob.inFlight then s.drainJob
  else s.cmdRow r 0x15 fun c m => (m.doUnload (dw c.desc 2)).treesIdle.announce.post c 0 0 0

/-- Every tile has halted (R59, R386, R387). -/
def Mach.jobEnd (s : Mach) : Mach :=
  if s.jobHalted then (if s.hq.stopReq then s.endJob .paused 1 else s.endJob .ended 0) else s

/-! ## Data commands -/

/-- COPY: a busy mover makes it wait (R388, R395). -/
def Mach.copyRow (s : Mach) (r : Nat) : Mach :=
  if (match s.front r 0x20 with | some d => s.moverBusy (fld (dv d 7) 4 0) | none => false) then s
  else s.cmdRow r 0x20 fun c m =>
    m.startXfer (fld (dv c.desc 7) 4 0)
      { user := .copy c, src := descAddr c.desc 2, dst := descAddr c.desc 4, n := fld (dv c.desc 6) 27 0 + 1, sigk := fld (dv c.desc 7) 9 8,
        gsc := fld (dv c.desc 8) 9 0, stile := fld (dv c.desc 8) 12 0, ctr := fld (dv c.desc 8) 19 16 }

/-- SNAP (R322, R388): it waits for a snapshot that copies; before any commit mark the STEP of its trailer is free. -/
def Mach.snapRow (s : Mach) (r : Nat) : Mach :=
  if s.trw.snap.isSome then s
  else s.cmdRow r 0x21 fun c m =>
    match m.trw.lastCommit with
    | some st => m.startSnap st (descAddr c.desc 2) none (some c)
    | none =>
      let f := m.freeWords 1
      f.2.startSnap (f.1.getD 0 0) (descAddr c.desc 2) none (some c)

/-- Read n registers from an offset, ascending: the values, or none where a read aborts. -/
def Mach.readRegs : Nat → Nat → Mach → Option (List Word) × Mach
  | 0, _, s => (some [], s)
  | n + 1, off, s =>
    let r := s.readReg off
    match r.1 with
    | none => (none, r.2)
    | some w =>
      let q := Mach.readRegs n (off + 4) r.2
      (q.1.map fun l => w :: l, q.2)

/-- Write lines at a device address: the machine, and the first failure. -/
def Mach.putLines : List (List Word) → Nat → Mach → Mach × Option (Nat × Nat)
  | [], _, s => (s, none)
  | l :: rest, a, s =>
    let w := s.devWrite a l true false
    match w.2 with
    | some c => (w.1, some (c, a))
    | none => Mach.putLines rest (a + 32) w.1

/-- Words cut into lines. -/
def cutLines (ws : List Word) : List (List Word) := (upTo (cdiv ws.length 8)).map fun i => (ws.drop (8 * i)).take 8

/-- READREG (R388): it waits where its answer would go to a stack that takes no new requests (R296). The address that DATA would give for a read that aborts is free. -/
def Mach.readregRow (s : Mach) (r : Nat) : Mach :=
  if (match s.front r 0x31 with | some d => s.rangeWaits (descAddr d 4) (cdiv (fld (dv d 3) 11 0 + 5) 8) | none => false) then s
  else s.cmdRow r 0x31 fun c m =>
    let tb := fun (x : Mach) => [x.clk.tb.setWidth 32, (x.clk.tb >>> 32).setWidth 32]
    let q := Mach.readRegs (fld (dv c.desc 3) 11 0 + 1) (dw c.desc 2) m
    match q.1 with
    | none =>
      let f := q.2.freeWords 1
      f.2.post c 5 (f.1.getD 0 0).toNat 0
    | some ws =>
      let p := Mach.putLines (cutLines (ws ++ tb m ++ tb q.2)) (descAddr c.desc 4) q.2
      match p.2 with
      | some (code, a) => p.1.post c (failStatus code a false).1 (failStatus code a false).2 0
      | none => p.1.post c 0 0 0

/-- POWERCAP (R471). -/
def Mach.powercapRow (s : Mach) (r : Nat) : Mach :=
  s.cmdRow r 0x32 fun c m => ((m.setReg 0x3_0008 (BitVec.ofNat 32 (fld (dv c.desc 2) 1 0))).retarget m.target).post c 0 0 0

/-- Read n lines from a device address: the words, or the first failure. -/
def Mach.readLines (s : Mach) : Nat → Nat → Except (Nat × Nat) (List Word)
  | 0, _ => .ok []
  | n + 1, a =>
    match s.devRead a 8 true false with
    | .err c => .error (c, a)
    | .bad => .error (8, a)
    | .ok ws => (match Mach.readLines s n (a + 32) with
        | .ok r => .ok (ws ++ r)
        | .error e => .error e)

/-- FITTING (R414, R415, R440): the bundle is read and verified, then the selected groups run (DEDUCED, log entry 71). -/
def Mach.fittingRow (s : Mach) (r : Nat) (res : FitResult) : Mach :=
  if (match s.front r 0x30 with | some d => s.rangeWaits (descAddr d 2) (cdiv (dw d 4) 32) | none => false) then s
  else s.cmdRow r 0x30 fun c m0 =>
    let m := if 3 ≤ m0.pw.st then m0.wakeTo 2 else m0
    let n := Mach.countRead (cdiv (dw c.desc 4) 32) (descAddr c.desc 2) m
    match m.readLines (cdiv (dw c.desc 4) 32) (descAddr c.desc 2) with
    | .error (code, a) => n.post c (failStatus code a false).1 (failStatus code a false).2 0
    | .ok ws =>
      if res.code = 1 ∨ res.code = 2 then n.post c 0x20 res.code 0
      else if res.code ≠ 0 then
        let f := n.freeWords 1
        f.2.post c 0x20 (f.1.getD 0 0).toNat 0
      else
        let bs := bytesOfWords (ws.take 16)
        let m1 := n.updSec fun x => { x with
          meas := x.meas.put 4 (BitVec.ofNat 384 (hdrNat bs 16 48))
          booted := x.booted.put 2 (hdrNat bs 6 2) }
        let q := m1.fitRun 1 (fld (dv c.desc 5) 15 0) res.fails
        if q.2.1 = 0 then q.1.post c 0 0 q.2.2 else q.1.post c 0x21 q.2.1 q.2.2

/-! ## BAR2 (R375) -/

/-- One word of a BAR2 access: the word read (none: it cannot be corrected), and whether the access was refused. -/
def Mach.bar2Word (s : Mach) (a : Nat) (wr : Option Word) : Mach × Option Word × Bool :=
  if s.isHostAddr a then (s, some 0xFFFFFFFF, true)
  else match wr with
    | some v =>
      let w := s.devWrite a [v] true false
      (w.1, some 0, w.2.isSome)
    | none => (match s.devRead a 1 true false with
        | .ok ws => (s.countSoft a 1, some (ws.getD 0 0), false)
        | .bad => (s, none, false)
        | .err 4 => (s, none, false)
        | .err _ => (s, some 0xFFFFFFFF, true))

/-- The words of a BAR2 access in turn. -/
def Mach.bar2Words : List (Option Word) → Nat → Mach → Mach × List (Option Word) × Bool
  | [], _, s => (s, [], false)
  | v :: rest, a, s =>
    let r := s.bar2Word a v
    let q := Mach.bar2Words rest (a + 4) r.1
    (q.1, r.2.1 :: q.2.1, r.2.2 || q.2.2)

/-- An access through BAR2: the read's words, or none for a Completer Abort; a refused one is recorded in HQ_ERR. One beyond BAR2's size is not the function's. -/
def Mach.bar2 (s : Mach) (q : Bar2Req) : Mach :=
  let a := fld (s.reg 0x1_0004) 17 0 * 2 ^ 30 + q.off / 4 * 4
  let l : List (Option Word) := match q.wr with | some ws => ws.map some | none => List.replicate q.n none
  if !s.hq.linkUp || s.hq.d3 || decide (2 ^ (30 + s.hq.pci.bar2Lg) < q.off / 4 * 4 + 4 * l.length) || s.rangeWaits (a / 32 * 32) (cdiv (a % 32 + 4 * l.length) 32) then s
  else
    let s0 := s.updPw fun p => { p with l0p := 16 }
    let r := Mach.bar2Words l a s0
    let bads := ((upTo r.2.1.length).filter fun i => (r.2.1.getD i none).isNone).map fun i => (a + 4 * i) / 32 * 32
    let s2 := bads.eraseDups.foldl (fun (m : Mach) b => m.countBad b) r.1
    let s1 := if r.2.2 then s2.hqError 6 0 0 else s2
    match q.wr with
    | some _ => s1
    | none => { s1 with rdata := if r.2.1.any fun x => x.isNone then none else some (r.2.1.map fun x => x.getD 0) }

/-! ## The host window (R282, R371, R373, R395) -/

/-- A request of a user to the host window ends without its data; poison tells that its completion was poisoned. -/
def Mach.hostWinFails (s : Mach) (u : HostWinUser) (poison : Bool) : Mach :=
  match u with
  | .hb t k => ((s.hbFails t k true).pumpHb t).pumpHx t
  | .mover m => ((if (s.ot.moving.map fun x => x.1) == some m && s.migratesHost then s.migrationFails m else s.endXfer m true poison)).pumpAllHx
  | .snapshot => (s.snapEnd true poison).pumpAllHx
  | .query => s.queryDeliver true

/-- A request to the host window receives its completion (R282). -/
def Mach.hostWinDone (s : Mach) (u : HostWinUser) (ok : Bool) : Mach :=
  if !ok then s.hostWinFails u false
  else match u with
    | .hb t k => (match s.hbCmd t k with
        | some h => if s.isHostAddr (h.addr h.donelines) then (s.hbGrant t k).pumpHb t else s
        | none => s)
    | .query => s.queryDeliver false
    | _ => s

/-- A poisoned TLP, or one with an ECRC error while ECRC checking is enabled (R371, R380; DEDUCED, log entry 52). -/
def Mach.poisoned (s : Mach) (k : TlpKind) (ecrc : Bool) : Mach :=
  if ecrc && !s.hq.pci.ecrcChk then s
  else
  let s1 := { s with hq := { s.hq with aer := s.hq.aer + 1 } }
  match k with
  | .write => s1.hqError 5 0 0
  | .fetch r => if r < 16 then s1.fetchDesc r true else s1.queryFetchFails (r - 32)
  | .read u => (s1.hqError 5 0 0).hostWinFails u true

/-- A transfer touches the host window. -/
def Mach.xferHost (s : Mach) (x : Xfer) : Bool := (upTo x.n).any fun m => s.isHostAddr (x.src + 32 * m) || s.isHostAddr (x.dst + 32 * m)

/-- Requests to host memory can no longer be made: the transfers that wait on them end with error status. -/
def Mach.hostStops (s : Mach) : Mach :=
  let s1 := (s.movers.filter fun x => match x.2.xfer with | some y => s.xferHost y | none => false).foldl (fun m x => m.endXfer x.1 true) s
  let s2 := match s1.trw.snap with
    | some x => if (x.exts.any fun e => s1.isHostAddr e.1) || s1.isHostAddr x.dst then s1.snapEnd true else s1
    | none => s1
  let s2a := match s2.ot.moving with | some (m, _) => if s2.migratesHost then s2.migrationFails m else s2 | none => s2
  let s3 := s2a.tiles.foldl (fun m x => ((upTo x.2.hb.length).reverse).foldl (fun m k =>
      match m.hbCmd x.1 k with
      | some h => if (upTo (h.n - h.donelines)).any fun i => m.isHostAddr (h.addr (h.donelines + i)) then m.hbFails x.1 k true else m
      | none => m) m) s2a
  ((upTo 4).foldl (fun m d => m.pumpHb (1792 * d)) s3).pumpAllHx

/-- An integrity failure takes the IDE stream out of Secure (R373). -/
def Mach.ideFails (s : Mach) : Mach :=
  if !s.hq.ideSecure then s
  else (({ s with hq := { s.hq with ideSecure := false, ideFailed := true } }).hqError 7 0 0).hostStops

/-- The link goes down (R395). -/
def Mach.linkDown (s : Mach) : Mach := if s.hq.linkUp then ({ s with hq := { s.hq with linkUp := false } }).hostStops else s

/-- The link returns (R395), with the configuration that the host gives the function then (R370; DESIGN CHOICE, log entry 88), its rate
within the cap of S11 (R453). -/
def Mach.linkReturns (s : Mach) : Mach :=
  if s.sec.done then { s with hq := { s.hq with linkUp := true, pci := { s.hq.host with rate := min s.hq.host.rate (6 - s.sec.rateCap) } } } else s

/-! ## Resets of the function (R372, R396, R478) -/

/-- A command that posts no completion (R372). -/
def Cmd.mute (c : Cmd) : Cmd := { c with ring := 16 }

/-- The user of a transfer whose command posts no completion. -/
def MoverUser.mute : MoverUser → MoverUser
  | .copy c => .copy c.mute
  | .snap (some c) => .snap (some c.mute)
  | u => u

/-- FLR or D3hot: ABORT and UNLOAD with mask 0, every ring disabled, no completions, and the HQ_ registers back at reset; the ownership that Bonnet
assigned stays (R393) (DEDUCED, log entry 51). -/
def Mach.functionReset (s : Mach) : Mach :=
  let s1 := if s.hq.job == .running || s.itg.phase != .idle then s.doAbort else s
  let s2 := if s1.hq.job == .idle then s1 else (s1.doUnload 0).treesIdle.announce
  { s2 with
    hq := { linkUp := s2.hq.linkUp, pci := { rate := s2.hq.pci.rate, width := s2.hq.pci.width, flit := s2.hq.pci.flit }, host := s2.hq.host, ideSecure := s2.hq.ideSecure, ideFailed := s2.hq.ideFailed, aer := s2.hq.aer, d3 := s2.hq.d3 }
    evc := { s2.evc with hostQ := [] }
    movers := s2.movers.map fun (x : Nat × Mover) => (x.1, { x.2 with xfer := x.2.xfer.map fun (y : Xfer) => { y with user := y.user.mute } })
    trw := { s2.trw with snap := s2.trw.snap.map fun (x : Snap) => { x with cmd := x.cmd.map Cmd.mute } }
    regs := s2.regs.filter fun x => !(decide (0x1_0000 ≤ x.1) && decide (x.1 < 0x2_0000)),
    lows := s2.lows.filter fun x => !(decide (0x1_0000 ≤ x.1) && decide (x.1 < 0x2_0000)) }

/-- A move to D3hot. -/
def Mach.d3Entry (s : Mach) : Mach := let s1 := s.functionReset; { s1 with hq := { s1.hq with d3 := true } }

/-- A move back to D0 wakes the package (R476). -/
def Mach.d0Entry (s : Mach) : Mach := ({ s with hq := { s.hq with d3 := false } }).wakeTo 7

/-- PERST# (R478): the function is reset and the link trains again; a conventional reset ends IDE and returns the function to D0 (log entry 46). -/
def Mach.perst (s : Mach) : Mach :=
  let s1 := s.functionReset
  { s1 with hq := { s1.hq with linkUp := s.sec.done, ideSecure := false, ideFailed := false, d3 := false }
            pw := { s1.pw with l0p := 16 } }

end Sys2Proof.Machine
end

