-- ==== Sys2Proof/Machine/Image.lean ====
section
/-! DEFINITION. The .zex image and LOAD (R6, R28, R35, R241, R261, R317, R367, R438 to R441, R482 to R492). -/

namespace Sys2Proof.Machine

/-! ## The section directory (R482, R483) -/

/-- An entry of the section directory. -/
structure Sect where
  idx : Nat
  type : Nat
  role : Nat
  flags : Nat
  off : Nat
  len : Nat
  deriving DecidableEq, Repr

/-- Byte offset of directory entry i in the image. -/
def entryOff (i : Nat) : Nat := 264 + 80 * i

/-- Directory entry i of an image's bytes. -/
def sectOf (bs : List Byte) (i : Nat) : Sect :=
  let e := entryOff i
  { idx := i, type := hdrNat bs e 2, role := hdrNat bs (e + 2) 2, flags := hdrNat bs (e + 4) 4, off := hdrNat bs (e + 8) 8, len := hdrNat bs (e + 16) 8 }

/-- The section types. -/
def sectTypes : List Nat := [0x01, 0x02, 0x10, 0x11, 0x20, 0x21, 0x22, 0x23, 0x24, 0x25, 0x30, 0x31, 0x32, 0x33, 0x40]

/-- An entry that makes the image malformed: its type, flags, gap, an inline section's hash, its place, or a second section of its type for its role. -/
def sectBad (bs : List Byte) (bodyEnd : Nat) (all : List Sect) (x : Sect) : Bool :=
  let bulk := x.flags == 1
  !(sectTypes.contains x.type) || decide (1 < x.flags) || hdrNat bs (entryOff x.idx + 24) 8 != 0 || (!bulk && hdrNat bs (entryOff x.idx + 32) 48 != 0) || bulk != (x.type == 0x10 || x.type == 0x11) ||
    x.off % 64 != 0 || decide (bs.length < x.off + x.len) || (if bulk then decide (x.off < bodyEnd + 1836) else decide (bodyEnd < x.off + x.len)) ||
    (x.type != 0x40 && all.any fun y => decide (y.idx < x.idx) && y.type == x.type && y.role == x.role)

/-- The bytes of a section. -/
def sectBytes (bs : List Byte) (x : Sect) : List Byte := (bs.drop x.off).take x.len

/-! ## Step 1: signatures (R440, R441, R490) -/

/-- The bytes of n bytes at a device address, or STATUS and DETAIL of what stops the read. -/
def Mach.readBytes (s : Mach) (a n : Nat) : Except (Nat × Nat) (List Byte) :=
  match s.readLines (cdiv n 32) a with
  | .ok ws => .ok ((bytesOfWords ws).take n)
  | .error (c, x) => .error (failStatus c x false)

/-- The signed object is read and verified: its BODYHASH (DEDUCED, log entry 71). -/
def Mach.loadSig (s : Mach) (a n : Nat) (img : Image) : Except (Nat × Nat) (BitVec 384) := do
  let hd ← s.readBytes a (min n 256)
  let blen := hdrNat hd 8 4
  let _ ← s.readBytes a (min n (256 + blen + 1836))
  if img.certCode ≠ 0 then .error (0x11, 3)
  else if n < 256 ∨ hdrNat hd 0 4 ≠ 0x55434858 ∨ n < 256 + blen + 1836 then .error (0x11, 5)
  else if hdrNat hd 4 2 ≠ 6 ∨ !(flagsAdmit s.sec.lc (hdrNat hd 12 4)) then .error (0x11, 6)
  else if img.code ≠ 0 then .error (0x11, img.code)
  else .ok (BitVec.ofNat 384 (hdrNat hd 16 48))

/-! ## Step 3: declarations (R484, R485) -/

/-- The lowest missing capability. -/
def Mach.missingCap (s : Mach) (need : Nat) : Option Nat := (upTo 32).find? fun i => need.testBit i && !(bit s.part.caps i)

/-- Stacks present and not FAILED. -/
def Mach.stacksUp (s : Mach) : Nat := (s.stackSites.filter fun n => (s.stack n).present && !(s.stack n).failed).length

/-- A ring link over its capacity: link n joins CDn and the next die (R484). -/
def Mach.ringShort (s : Mach) (l : List (Nat × Nat)) : Option Nat :=
  (upTo 4).find? fun k => l.any fun x => x.1 / 2 == k && decide (s.ringCap k true < x.2)

/-- A die that the binary uses with a hub-link group at half width or worse. -/
def Mach.hubShort (s : Mach) (dies : List Nat) : Option Nat :=
  dies.find? fun d => (upTo 4).any fun k => decide (4 < ((s.die d).lanes.get [] k).length)

/-- The evaluation slice breaches R317. -/
def Mach.sliceBad (s : Mach) (img : Image) : Bool :=
  let cols := img.decl.slice
  decide ((if s.part.variant = 2 then 16 else 32) < cols.length) ||
    (img.tiles.any fun x => x.jobGroup && cols.contains (colGx x.num)) ||
    (s.part.dies.any fun d => (upTo 1792).any fun t => cols.contains (colGx (1792 * d + t)) && s.unavail (1792 * d + t))

/-- A combining queue that does not fit (R261). -/
def rqTooBig (e : BitVec 64) : Bool := rqComb e && decide (rqSize e < rqSlots e * (8 + 10 * rqLen e))

/-- The checks of R484 and R485 in their order: STATUS and DETAIL of the first that fails. -/
def Mach.loadDecl (s : Mach) (img : Image) (declOff rank pkg : Nat) (rqes : List (BitVec 64)) : Except (Nat × Nat) Unit :=
  let d := img.decl
  let res := fun (kind idx : Nat) => (Except.error (0x12, kind + idx * 2 ^ 8) : Except (Nat × Nat) Unit)
  if !(s.tpSet.contains d.tpid) then .error (0x13, d.tpid % 2 ^ 16)
  else match s.missingCap d.caps with
  | some i => res 1 i
  | none => match img.tiles.find? fun x => !(s.tileExists x.num) || s.unavail x.num with
  | some x => res 2 x.num
  | none =>
    if s.stacksUp < d.hbms then res 3 ((Config.freeWord s.free).toNat % 2 ^ 16)
    else match (bitsSet 12 d.ports).find? fun p => !(s.portSites.contains p) || !(s.port p).up with
    | some p => res 4 p
    | none => match (bitsSet 12 d.ports).find? fun p => !d.slack && (s.port p).width == 1 with
    | some p => res 5 p
    | none => match s.ringShort d.ringLines with
    | some k => res 6 k
    | none => match (if d.slack then none else s.hubShort (s.part.dies.filter fun k => img.tiles.any fun x => dieOf x.num == k)) with
    | some k => res 7 k
    | none =>
      if d.nppr = 0 ∨ 255 < d.nppr then .error (0x10, declOff)
      else if s.sliceBad img then .error (0x14, 2)
      else if rqes.any rqTooBig then .error (0x14, 1)
      else if pkg < rank * d.nppr ∨ d.nppr ≤ pkg - rank * d.nppr then .error (0x02, 5)
      else .ok ()

/-! ## Step 4: the placement block and patches (R486 to R489) -/

/-- Registers that a register image may name, with the bits it may write. -/
def imageRegs : List (Nat × Nat × Nat × Nat) :=
  [(0xA_0004, 0x1000, 12, 0x70000000), (0xB_0100, 4, 32, 0xFFFFFFFF), (0xB_0200, 8, 16, 0xCFF00FFF), (0xB_0204, 8, 16, 0xFFF), (0x6_8030, 4, 1, 0xFF00),
   (0x7_0200, 4, 1, 0x1FFFFF), (0x7_0208, 8, 2, 0xFFFFFFC0), (0x7_020C, 8, 2, 0xFFFF)]

/-- The bits of a register image's target. -/
def imageMask (off : Nat) : Option Nat :=
  match imageRegs.find? fun x => (arr off x.1 x.2.1 x.2.2.1).isSome with
  | some x => some x.2.2.2
  | none => none

/-- The first record of the placement block that is refused (R488). -/
def placeBad (img : Image) : Option Nat :=
  match img.bindings.find? fun x => x.2.1 % 2 ^ 21 != 0 || decide (4096 ≤ x.1) with
  | some x => some x.2.2
  | none =>
    match img.images.find? fun x => (imageMask x.1).isNone || (img.images.any fun y => y.1 == x.1 && decide (y.2.2 < x.2.2)) with
    | some x => some x.2.2
    | none => none

/-- The device address that object o is bound to. -/
def boundAt (img : Image) (o : Nat) : Option Nat :=
  match img.bindings.find? fun x => x.1 == o with
  | some x => some x.2.1
  | none => none

/-- The first address of an object's range that no placed entry covers (R489). -/
def Mach.uncovered (s : Mach) (b len : Nat) : Option Nat := ((upTo len).map fun k => b + k * 2 ^ 21).find? fun a => (s.entryOf a).isNone

/-- The objects are bound and covered: LOAD_FORMAT for a missing binding, at the OBJECTS section, or ADDR. -/
def Mach.loadBind (s : Mach) (img : Image) (objOff : Nat) : Except (Nat × Nat) Unit :=
  match img.objects.find? fun x => x.2 != 0 && (boundAt img x.1).isNone with
  | some _ => .error (0x10, objOff)
  | none =>
    match (img.objects.filterMap fun x => if x.2 = 0 then none else (match boundAt img x.1 with | some b => s.uncovered b x.2 | none => none)).head? with
    | some a => .error (failStatus 1 a false)
    | none => .ok ()

/-- What a patch writes: its bytes' length, the bits of its field, and the value (R486). -/
structure Patch where
  len : Nat
  bits : Nat
  val : Nat
  ok : Bool := true
  deriving DecidableEq, Repr

/-- The membership line with every rank live (R343). -/
def membLine (rank nrm1 : Nat) : Nat := (2 ^ (nrm1 + 1) - 1) + (nrm1 + 1) * 2 ^ 64 + rank * 2 ^ 96

/-- The patch of a record whose bytes are given (R486, R487): none for a type that is not listed or an object with no address. -/
def patchOf (img : Image) (rank nrm1 : Nat) (rc : List Byte) : Option Patch :=
  let add := hdrNat rc 8 8
  let obj := hdrNat rc 2 2 % 2 ^ 12
  match hdrNat rc 0 1, boundAt img obj with
  | 1, some b => let a := (b + add) % 2 ^ 64; some { len := 8, bits := 39, val := a / 512, ok := a % 512 == 0 }
  | 2, some b => let a := (b + add) % 2 ^ 64; some { len := 8, bits := 48, val := a, ok := a % 32 == 0 }
  | 3, _ => some { len := 1, bits := 8, val := (rank * img.decl.nppr + add) % 2 ^ 64 }
  | 4, _ => some { len := 1, bits := 6, val := rank }
  | 5, _ => some { len := 32, bits := 256, val := membLine rank nrm1 }
  | _, _ => none

/-- The patched sections so far, with the bits each record has taken: section, first bit and last. -/
structure Patched where
  data : SMap (List Byte)
  used : List (Nat × Nat × Nat) := []
  deriving DecidableEq, Repr

/-- Apply one record (R487): none where it is refused. -/
def applyPatch (img : Image) (rank nrm1 : Nat) (rc : List Byte) (p : Patched) : Option Patched :=
  let sect := hdrNat rc 1 1
  let off := hdrNat rc 4 4
  match patchOf img rank nrm1 rc with
  | none => none
  | some q =>
    let bs := p.data.get [] sect
    let old := hdrNat bs off q.len
    let lo := 8 * off
    let hi := lo + q.bits
    if bs.length < off + q.len ∨ old % 2 ^ q.bits ≠ 0 ∨ 2 ^ q.bits ≤ q.val ∨ q.ok = false ∨
        (p.used.any fun u => u.1 == sect && decide (u.2.1 < hi) && decide (lo < u.2.2)) = true then none
    else
      some { data := p.data.put sect (bs.take off ++ bytesOfNat q.len (old + q.val) ++ bs.drop (off + q.len)), used := (sect, lo, hi) :: p.used }

/-- Apply records: the byte offset in the image of the first that is refused. -/
def applyPatches (img : Image) (rank nrm1 : Nat) : List (Nat × List Byte) → Patched → Except (Nat × Nat) Patched
  | [], p => .ok p
  | (at_, rc) :: rest, p =>
    match applyPatch img rank nrm1 rc p with
    | some q => applyPatches img rank nrm1 rest q
    | none => .error (0x10, at_)

/-- The records of the RELOC sections loaded, in order, each with its offset in the image. -/
def relocs (bs : List Byte) (l : List Sect) : List (Nat × List Byte) :=
  (l.filter fun x => x.type == 0x40).flatMap fun x => (upTo (x.len / 16)).map fun i => (x.off + 16 * i, (bs.drop (x.off + 16 * i)).take 16)

/-! ## Steps 5 to 7: the writes -/

/-- The words that a put takes from its section. -/
def putWords (data : SMap (List Byte)) (q : ImgPut) : List Word := wordsOfBytes (((data.get [] q.sect).drop q.off).take (4 * q.n))

/-- A put suits its section's type (R483). -/
def putFits (l : List Sect) (q : ImgPut) : Bool :=
  match l.find? fun x => x.idx == q.sect with
  | none => false
  | some x => (match q.dst with
      | .mem _ _ => x.type == 0x10 || x.type == 0x11
      | .tab _ _ => decide (0x20 ≤ x.type) && decide (x.type ≤ 0x25)
      | .reg _ => [0x01, 0x30, 0x31, 0x33].contains x.type)

/-- The tables that the puts write for a tile. -/
def tablesOf (data : SMap (List Byte)) (puts : List ImgPut) (t : Nat) : Tables :=
  puts.foldl (fun tb q => match q.dst with
    | .tab n o => if n = t then (numbered (putWords data q)).foldl (fun x w => x.write (o + 4 * w.1) w.2) tb else tb
    | _ => tb) {}

/-- A tile that LOAD makes part of the job (R483, R490): its segments, cleared where they are on, its configuration and its tables. -/
def loadTile (t : Tile) (d : Decl) (x : ImgTile) (tb : Tables) : Tile :=
  let t1 := ((({ mem := t.mem, bad := t.bad, soft := t.soft, cfg := t.cfg } : Tile).setSegs x.seg).scrub 0xFFFF)
  { t1 with
    cfg := { t1.cfg with num := { ftz := d.ftz, scope := d.scope }, e7q := d.e7q, usat := BitVec.ofNat 16 x.usat }
    tab := tb
    tsq := { t1.tsq with inJob := true, progBase := BitVec.ofNat 18 x.progBase, entryPc := BitVec.ofNat 17 x.entry, jobGroup := x.jobGroup, home := x.home } }

/-- Every tile: those of the job are loaded; the others are off and keep nothing (R26). -/
def Mach.loadTiles (s : Mach) (img : Image) (data : SMap (List Byte)) (puts : List ImgPut) : Mach :=
  let off := s.tiles.map fun (x : Nat × Tile) => (x.1, ({ cfg := { num := { ftz := img.decl.ftz, scope := img.decl.scope }, e7q := img.decl.e7q } } : Tile))
  { s with tiles := img.tiles.foldl (fun m x => SMap.put m x.num (loadTile (s.tile x.num) img.decl x (tablesOf data puts x.num))) off }

/-- Write tile memory by bulk mover: the first word that lies in no segment that is on, or in no tile of the job, is the first failure. -/
def Mach.putMem (s : Mach) (t w : Nat) (ws : List Word) : Mach × Option Nat :=
  let bad := (upTo ws.length).find? fun i => !(s.tile t).tsq.inJob || !((s.tile t).segOn (w + i)) || decide (2 ^ 18 ≤ w + i)
  match bad with
  | some i => (s, some (0x1000_0000_0000 + t * 2 ^ 20 + 4 * (w + i)))
  | none => (s.updTile t fun x => x.both fun y => y.poke w ws, none)

/-- Write the words of every put to tile memory. -/
def Mach.putMems (data : SMap (List Byte)) : List ImgPut → Mach → Mach × Option Nat
  | [], s => (s, none)
  | q :: rest, s =>
    match q.dst with
    | .mem t w =>
      let r := s.putMem t w (putWords data q)
      match r.2 with
      | some a => (r.1, some a)
      | none => Mach.putMems data rest r.1
    | _ => Mach.putMems data rest s

/-- Store the defined bits of a register that the loader writes. -/
def Mach.loadReg (s : Mach) (off : Nat) (v : Word) : Mach :=
  match masksOf off with
  | some m => s.storeMask off (m.1 ||| m.2) (if off = 0x7_0010 then s.lwcfgWord v else v)
  | none => s

/-- The registers that the puts write. -/
def regPuts (data : SMap (List Byte)) (puts : List ImgPut) : List (Nat × Word) :=
  puts.flatMap fun q => match q.dst with
    | .reg o => (numbered (putWords data q)).map fun w => (o + 4 * w.1, w.2)
    | _ => []

/-- The entry of CDC_TPENT that holds a TPID (R241). -/
def Mach.tpEntry (s : Mach) (d tpid : Nat) : Nat := ((upTo 4).find? fun n => bit (s.tpEnt d n) 31 && fld (s.tpEnt d n) 15 0 == tpid).getD 0

/-- What LOAD writes on every populated die besides tiles and sections. -/
def Mach.dieWrites (s : Mach) (d : List Word) (img : Image) : List (Nat × Word) :=
  s.part.dies.flatMap fun k =>
    [(cdc k 0x102_0020, BitVec.ofNat 32 (s.tpEntry k img.decl.tpid)), (cdc k 0x101_E000, dv d 6), (cdc k 0x101_E004, dv d 7), (cdc k 0x101_E008, dv d 8)]

/-- The hub registers of the declarations and of the descriptor. -/
def Mach.hubWrites (s : Mach) (d : List Word) (img : Image) : List (Nat × Word) :=
  let x := img.decl
  [(0xB_0000, mkWord [(31, b2n x.slack), (0, fld (dv d 5) 7 0)]),
   (0x6_8000, mkWord [(31, fld (dv d 5) 31 31), (16, fld (dv d 5) 21 16), (0, fld (dv d 5) 29 24)]),
   (0x6_0010, setFld (s.reg 0x6_0010) 31 31 (b2n x.replay)),
   (0x6_8030, setFld (setFld (setFld (s.reg 0x6_8030) 31 31 (b2n x.cmp)) 30 16 x.interval) 7 0 x.nppr)]

/-- Every register written, in order: dies, sections, declarations, placement block. -/
def Mach.writeRegs (s : Mach) (d : List Word) (img : Image) (regs : List (Nat × Word)) : Mach :=
  let s1 := (s.dieWrites d img ++ regs).foldl (fun m x => m.loadReg x.1 x.2) s
  let s2 := (s1.hubWrites d img).foldl (fun m x => m.loadReg x.1 x.2) s1
  img.images.foldl (fun m x => m.storeMask x.1 ((imageMask x.1).getD 0) x.2.1) s2

/-- R492: a failure in steps 5 and 6 leaves a reset tile domain, nothing in the tiles, and 0 in every register written; PKGIDX says that no job is loaded. -/
def Mach.loadUndo (s : Mach) (d : List Word) (img : Image) (regs : List (Nat × Word)) : Mach :=
  let offs := ((s.dieWrites d img ++ regs ++ s.hubWrites d img).map fun x => x.1) ++ img.images.map fun x => x.1
  let s1 := s.tileDomainReset
  let s2 := { s1 with tiles := s1.tiles.map fun (x : Nat × Tile) => (x.1, ({} : Tile)), lows := s1.lows.filter fun x => !(offs.contains x.1) }
  (offs.foldl (fun m o => m.setReg o 0) s2).setReg 0xB_0000 0xFF

/-- The load itself, once every check has passed (R28, R490 steps 5 to 8). -/
def Mach.loadWrite (s0 : Mach) (c : Cmd) (img : Image) (sects : List Sect) (data : SMap (List Byte)) : Mach :=
  let s := s0.applyRepair
  let puts := img.puts.filter fun q => putFits sects q
  let regs := regPuts data puts
  let s1 := (s.loadTiles img data puts).writeRegs c.desc img regs
  let r := Mach.putMems data puts s1
  match img.writeErr, r.2 with
  | some a, _ => (s1.loadUndo c.desc img regs).post c 5 (a / 32 % 2 ^ 32) 0
  | none, some a => (s1.loadUndo c.desc img regs).post c 4 (a / 32 % 2 ^ 32) 0
  | none, none =>
    let s2 := { r.1 with
      hq := { r.1.hq with job := .loaded, copies := img.tiles.foldl (fun (m : SMap Tables) (x : ImgTile) => SMap.put m x.num (tablesOf data puts x.num)) [], tpid := some img.decl.tpid, ringLines := img.decl.ringLines.foldl (fun (m : SMap Nat) (x : Nat × Nat) => SMap.put m x.1 x.2) [] }
      itg := { r.1.itg with shards := img.shards } }
    (s2.announce).post c 0 0 img.tiles.length

/-- Steps 2 to 4 (R490): the sections of this role with their patched bytes (DEDUCED, log entry 64). -/
def Mach.loadPlan (s : Mach) (d : List Word) (img : Image) : Except (Nat × Nat) (List Sect × SMap (List Byte)) := do
  let n := dw d 4
  let rank := fld (dv d 5) 21 16
  let pkg := fld (dv d 5) 7 0
  let nrm1 := fld (dv d 5) 29 24
  let bs ← s.readBytes (descAddr d 2) n
  let bodyEnd := 256 + hdrNat bs 8 4
  let count := hdrNat bs 256 8
  if bodyEnd < entryOff count then .error (0x10, 256)
  else
    let all := (upTo count).map fun i => sectOf bs i
    match all.find? fun x => sectBad bs bodyEnd all x with
    | some x => .error (0x10, entryOff x.idx)
    | none =>
    match all.find? fun x => x.flags == 1 && img.badHash.contains x.idx with
    | some x => .error (0x10, x.off)
    | none =>
    match img.malformed with
    | some o => .error (0x10, o)
    | none => do
      let offOf := fun (ty : Nat) => match all.find? fun x => x.type == ty with | some x => x.off | none => 256
      let role := pkg - rank * img.decl.nppr
      let mine := all.filter fun x => x.role == role || x.role == 0xFFFF
      let raw : SMap (List Byte) := mine.map fun x => (x.idx, sectBytes bs x)
      let tabPuts := img.puts.filter fun q => putFits mine q
      let rqes := img.tiles.flatMap fun x => (tablesOf raw tabPuts x.num).rqe.map fun y => y.2
      s.applyRepair.loadDecl img (offOf 0x01) rank pkg rqes
      match placeBad img with
      | some o => .error (0x10, o)
      | none =>
        s.loadBind img (offOf 0x32)
        let p ← applyPatches img rank nrm1 (relocs bs mine) { data := raw }
        .ok (mine, p.data)

/-- LOAD (R490): the signatures first, which leave their measurement; then the checks; then the writes. -/
def Mach.cmdLoad (s : Mach) (c : Cmd) (img : Image) : Mach :=
  let s0 := Mach.countRead (cdiv (dw c.desc 4) 32) (descAddr c.desc 2) s
  match s.loadSig (descAddr c.desc 2) (dw c.desc 4) img with
  | .error e => s0.post c e.1 e.2 0
  | .ok h =>
    let s1 := s0.updSec fun x => { x with meas := x.meas.put 5 h }
    match s1.loadPlan c.desc img with
    | .error e => ({ s1 with free := s1.free + 1 }).post c e.1 e.2 0
    | .ok p => s1.loadWrite c img p.1 p.2

/-- LOAD, from a package that is back in A0 (R477); it waits where its image lies in a stack that takes no new requests (R296). -/
def Mach.loadRow (s : Mach) (r : Nat) (img : Image) : Mach :=
  if (match s.front r 0x10 with | some d => s.rangeWaits (descAddr d 2) (cdiv (dw d 4) 32) | none => false) then s
  else s.cmdRow r 0x10 fun c m => (if 3 ≤ m.pw.st then m.wakeTo 2 else m).cmdLoad c img

end Sys2Proof.Machine
end

