-- ==== Sys2Proof/Machine/Clock.lean ====
section
/-! DEFINITION. What one tick of ACLK does whatever is commanded (log entry 16): the cycle count, the timebase, link transmission, stall counters. -/

namespace Sys2Proof.Machine

/-- A cycle of ACLK at an operating point lasts 4 / q ns; this is q (R9, R464). -/
def aclkQuarters (code : Nat) : Nat :=
  match code with
  | 0 => 7
  | 1 => 6
  | 2 => 5
  | 3 => 4
  | _ => 2

/-- The nanoseconds that the timebase counts in n nanoseconds of the reference, at a trim of the HPLL in ppm (R365), and the millionths left over. -/
def Clk.trimmed (c : Clk) (trim : Int) (n : Nat) : Nat × Nat :=
  let x := n * (1000000 + trim).toNat + c.sub
  (x / 1000000, x % 1000000)

/-- The timebase after one tick (R300): it counts nanoseconds; while ACLK does not run, a tick is a cycle of HCLK, and while that does not run either, one of SOSC,
which counts 1,000 (DESIGN CHOICE, log entry 17). With spread of depth D the average ACLK lies D / 2, which is D / 4000 of it, below its operating point (R461). -/
def Clk.advance (c : Clk) (trim : Int) (depth : Nat) : Clk :=
  if c.aclkOn then
    let f := c.frac + 16000
    let q := aclkQuarters c.code * (4000 - min 10 depth)
    let x := c.trimmed trim (f / q)
    { c with aclk := c.aclk + 1, tb := c.tb + BitVec.ofNat 64 x.1, frac := f % q, sub := x.2 }
  else if c.hclkOn then
    let x := c.trimmed trim 1
    { c with tb := c.tb + BitVec.ofNat 64 x.1, sub := x.2 }
  else { c with tb := c.tb + 1000 }

/-- The oldest outstanding hb.ld or hb.st of a die (R297): the earliest issue cycle, the lowest tile breaking ties. -/
def Mach.oldestHb (s : Mach) (d : Nat) : Option (Nat × HbCmd) :=
  (s.tiles.filter fun x => dieOf x.1 == d).foldl (fun (b : Option (Nat × HbCmd)) x =>
    x.2.hb.foldl (fun (b : Option (Nat × HbCmd)) h => match b with
      | some o => if h.cyc < o.2.cyc then some (x.1, h) else some o
      | none => some (x.1, h)) b) none

/-- A place's stack is held by its controller's recovery (R297). -/
def Mach.placeHeld (s : Mach) (p : DevPlace) : Bool := match p with | .stack k _ => (s.stack k).held | _ => false

/-- Some line of an hb. command waits on a stack whose controller recovers. -/
def Mach.hbHeld (s : Mach) (h : HbCmd) : Bool :=
  (s.hbms.any fun x => x.2.held) && (upTo (h.n - h.donelines)).any fun m => s.placeHeld (s.devPlace (h.addr (h.donelines + m)))

/-- The cause that delays the oldest command of a die in a cycle, by its counter (R297): controller fault before thermal throttle. A command that ended with
error status counts under controller fault until the job is released again (R292). The model's state shows no other cause (DEDUCED, log entry 56). -/
def Mach.stallCause (s : Mach) (d : Nat) : Option Nat :=
  let dead := (s.die d).hbDead
  match s.oldestHb d with
  | none => if dead.isEmpty then none else some 5
  | some (n, h) =>
    if (dead.any fun x => decide (x.1 < h.cyc) || (x.1 == h.cyc && decide (x.2 ≤ n))) || s.hbHeld h then some 5
    else if s.hbWaits h then some 1 else none

/-- The stall counters of a die count a cycle. -/
def Mach.countStall (s : Mach) (d : Nat) : Mach :=
  match s.stallCause d with
  | some k => s.updDie d fun y => { y with hbstall := SMap.upd 0 y.hbstall k fun n => (n + 1) % 2 ^ 64 }
  | none => s

/-- One tick; the cycle that it ends is over for the tiles that faulted in it (DESIGN CHOICE, log entry 16). -/
def Mach.tick (s : Mach) : Mach :=
  let s1 := if s.clk.aclkOn then s.part.dies.foldl (fun m d => m.countStall d) s else s
  let s2 := s1.sendFlits.migrateGranule
  let clk := s2.clk.advance s2.dil.trim (fld s2.pw.ssc 3 0)
  ({ s2.cyclesOver clk.aclk with clk := clk }).faultsOver

end Sys2Proof.Machine
end

