-- ==== Sys2Proof/Machine/TileRows.lean ====
section
/-! DEFINITION. The rows of a tile as operations on the machine: sy. instructions at issue, drain points, the Cuff's switches, arrivals of messages, and
releases (R37 to R72, R262 to R279, R361, R362, R531, R532). -/

namespace Sys2Proof.Machine

/-- What a tile does takes place while ACLK runs, in a tile that exists. -/
def Mach.onTile (s : Mach) (n : Nat) (f : Mach → Mach) : Mach := if s.clk.aclkOn && s.tileExists n then f s else s

/-- A sy. instruction of an OP reaches issue: nothing, its fault, or its effect in its issue cycle. -/
def Mach.syRow (s : Mach) (n op : Nat) (w : IWord) (f : Tile → Nat → Tile) : Mach :=
  s.onTile n fun m =>
    match (m.tile n).gate m.part.caps m.clk.aclk 0 op w with
    | .idle => m
    | .faulted t => m.putTile n t
    | .go c => m.putTile n (f (m.tile n) c)

/-- A command of a synchronous, hb. or hx. queue reaches issue. -/
def Mach.engRow (s : Mach) (n eng op : Nat) (w : IWord) : Mach := s.onTile n fun m => m.engOp n eng op w none

/-- A blocking channel operation reaches issue. -/
def Mach.chanRow (s : Mach) (n op : Nat) (w : IWord) : Mach := s.onTile n fun m => m.chanOp n op w

/-- A change of one tile (DEDUCED, log entry 53). -/
def Mach.tileRow (s : Mach) (n : Nat) (f : Mach → Tile → Tile) : Mach := s.onTile n fun m => m.updTile n (f m)

/-- sy.at (R48). -/
def Tile.doAt (t : Tile) (w : IWord) (c : Nat) : Tile := (t.issued w c).hold (.untilPcc (fld w 31 0))

/-- sy.wait (R45, R245). -/
def Tile.doWait (t : Tile) (w : IWord) (c : Nat) : Tile := (t.issued w c).hold (.wait (fld w 41 38) c)

/-- sy.halt within the tile (R59). -/
def Tile.doHalt (t : Tile) (w : IWord) (c : Nat) : Tile := let x := t.issued w c; { x with tsq := { x.tsq with halted := true } }

/-- sy.halt (R59, R269): the tile halts and its queues close. -/
def Mach.haltRow (s : Mach) (n : Nat) (w : IWord) : Mach :=
  let s1 := s.syRow n 0x0E w fun t c => t.doHalt w c
  if (s1.tile n).tsq.halted && !(s.tile n).tsq.halted then s1.closeAll n else s1

/-- xc.qclose (R265, R269): it does not block. -/
def Mach.qcloseRow (s : Mach) (n : Nat) (w : IWord) : Mach :=
  s.onTile n fun m =>
    match (m.tile n).gate m.part.caps m.clk.aclk 6 0x22 w with
    | .idle => m
    | .faulted t => m.putTile n t
    | .go c =>
      match ((m.tile n).eng 6).roomAt 16 c with
      | none => m.updTile n fun t => t.hold (.stall 6)
      | some r =>
        if r == c then m.chanIssue n w c
        else if (m.tile n).asyncQueue 6 then m.updTile n fun t => t.hold (.stall 6)
        else if (m.tile n).mayIssue w r then m.chanIssue n w r
        else m

/-- A drain point resumes (R45). -/
def Mach.drainRow (s : Mach) (n : Nat) : Mach :=
  s.onTile n fun m =>
    match (m.tile n).cur.hold with
    | .chan _ => m.chanResume n
    | _ => m.updTile n fun t => t.drainResume m.clk.aclk

/-- The switch into the Cuff context (R67, R531). -/
def Tile.switchIn (t : Tile) : Tile :=
  match t.cuffSwitch with
  | some c => t.startKernel .ctx c
  | none => t

/-- The Cuff-overrun fault (R68) at PCC = XGUARD. -/
def Tile.overrunFault (t : Tile) : Tile :=
  if t.overrun then t.fault 0x08 0 0 t.tsq.cuff.pc.toNat ((t.tm.relAt.getD 0) + t.tm.xguard) t.tsq.cuff.pc.toNat 0 else t

/-- A tile arrives at its pending sync (R51), and the group's trees go on (R362). -/
def Mach.arriveRow (s : Mach) (n : Nat) (msgOk : Bool) : Mach :=
  s.onTile n fun m => (m.syncArrive n msgOk).treesAdvance

/-- A group releases (R52, R259, R260, R362): on one package when it is full, across packages when this package is the root and its whole tree is in. -/
def Mach.releaseRow (s : Mach) (g : Nat) : Mach :=
  if !s.clk.aclkOn || decide (16 ≤ g) then s
  else if s.xchip g then
    let t := s.tree g
    if bit (s.reg (sgt0 g)) 31 && t.formed && t.effpar == 0xF then
      (match s.subtreeMsg g with
       | some m => (s.treeRelease m).treeAdvance g
       | none => s)
    else s
  else if s.groupFull g then
    let gr := s.group g
    let c := combineArrivals gr.arr gr.mark
    s.releaseGroup g (s.relCyc g) c.1 c.2.1 c.2.2 s.hq.stopReq
  else s

/-- The first record or pad on its way to a receive queue of this package (R268). -/
def Mach.recordFor (s : Mach) (n q : Nat) : Option Msg :=
  s.msgs.find? fun m => (m.kind == .record || m.kind == .pad) && m.dpkg == s.pkgIdx && m.dtile == n && m.dq == q

/-- The k-th contribution on its way to a combining queue (R273). -/
def Mach.contribFor (s : Mach) (n q k : Nat) : Option Msg :=
  (s.msgs.filter fun m => m.kind == .contrib && m.dpkg == s.pkgIdx && m.dtile == n && m.dq == q)[k]?

/-- A ring record or pad reaches its queue (R268). -/
def Mach.recordRow (s : Mach) (n q : Nat) : Mach :=
  match s.recordFor n q with
  | some m => (s.dropMsg m).recordArrives m
  | none => s

/-- A contribution reaches its queue (R273); a refusal or rejection goes to its sender. -/
def Mach.contribRow (s : Mach) (n q k : Nat) : Mach :=
  match s.contribFor n q k with
  | some m => ((s.dropMsg m).contribArrives m).settle
  | none => s

/-- A write of a register that has a row of its own; ok tells that the register exists (DEDUCED, log entry 53). -/
def Mach.ctlWrite (s : Mach) (ok : Bool) (who : Writer) (off : Nat) (v : Word) : Mach := if ok then s.writeReg who off v 15 else s

/-- A compiled line on its way over a link in a cycle meets others (R235). -/
def Mach.collideRow (s : Mach) (l : Link) (c : Nat) : Mach := if s.clk.aclkOn then s.collide l c else s

/-- A DOE discovery (R370): vendor, protocol and next index of an entry: discovery, CMA/SPDM, secured CMA/SPDM (PRESUMED, log entry 47 gives the layout). -/
def Mach.doeDiscover (s : Mach) (idx : Nat) : Mach :=
  if !s.hq.linkUp then s
  else
    let w : Word := if 3 ≤ idx then 0xFFFF else mkWord [(24, (idx + 1) % 3), (16, idx), (0, 1)]
    { s with hq := { s.hq with doe := w } }

end Sys2Proof.Machine
end

