-- ==== Sys2Proof/Machine/Act.lean ====
section
/-! DEFINITION. How a command's meaning changes the state: everything but the queue; and the last small operations that a row of its own needs. -/

namespace Sys2Proof.Machine

/-- The next state of a command whose effect on the machine is f: the queue stays. -/
def State.act (s : State) (f : Mach → Mach) : Host.Outcome State Fault Refusal := .next { s with toMach := f s.toMach }

/-- A segment state change ends (R91). -/
def Mach.segDone (s : Mach) (d : Nat) : Mach := if (s.die d).segBusy then s.updDie d fun y => { y with segBusy := false } else s

/-- A scrub ends (R92). -/
def Mach.scrubEnd (s : Mach) (d : Nat) : Mach := if (s.die d).scrubBusy then s.updDie d fun y => { y with scrubBusy := false } else s

/-- An access through the tile debug aperture (R506): a write, or a host's read. -/
def Mach.tdbAccess (s : Mach) (who : Writer) (off : Nat) (wr : Option Word) : Mach :=
  if off < 0x200_0000 ∨ 0x400_0000 ≤ off then s
  else match wr with
    | some v => s.writeReg who off v 15
    | none => s.hostRead off

end Sys2Proof.Machine
end

