-- ==== Sys2Proof/Machine/BootCmds.lean ====
section
/-! DEFINITION. Commands of boot, the mailboxes and the SPDM responder (R435 to R457). -/

namespace Sys2Proof.Machine

/-- BOOT_STAGE_ADVANCE (R451): A boot stage completes and the next begins. -/
def execBootStageAdvance (rep : StageReport) (st : State) : Host.Outcome State Fault Refusal :=
  st.act fun m => m.bootAdvance rep

/-- STAGE_WATCHDOG_EXPIRY (R451): A boot stage watchdog expires, writes a journal entry and resets the hub. -/
def execStageWatchdogExpiry (u : Nat) (st : State) : Host.Outcome State Fault Refusal :=
  st.act fun m => m.stageWatchdog u

/-- VERIFY (R440): The mailbox VERIFY operation checks a signed object. -/
def execVerify (st : State) : Host.Outcome State Fault Refusal :=
  st.act fun m => m.mbVerify

/-- SIGN (R448): The mailbox SIGN operation signs a transcript with the alias key. -/
def execSign (st : State) : Host.Outcome State Fault Refusal :=
  st.act fun m => m.mbSign

/-- MEASURE (R448): The mailbox MEASURE operation returns a measurement. -/
def execMeasure (c : Nat) (st : State) : Host.Outcome State Fault Refusal :=
  st.act fun m => m.mbMeasure c

/-- CERT (R455): The mailbox CERT operation returns part of a certificate. -/
def execCert (c : Nat) (st : State) : Host.Outcome State Fault Refusal :=
  st.act fun m => m.mbCert c

/-- FUSEREAD (R455): The mailbox FUSEREAD operation returns a public fuse row. -/
def execFuseread (c : Nat) (st : State) : Host.Outcome State Fault Refusal :=
  st.act fun m => m.mbFuseRead c

/-- UPDATE (R443): The mailbox UPDATE operation writes a verified image into the slot not booted. -/
def execUpdate (c : Nat) (flashOk : Bool) (st : State) : Host.Outcome State Fault Refusal :=
  st.act fun m => m.mbUpdate c flashOk

/-- SVNADV (R443): The mailbox SVNADV operation raises a component's fuse SVN. -/
def execSvnadv (fuseOk : Bool) (st : State) : Host.Outcome State Fault Refusal :=
  st.act fun m => m.mbSvnAdv fuseOk

/-- LCADV (R449): The mailbox LCADV operation advances the lifecycle with a bound token. -/
def execLcadv (fuseOk : Bool) (st : State) : Host.Outcome State Fault Refusal :=
  st.act fun m => m.mbLcAdv fuseOk

/-- JRNLCLR (R453): The mailbox JRNLCLR operation clears journalled stage failures. -/
def execJrnlclr (c : Nat) (st : State) : Host.Outcome State Fault Refusal :=
  st.act fun m => m.mbJrnlClr c

/-- IDEKEY (R447): The mailbox IDEKEY operation writes IDE keys to the IDE engine. -/
def execIdekey (st : State) : Host.Outcome State Fault Refusal :=
  st.act fun m => m.mbIdeKey

/-- GET_VERSION (R447): The SPDM responder answers GET_VERSION. -/
def execGetVersion (q : SpdmReq) (st : State) : Host.Outcome State Fault Refusal :=
  st.act fun m => m.spdm .getVersion q

/-- GET_CAPABILITIES (R447): The SPDM responder answers GET_CAPABILITIES. -/
def execGetCapabilities (q : SpdmReq) (st : State) : Host.Outcome State Fault Refusal :=
  st.act fun m => m.spdm .getCapabilities q

/-- NEGOTIATE_ALGORITHMS (R447): The SPDM responder answers NEGOTIATE_ALGORITHMS. -/
def execNegotiateAlgorithms (q : SpdmReq) (st : State) : Host.Outcome State Fault Refusal :=
  st.act fun m => m.spdm .negotiateAlgorithms q

/-- GET_DIGESTS (R447): The SPDM responder answers GET_DIGESTS. -/
def execGetDigests (q : SpdmReq) (st : State) : Host.Outcome State Fault Refusal :=
  st.act fun m => m.spdm .getDigests q

/-- GET_CERTIFICATE (R447): The SPDM responder answers GET_CERTIFICATE for slot 0. -/
def execGetCertificate (q : SpdmReq) (st : State) : Host.Outcome State Fault Refusal :=
  st.act fun m => m.spdm .getCertificate q

/-- CHALLENGE (R447): The SPDM responder answers CHALLENGE. -/
def execChallenge (q : SpdmReq) (st : State) : Host.Outcome State Fault Refusal :=
  st.act fun m => m.spdm .challenge q

/-- GET_MEASUREMENTS (R447): The SPDM responder answers GET_MEASUREMENTS. -/
def execGetMeasurements (q : SpdmReq) (st : State) : Host.Outcome State Fault Refusal :=
  st.act fun m => m.spdm .getMeasurements q

/-- KEY_EXCHANGE (R447): The SPDM responder answers KEY_EXCHANGE. -/
def execKeyExchange (q : SpdmReq) (st : State) : Host.Outcome State Fault Refusal :=
  st.act fun m => m.spdm .keyExchange q

/-- FINISH (R447): The SPDM responder answers FINISH. -/
def execFinish (q : SpdmReq) (st : State) : Host.Outcome State Fault Refusal :=
  st.act fun m => m.spdm .finish q

/-- HEARTBEAT (R447): The SPDM responder answers HEARTBEAT. -/
def execHeartbeat (q : SpdmReq) (st : State) : Host.Outcome State Fault Refusal :=
  st.act fun m => m.spdm .heartbeat q

/-- KEY_UPDATE (R447): The SPDM responder answers KEY_UPDATE. -/
def execKeyUpdate (q : SpdmReq) (st : State) : Host.Outcome State Fault Refusal :=
  st.act fun m => m.spdm .keyUpdate q

/-- END_SESSION (R447): The SPDM responder answers END_SESSION. -/
def execEndSession (q : SpdmReq) (st : State) : Host.Outcome State Fault Refusal :=
  st.act fun m => m.spdm .endSession q

/-- VENDOR_DEFINED_REQUEST (R447): The SPDM responder answers VENDOR_DEFINED_REQUEST. -/
def execVendorDefinedRequest (q : SpdmReq) (st : State) : Host.Outcome State Fault Refusal :=
  st.act fun m => m.spdm .vendorDefined q

end Sys2Proof.Machine
end

