-- ==== Sys2Proof/Machine/ChanCmds.lean ====
section
/-! DEFINITION. Commands of channels (R261 to R279, R530). -/

namespace Sys2Proof.Machine

/-- XC_CSEND (R266): xc.csend places a record, with a pad where needed, on a ring channel against credit. -/
def execXcCsend (t : Nat) (w : IWord) (st : State) : Host.Outcome State Fault Refusal :=
  st.act fun m => m.chanRow t 0x20 w

/-- XC_CRECV (R267): xc.crecv copies the head record of a ring to tile memory and frees it. -/
def execXcCrecv (t : Nat) (w : IWord) (st : State) : Host.Outcome State Fault Refusal :=
  st.act fun m => m.chanRow t 0x21 w

/-- XC_QCLOSE (R269): xc.qclose closes a receive queue and discards its unread records. -/
def execXcQclose (t : Nat) (w : IWord) (st : State) : Host.Outcome State Fault Refusal :=
  st.act fun m => m.qcloseRow t w

/-- XC_CADD (R273): xc.cadd sends one contribution to a combining queue. -/
def execXcCadd (t : Nat) (w : IWord) (st : State) : Host.Outcome State Fault Refusal :=
  st.act fun m => m.chanRow t 0x24 w

/-- XC_CREAD (R275): xc.cread reads out a complete combining slot, frees it and increments RSEQ. -/
def execXcCread (t : Nat) (w : IWord) (st : State) : Host.Outcome State Fault Refusal :=
  st.act fun m => m.chanRow t 0x25 w

/-- CHANNEL_RECORD_ARRIVAL (R268): A ring record reaches the receiving tile and is written payload first, header last. -/
def execChannelRecordArrival (t q : Nat) (st : State) : Host.Outcome State Fault Refusal :=
  st.act fun m => m.recordRow t q

/-- CONTRIBUTION_ARRIVAL (R273): A combining contribution reaches the receiver, which adds, refuses or rejects it by sequence. -/
def execContributionArrival (t q k : Nat) (st : State) : Host.Outcome State Fault Refusal :=
  st.act fun m => m.contribRow t q k

/-- CONTRIBUTION_RESEND (R273): A refused contribution is resent 256 ACLK cycles later. -/
def execContributionResend (t ch : Nat) (st : State) : Host.Outcome State Fault Refusal :=
  st.act fun m => m.resend t ch

/-- CONTRIBUTION_ACCEPTANCE (R265): The receiver's acceptance reaches the sender and xc.cadd completes. -/
def execContributionAcceptance (t ch : Nat) (st : State) : Host.Outcome State Fault Refusal :=
  st.act fun m => m.accepted t ch

/-- CREDIT_RETURN (R266): A channel credit return reaches the sender and raises its credit. -/
def execCreditReturn (t ch : Nat) (st : State) : Host.Outcome State Fault Refusal :=
  st.act fun m => m.creditArrives t ch

/-- CLOSE_NOTICE (R269): A close notice reaches the sender and marks the channel closed. -/
def execCloseNotice (t ch : Nat) (st : State) : Host.Outcome State Fault Refusal :=
  st.act fun m => m.closeArrives t ch

/-- DROP_NOTICE (R269): A drop notice reaches the sender, which raises the channel-closed fault. -/
def execDropNotice (t ch : Nat) (st : State) : Host.Outcome State Fault Refusal :=
  st.act fun m => m.dropArrives t ch

end Sys2Proof.Machine
end

