-- ==== Sys2Proof/Machine/EventCmds.lean ====
section
/-! DEFINITION. Commands of the event controller and of plain register accesses (R10, R397 to R408, R494 to R507). -/

namespace Sys2Proof.Machine

/-- EVENT_CLAIM (R401): The EVC claims a pending source and writes a record to one target. -/
def execEventClaim (st : State) : Host.Outcome State Fault Refusal :=
  st.act fun m => m.claim

/-- EVENT_RING_WRITE (R405): The host staging queue writes a record to the event ring once it has room. -/
def execEventRingWrite (st : State) : Host.Outcome State Fault Refusal :=
  st.act fun m => m.eventWrite

/-- EVC_BQACK (R406): A write to EVC_BQACK_c removes the head record of a Brim queue. -/
def execEvcBqack (who : Writer) (c : Nat) (v : Word) (st : State) : Host.Outcome State Fault Refusal :=
  st.act fun m => m.ctlWrite (decide (c < 4)) who (0x2_1180 + 4 * c) v

/-- EVC_SWSET (R399): A write to EVC_SWSET makes one arrival of a software source. -/
def execEvcSwset (who : Writer) (v : Word) (st : State) : Host.Outcome State Fault Refusal :=
  st.act fun m => m.ctlWrite true who 0x2_1200 v

/-- EVC_SOURCE_DISABLE (R407): Writing EN = 0 in EVC_SRCCFG_s clears the source's counter and pending bit. -/
def execEvcSourceDisable (who : Writer) (s : Nat) (v : Word) (st : State) : Host.Outcome State Fault Refusal :=
  st.act fun m => m.ctlWrite (decide (s < 512)) who (srcCfg s) v

/-- TDB_APERTURE_ACCESS (R506): An access through the tile debug aperture reaches the selected tile's tables or memory. -/
def execTdbApertureAccess (who : Writer) (off : Nat) (wr : Option Word) (st : State) : Host.Outcome State Fault Refusal :=
  st.act fun m => m.tdbAccess who off wr

/-- READ_CLEAR_ACCESS (R10): A read of an RC field returns and clears it. -/
def execReadClearAccess (off : Nat) (st : State) : Host.Outcome State Fault Refusal :=
  st.act fun m => m.hostRead off

/-- LATCHING_LO_READ (R500): A read of a _LO word latches the high word into the pair's shadow. -/
def execLatchingLoRead (off : Nat) (st : State) : Host.Outcome State Fault Refusal :=
  st.act fun m => m.hostRead off

/-- REGISTER_WRITE (R10): A write to a register with no row of its own acts by its fields' access codes, ownership and locks. -/
def execRegisterWrite (who : Writer) (off : Nat) (v : Word) (be : Nat) (st : State) : Host.Outcome State Fault Refusal :=
  st.act fun m => m.writeReg who off v be

end Sys2Proof.Machine
end

