-- ==== Sys2Proof/Machine/HbmCmds.lean ====
section
/-! DEFINITION. Commands of the HBM engines, the bulk movers, the object table, the stacks and the segments (R87 to R92, R280 to R299). -/

namespace Sys2Proof.Machine

/-- HB_PTR (R290): hb.ptr loads one tile pointer of the HBM engines. -/
def execHbPtr (t : Nat) (w : IWord) (st : State) : Host.Outcome State Fault Refusal :=
  st.act fun m => m.engRow t 7 0x01 w

/-- HB_DEV (R290): hb.dev loads one device register. -/
def execHbDev (t : Nat) (w : IWord) (st : State) : Host.Outcome State Fault Refusal :=
  st.act fun m => m.engRow t 7 0x02 w

/-- HB_LD (R291): hb.ld starts copying lines from device memory to tile memory. -/
def execHbLd (t : Nat) (w : IWord) (st : State) : Host.Outcome State Fault Refusal :=
  st.act fun m => m.engRow t 7 0x10 w

/-- HB_ST (R291): hb.st starts copying lines from tile memory to device memory. -/
def execHbSt (t : Nat) (w : IWord) (st : State) : Host.Outcome State Fault Refusal :=
  st.act fun m => m.engRow t 7 0x11 w

/-- HB_COMMAND_COMPLETE (R258): An hb. command's last line is in place and it signals its counter. -/
def execHbCommandComplete (t k : Nat) (st : State) : Host.Outcome State Fault Refusal :=
  st.act fun m => ((m.hbComplete t k).pumpHb t).pumpHx t

/-- HB_COMMAND_ERROR (R292): An hb. command ends with error status, writes the die's hb. error record and raises the hb-error event. -/
def execHbCommandError (t k : Nat) (hostErr : Bool) (st : State) : Host.Outcome State Fault Refusal :=
  st.act fun m => ((m.hbFails t k hostErr).pumpHb t).pumpHx t

/-- HX_MOVE (R295): hx.move requests a bulk mover transfer from a descriptor line. -/
def execHxMove (t : Nat) (w : IWord) (st : State) : Host.Outcome State Fault Refusal :=
  st.act fun m => m.engRow t 8 0x18 w

/-- BULK_TRANSFER_COMPLETE (R258): A bulk mover transfer ends, signalling its counters or recording an error. -/
def execBulkTransferComplete (m : Nat) (hostErr : Bool) (st : State) : Host.Outcome State Fault Refusal :=
  st.act fun s => (s.endXfer m hostErr).pumpAllHx

/-- HBM_OTCMD_PLACE (R285): PLACE maps an object table entry onto stacks or the host window. -/
def execHbmOtcmdPlace (who : Writer) (v : Word) (st : State) : Host.Outcome State Fault Refusal :=
  st.act fun m => m.ctlWrite true who 0xC_8000 v

/-- HBM_OTCMD_MIGRATE (R285): MIGRATE starts copying an object to a new placement. -/
def execHbmOtcmdMigrate (who : Writer) (v : Word) (st : State) : Host.Outcome State Fault Refusal :=
  st.act fun m => m.ctlWrite true who 0xC_8000 v

/-- HBM_OTCMD_FREE (R285): FREE invalidates an object table entry once earlier accesses complete. -/
def execHbmOtcmdFree (who : Writer) (v : Word) (st : State) : Host.Outcome State Fault Refusal :=
  st.act fun m => m.ctlWrite true who 0xC_8000 v

/-- MIGRATION_SWITCH (R286): The last granule is copied and the entry switches to its new placement. -/
def execMigrationSwitch (st : State) : Host.Outcome State Fault Refusal :=
  st.act fun m => (m.migrationSwitch).pumpAllHx

/-- OBJECT_TABLE_COMMAND_DONE (R285): A PLACE or FREE command of the object table finishes, BUSY clears and the object-table event is raised. -/
def execObjectTableCommandDone (st : State) : Host.Outcome State Fault Refusal :=
  st.act fun m => m.otDone

/-- HBM_TEMP_SAMPLE (R296): A stack samples its base die temperature and sets its thermal state. -/
def execHbmTempSample (n temp : Nat) (st : State) : Host.Outcome State Fault Refusal :=
  st.act fun m => m.hbmSample n temp

/-- HBM_CONTROLLER_FAULT (R297): A stack controller that has not recovered within 10 ms is marked FAILED. -/
def execHbmControllerFault (n : Nat) (st : State) : Host.Outcome State Fault Refusal :=
  st.act fun m => m.stackFails n

/-- SEGSTATE_WRITE (R91): A write to CDC_SEGSTATE_t starts a segment state change. -/
def execSegstateWrite (who : Writer) (d t : Nat) (v : Word) (st : State) : Host.Outcome State Fault Refusal :=
  st.act fun m => m.ctlWrite (decide (d < 4 ∧ t < 1792)) who (0x100_4000 + 0x40_0000 * d + 4 * t) v

/-- SEGMENT_STATE_DONE (R91): A segment state change completes and BUSY clears. -/
def execSegmentStateDone (d : Nat) (st : State) : Host.Outcome State Fault Refusal :=
  st.act fun m => m.segDone d

/-- SEGCTL_SCRUB (R92): A write of SCRUB starts zeroing the named segments. -/
def execSegctlScrub (who : Writer) (d : Nat) (v : Word) (st : State) : Host.Outcome State Fault Refusal :=
  st.act fun m => m.ctlWrite (decide (d < 4)) who (0x100_3000 + 0x40_0000 * d) v

/-- SCRUB_DONE (R92): A scrub ends and BUSY clears. -/
def execScrubDone (d : Nat) (st : State) : Host.Outcome State Fault Refusal :=
  st.act fun m => m.scrubEnd d

end Sys2Proof.Machine
end

