-- ==== Sys2Proof/Machine/HostCmds.lean ====
section
/-! DEFINITION. Commands of the host interface: doorbells, rings, host commands, BAR2, the host window and the states of the function (R370 to R396). -/

namespace Sys2Proof.Machine

/-- DOORBELL_CMD_TAIL (R380): A doorbell write gives a command ring a new tail. -/
def execDoorbellCmdTail (p : Nat) (v : Word) (st : State) : Host.Outcome State Fault Refusal :=
  st.act fun m => m.ctlWrite (decide (p < 16)) .host (0x10_0000 + 0x1000 * p) v

/-- DOORBELL_CPL_HEAD (R380): A doorbell write gives a completion ring a new head. -/
def execDoorbellCplHead (p : Nat) (v : Word) (st : State) : Host.Outcome State Fault Refusal :=
  st.act fun m => m.ctlWrite (decide (p < 16)) .host (0x10_0004 + 0x1000 * p) v

/-- DOORBELL_QUERY_TAIL (R380): A doorbell write gives a query ring a new tail. -/
def execDoorbellQueryTail (p : Nat) (v : Word) (st : State) : Host.Outcome State Fault Refusal :=
  st.act fun m => m.ctlWrite (decide (p < 16)) .host (0x10_0008 + 0x1000 * p) v

/-- DOORBELL_QCPL_HEAD (R380): A doorbell write gives a query completion ring a new head. -/
def execDoorbellQcplHead (p : Nat) (v : Word) (st : State) : Host.Outcome State Fault Refusal :=
  st.act fun m => m.ctlWrite (decide (p < 16)) .host (0x10_000C + 0x1000 * p) v

/-- DOORBELL_EVENT_HEAD (R380): A doorbell write gives the event ring a new head. -/
def execDoorbellEventHead (v : Word) (st : State) : Host.Outcome State Fault Refusal :=
  st.act fun m => m.ctlWrite true .host 0x10_0010 v

/-- RING_DISABLE (R381): Writing EN = 0 to a ring disables it and resets its pointers. -/
def execRingDisable (who : Writer) (r : Nat) (v : Word) (st : State) : Host.Outcome State Fault Refusal :=
  st.act fun m => m.ctlWrite (decide (r < 41)) who (ringCfg r) v

/-- DESCRIPTOR_FETCH (R384): The E9 fetches a command descriptor, or stops the ring on a failed fetch. -/
def execDescriptorFetch (r : Nat) (failed : Bool) (st : State) : Host.Outcome State Fault Refusal :=
  st.act fun m => m.fetchDesc r failed

/-- COMPLETION_ENTRY_WRITE (R383): The E9 writes a completion entry once the ring has room, then sends MSI-X. -/
def execCompletionEntryWrite (p : Nat) (st : State) : Host.Outcome State Fault Refusal :=
  st.act fun m => m.writeCompletion p

/-- QUERY_COMPLETION_WRITE (R392): The E9 writes a query completion entry once its ring has room. -/
def execQueryCompletionWrite (r : Nat) (st : State) : Host.Outcome State Fault Refusal :=
  st.act fun m => m.queryWrite r

/-- NOP (R386): The NOP command completes at once. -/
def execNop (r : Nat) (st : State) : Host.Outcome State Fault Refusal :=
  st.act fun m => m.cmdRow r 0x00 fun c x => x.post c 0 0 0

/-- LOAD (R490): LOAD verifies, checks, patches and writes a binary, or refuses it. -/
def execLoad (r : Nat) (img : Image) (st : State) : Host.Outcome State Fault Refusal :=
  st.act fun m => m.loadRow r img

/-- START (R58): START releases every tile of the loaded job. -/
def execStart (r : Nat) (st : State) : Host.Outcome State Fault Refusal :=
  st.act fun m => m.startRow r

/-- STOP (R386): STOP sets the stop request. -/
def execStop (r : Nat) (st : State) : Host.Outcome State Fault Refusal :=
  st.act fun m => m.stopRow r

/-- ABORT (R386): ABORT stops every tile and ends the job. -/
def execAbort (r : Nat) (st : State) : Host.Outcome State Fault Refusal :=
  st.act fun m => m.abortRow r

/-- RESTART (R420): RESTART restores and releases the job, from PAUSED or as a replay trigger. -/
def execRestart (r : Nat) (st : State) : Host.Outcome State Fault Refusal :=
  st.act fun m => m.restartRow r

/-- UNLOAD (R493): UNLOAD drains, closes, scrubs, resets the tile domain and clears locks. -/
def execUnload (r : Nat) (st : State) : Host.Outcome State Fault Refusal :=
  st.act fun m => m.unloadRow r

/-- COPY (R388): COPY moves lines by bulk mover. -/
def execCopy (r : Nat) (st : State) : Host.Outcome State Fault Refusal :=
  st.act fun m => m.copyRow r

/-- SNAP (R388): SNAP copies the snapshot extents and a trailer. -/
def execSnap (r : Nat) (st : State) : Host.Outcome State Fault Refusal :=
  st.act fun m => m.snapRow r

/-- FITTING (R414): FITTING runs the selected groups of a signed bundle. -/
def execFitting (r : Nat) (res : FitResult) (st : State) : Host.Outcome State Fault Refusal :=
  st.act fun m => m.fittingRow r res

/-- READREG (R388): READREG reads BAR0 registers and writes the values and timestamps. -/
def execReadreg (r : Nat) (st : State) : Host.Outcome State Fault Refusal :=
  st.act fun m => m.readregRow r

/-- POWERCAP (R471): POWERCAP selects the package power cap level. -/
def execPowercap (r : Nat) (st : State) : Host.Outcome State Fault Refusal :=
  st.act fun m => m.powercapRow r

/-- JOB_END (R386): Every tile has halted and the job becomes PAUSED or ENDED, posting the job-end entry. -/
def execJobEnd (st : State) : Host.Outcome State Fault Refusal :=
  st.act fun m => m.jobEnd

/-- POISONED_TLP (R371): A received TLP with EP set or an ECRC error is discarded and reported. -/
def execPoisonedTlp (k : BadTlp) (st : State) : Host.Outcome State Fault Refusal :=
  st.act fun m => m.poisoned k.kind k.ecrc

/-- BAR2_ACCESS (R375): A host access through BAR2 reaches the device address space or is refused. -/
def execBar2Access (a : Bar2Req) (st : State) : Host.Outcome State Fault Refusal :=
  st.act fun m => m.bar2 a

/-- HOST_WINDOW_COMPLETION (R282): A host window request receives its completion, an unsuccessful one or none within the timeout. -/
def execHostWindowCompletion (u : HostWinUser) (ok : Bool) (st : State) : Host.Outcome State Fault Refusal :=
  st.act fun m => m.hostWinDone u ok

/-- FLR (R372): A Function Level Reset aborts and unloads the job and disables every ring. -/
def execFlr (st : State) : Host.Outcome State Fault Refusal :=
  st.act fun m => m.functionReset

/-- D3HOT_ENTRY (R372): A move to D3hot acts as FLR. -/
def execD3hotEntry (st : State) : Host.Outcome State Fault Refusal :=
  st.act fun m => m.d3Entry

/-- PERST (R478): PERST# resets the function and retrains the link. -/
def execPerst (st : State) : Host.Outcome State Fault Refusal :=
  st.act fun m => m.perst

/-- IDE_INTEGRITY_FAILURE (R373): An IDE integrity failure takes the stream out of Secure and stops host requests. -/
def execIdeIntegrityFailure (st : State) : Host.Outcome State Fault Refusal :=
  st.act fun m => m.ideFails

/-- PCIE_LINK_DOWN (R395): The PCI Express link goes down while the job continues. -/
def execPcieLinkDown (st : State) : Host.Outcome State Fault Refusal :=
  st.act fun m => m.linkDown

/-- PCIE_LINK_UP (R395): The PCI Express link returns after going down, and ring traffic resumes. -/
def execPcieLinkUp (st : State) : Host.Outcome State Fault Refusal :=
  st.act fun m => m.linkReturns

/-- D0_TRANSITION (R476): The host moves the function back to D0, which wakes the package from a lower package state. -/
def execD0Transition (st : State) : Host.Outcome State Fault Refusal :=
  st.act fun m => m.d0Entry

/-- DOE_DISCOVERY (R370): The DOE mailbox answers a DOE discovery request with its supported protocols. -/
def execDoeDiscovery (idx : Nat) (st : State) : Host.Outcome State Fault Refusal :=
  st.act fun m => m.doeDiscover idx

end Sys2Proof.Machine
end

