-- ==== Sys2Proof/Machine/HubCmds.lean ====
section
/-! DEFINITION. Commands of the hub that tiles ask for, and of global counters (R253 to R260, R300 to R325, R339 to R341, R399, R475). -/

namespace Sys2Proof.Machine

/-- HX_GSIG (R254): hx.gsig signals a global sync counter at the hub. -/
def execHxGsig (t : Nat) (w : IWord) (st : State) : Host.Outcome State Fault Refusal :=
  st.act fun m => m.engRow t 8 0x10 w

/-- HX_GWAIT (R254): hx.gwait registers a wait on a global sync counter at the hub. -/
def execHxGwait (t : Nat) (w : IWord) (st : State) : Host.Outcome State Fault Refusal :=
  st.act fun m => m.engRow t 8 0x11 w

/-- HX_GDEB (R254): hx.gdeb debits a global sync counter. -/
def execHxGdeb (t : Nat) (w : IWord) (st : State) : Host.Outcome State Fault Refusal :=
  st.act fun m => m.engRow t 8 0x12 w

/-- GSC_GRANT (R253): A global counter grants a waiting agent and the grant travels to the tile. -/
def execGscGrant (n : Nat) (st : State) : Host.Outcome State Fault Refusal :=
  st.act fun m => m.gscGrant n

/-- GSC_CMD_RST (R253): A GSC_CMD write with RST resets a global counter to INIT. -/
def execGscCmdRst (who : Writer) (n : Nat) (v : Word) (st : State) : Host.Outcome State Fault Refusal :=
  st.act fun m => m.ctlWrite (decide (n < 1024)) who (0x4_0008 + 16 * n) v

/-- GSC_CMD_DEB (R254): A GSC_CMD write with DEB debits a global counter as the host or Brim. -/
def execGscCmdDeb (who : Writer) (n : Nat) (v : Word) (st : State) : Host.Outcome State Fault Refusal :=
  st.act fun m => m.ctlWrite (decide (n < 1024)) who (0x4_0008 + 16 * n) v

/-- GSC_CMD_SIG (R254): A GSC_CMD write with SIG signals a global counter as the host or Brim. -/
def execGscCmdSig (who : Writer) (n : Nat) (v : Word) (st : State) : Host.Outcome State Fault Refusal :=
  st.act fun m => m.ctlWrite (decide (n < 1024)) who (0x4_0008 + 16 * n) v

/-- HX_LOSS (R311): hx.loss delivers a loss sample to the loss watch, which updates its statistics or marks a spike. -/
def execHxLoss (t : Nat) (w : IWord) (st : State) : Host.Outcome State Fault Refusal :=
  st.act fun m => m.engRow t 8 0x20 w

/-- HX_GATE (R309): hx.gate waits for quiescence and writes the gate word. -/
def execHxGate (t : Nat) (w : IWord) (st : State) : Host.Outcome State Fault Refusal :=
  st.act fun m => m.engRow t 8 0x21 w

/-- HX_SMARK (R316): hx.smark records a commit, skip or replay outcome. -/
def execHxSmark (t : Nat) (w : IWord) (st : State) : Host.Outcome State Fault Refusal :=
  st.act fun m => m.engRow t 8 0x22 w

/-- HX_QANS (R321): hx.qans copies an answer to the host and writes the query completion. -/
def execHxQans (t : Nat) (w : IWord) (st : State) : Host.Outcome State Fault Refusal :=
  st.act fun m => m.engRow t 8 0x30 w

/-- HX_DIG (R340): hx.dig adds line hashes to the package's running digest. -/
def execHxDig (t : Nat) (w : IWord) (st : State) : Host.Outcome State Fault Refusal :=
  st.act fun m => m.engRow t 8 0x28 w

/-- HX_EVT (R399): hx.evt raises a software event source. -/
def execHxEvt (t : Nat) (w : IWord) (st : State) : Host.Outcome State Fault Refusal :=
  st.act fun m => m.engRow t 8 0x19 w

/-- HX_IDLE (R475): hx.idle records a package slack hint. -/
def execHxIdle (t : Nat) (w : IWord) (st : State) : Host.Outcome State Fault Refusal :=
  st.act fun m => m.engRow t 8 0x38 w

/-- SNAPSHOT_END (R324): A snapshot stops, writes its trailer and raises the snapshot event. -/
def execSnapshotEnd (hostErr : Bool) (st : State) : Host.Outcome State Fault Refusal :=
  st.act fun m => (m.snapEnd hostErr).pumpAllHx

/-- WINDOW_CLOSE (R303): A training-watch window closes, its counts are copied and the window event raised. -/
def execWindowClose (st : State) : Host.Outcome State Fault Refusal :=
  st.act fun m => m.windowClose

/-- QUERY_FETCH (R319): The hub fetches a query descriptor and assigns a QID, or completes it EXPIRED. -/
def execQueryFetch (r : Nat) (st : State) : Host.Outcome State Fault Refusal :=
  st.act fun m => m.queryFetch r

/-- QUERY_DELIVERY (R320): The hub delivers the earliest-deadline head query as a ring record to the intake tile. -/
def execQueryDelivery (readErr : Bool) (st : State) : Host.Outcome State Fault Refusal :=
  st.act fun m => m.queryDeliver readErr

/-- QUERY_EXPIRY (R320): A query still waiting for credit reaches its deadline and completes EXPIRED. -/
def execQueryExpiry (r : Nat) (st : State) : Host.Outcome State Fault Refusal :=
  st.act fun m => m.queryExpire r

end Sys2Proof.Machine
end

