-- ==== Sys2Proof/Machine/IntegrityCmds.lean ====
section
/-! DEFINITION. Commands of the integrity block: replay, comparison, Hatbox, fittings (R409 to R434). -/

namespace Sys2Proof.Machine

/-- REPLAY_TRIGGER (R419): A replay mark or faulted mark tile triggers a replay restart or exhausts the attempts. -/
def execReplayTrigger (st : State) : Host.Outcome State Fault Refusal :=
  st.act fun m => m.replayTrigger

/-- QUIESCE_DONE (R420): In-flight work of the failed attempt has ended and the restore sets the state of R421. -/
def execQuiesceDone (st : State) : Host.Outcome State Fault Refusal :=
  st.act fun m => m.quiesceDone

/-- RESTART_BARRIER_RELEASE (R420): The restart barrier releases and every package releases its tiles at REPC. -/
def execRestartBarrierRelease (st : State) : Host.Outcome State Fault Refusal :=
  st.act fun m => m.barrierRelease

/-- BARRIER_TIMEOUT (R424): The restart barrier is not released within BTMO and the barrier-timeout event is raised. -/
def execBarrierTimeout (st : State) : Host.Outcome State Fault Refusal :=
  st.act fun m => m.barrierTimeout

/-- ITG_ALARMSET (R412): A write to ITG_ALARMSET sets alarm cause SW. -/
def execItgAlarmset (who : Writer) (v : Word) (st : State) : Host.Outcome State Fault Refusal :=
  st.act fun m => m.ctlWrite true who 0x6_0004 v

/-- DIGEST_REPORT (R427): A package's final digest report reaches the comparing root. -/
def execDigestReport (rep : DigRep) (st : State) : Host.Outcome State Fault Refusal :=
  st.act fun m => m.digestReport rep

/-- COMPARISON_VERDICT (R428): The root forms a verdict when all live ranks are complete or 100 ms pass, and sends it. -/
def execComparisonVerdict (st : State) : Host.Outcome State Fault Refusal :=
  st.act fun m => m.formVerdict

/-- VERDICT_RECEIVE (R428): A package records a verdict and, if nonzero, raises the event and may set the stop request. -/
def execVerdictReceive (v : Verdict) (st : State) : Host.Outcome State Fault Refusal :=
  st.act fun m => m.verdictIn v

/-- HATBOX_PUSH (R432): A write to ITG_HBXPUSH pushes a firmware or host Hatbox record. -/
def execHatboxPush (who : Writer) (v : Word) (st : State) : Host.Outcome State Fault Refusal :=
  st.act fun m => m.ctlWrite true who 0x6_01C0 v

/-- HATBOX_FLASH_COPY_END (R433): The Hatbox copy to flash ends and FCOPY is updated. -/
def execHatboxFlashCopyEnd (complete : Bool) (st : State) : Host.Outcome State Fault Refusal :=
  st.act fun m => m.flashCopyEnd complete

/-- BACKGROUND_FITTING (R414): Brim firmware starts a background fitting on tiles outside the job. -/
def execBackgroundFitting (tiles : List Nat) (groups : Nat) (st : State) : Host.Outcome State Fault Refusal :=
  st.act fun m => m.fitBackground tiles groups

/-- BACKGROUND_FITTING_END (R414): A background fitting run finishes, powers its tiles off again, fences failing positions in flash and raises the fitting-run-complete event. -/
def execBackgroundFittingEnd (res : FitResult) (st : State) : Host.Outcome State Fault Refusal :=
  st.act fun m => m.fitBackgroundEnd res

end Sys2Proof.Machine
end

