-- ==== Sys2Proof/Machine/LinkCmds.lean ====
section
/-! DEFINITION. Commands of the interchip links and of the die-to-die links (R20, R348 to R369). -/

namespace Sys2Proof.Machine

/-- DIL_FLIT_RECEIVE (R351): A DIL port receives a flit, checks its CRC and delivers it in order or sends NAK. -/
def execDilFlitReceive (p : Nat) (f : Flit) (st : State) : Host.Outcome State Fault Refusal :=
  st.act fun m => (m.flitIn p f).settle

/-- DIL_RETRAIN (R352): A flit refused 16 times in a row makes the port retrain. -/
def execDilRetrain (p : Nat) (ok : Bool) (failed : Nat) (st : State) : Host.Outcome State Fault Refusal :=
  st.act fun m => m.retrained p ok failed

/-- DIL_LANE_FAILURE (R366): A DIL lane fails and the port spares it, degrades to x4 or goes down. -/
def execDilLaneFailure (p l : Nat) (st : State) : Host.Outcome State Fault Refusal :=
  st.act fun m => m.laneFail p l

/-- DIL_CTL_RETRAIN (R352): A write of RETRAIN retrains the port. -/
def execDilCtlRetrain (who : Writer) (p : Nat) (v : Word) (st : State) : Host.Outcome State Fault Refusal :=
  st.act fun m => m.ctlWrite (decide (p < 12)) who (dilCtl p) v

/-- DIL_PORT_DISABLE (R369): A write of EN = 0 to DIL_CTL_p takes the port down. -/
def execDilPortDisable (who : Writer) (p : Nat) (v : Word) (st : State) : Host.Outcome State Fault Refusal :=
  st.act fun m => m.ctlWrite (decide (p < 12)) who (dilCtl p) v

/-- TIMEBASE_EXCHANGE (R365): Every 1 ms a package exchanges a timebase message with its time parent and adjusts its timebase. -/
def execTimebaseExchange (parentTime : Nat) (rtt : Nat) (hops : Nat) (st : State) : Host.Outcome State Fault Refusal :=
  st.act fun m => m.timeExchange parentTime rtt hops

/-- D2D_LANE_FAILURE (R20): A D2D lane fails and is spared, or its group runs at half width or carries nothing. -/
def execD2dLaneFailure (d k l : Nat) (st : State) : Host.Outcome State Fault Refusal :=
  st.act fun m => m.d2dFail d k l

end Sys2Proof.Machine
end

