-- ==== Sys2Proof/Machine/MxCmds.lean ====
section
/-! DEFINITION. Commands of the matrix engine (R128 to R164). -/

namespace Sys2Proof.Machine

/-- MX_PTR (R136): mx.ptr loads one MXE pointer, resolving its handle and view. -/
def execMxPtr (t : Nat) (w : IWord) (st : State) : Host.Outcome State Fault Refusal :=
  st.act fun m => m.engRow t 1 0x01 w

/-- MX_ZMAP (R137): mx.zmap reads one line into the skip register. -/
def execMxZmap (t : Nat) (w : IWord) (st : State) : Host.Outcome State Fault Refusal :=
  st.act fun m => m.engRow t 1 0x02 w

/-- MX_MMA (R138): mx.mma accumulates the product of two operand panels into an accumulator block. -/
def execMxMma (t : Nat) (w : IWord) (e : Option MulErr) (st : State) : Host.Outcome State Fault Refusal :=
  st.act fun m => m.onTile t fun x => x.engOp t 1 0x10 w e

/-- MX_ZERO (R153): mx.zero clears a block and sets its checksum shadow valid. -/
def execMxZero (t : Nat) (w : IWord) (st : State) : Host.Outcome State Fault Refusal :=
  st.act fun m => m.engRow t 1 0x20 w

/-- MX_LD (R154): mx.ld loads a block from tile memory with conversion. -/
def execMxLd (t : Nat) (w : IWord) (st : State) : Host.Outcome State Fault Refusal :=
  st.act fun m => m.engRow t 1 0x21 w

/-- MX_ST (R155): mx.st stores a block to tile memory with conversion. -/
def execMxSt (t : Nat) (w : IWord) (st : State) : Host.Outcome State Fault Refusal :=
  st.act fun m => m.engRow t 1 0x22 w

/-- MX_ACS (R156): mx.acs accumulate-stores a block into an FP32 buffer. -/
def execMxAcs (t : Nat) (w : IWord) (st : State) : Host.Outcome State Fault Refusal :=
  st.act fun m => m.engRow t 1 0x23 w

/-- MX_PUSH (R157): mx.push copies a block into the finished-tile queue, or raises the queue-overrun fault. -/
def execMxPush (t : Nat) (w : IWord) (st : State) : Host.Outcome State Fault Refusal :=
  st.act fun m => m.engRow t 1 0x24 w

/-- MX_CHK (R160): mx.chk compares a block with its checksum shadow and raises the ABFT fault on a mismatch. -/
def execMxChk (t : Nat) (w : IWord) (st : State) : Host.Outcome State Fault Refusal :=
  st.act fun m => m.engRow t 1 0x25 w

end Sys2Proof.Machine
end

