-- ==== Sys2Proof/Machine/P7Cmds.lean ====
section
/-! DEFINITION. Commands of the gather and transpose engine, the sparse index unit and the sign compressor (R191 to R218). -/

namespace Sys2Proof.Machine

/-- GT_PTR (R194): gt.ptr loads one GTE pointer. -/
def execGtPtr (t : Nat) (w : IWord) (st : State) : Host.Outcome State Fault Refusal :=
  st.act fun m => m.engRow t 3 0x01 w

/-- GT_CPY (R197): gt.cpy copies lines. -/
def execGtCpy (t : Nat) (w : IWord) (st : State) : Host.Outcome State Fault Refusal :=
  st.act fun m => m.engRow t 3 0x10 w

/-- GT_TR (R198): gt.tr transposes a square of elements. -/
def execGtTr (t : Nat) (w : IWord) (st : State) : Host.Outcome State Fault Refusal :=
  st.act fun m => m.engRow t 3 0x11 w

/-- GT_GAT (R199): gt.gat gathers table rows named by an index line. -/
def execGtGat (t : Nat) (w : IWord) (st : State) : Host.Outcome State Fault Refusal :=
  st.act fun m => m.engRow t 3 0x12 w

/-- GT_SCT (R199): gt.sct scatters rows into table rows named by an index line. -/
def execGtSct (t : Nat) (w : IWord) (st : State) : Host.Outcome State Fault Refusal :=
  st.act fun m => m.engRow t 3 0x13 w

/-- GT_RND (R212): gt.rnd writes random lines from an RNG stream. -/
def execGtRnd (t : Nat) (w : IWord) (st : State) : Host.Outcome State Fault Refusal :=
  st.act fun m => m.engRow t 3 0x14 w

/-- SI_PTR (R194): si.ptr loads one SIU pointer. -/
def execSiPtr (t : Nat) (w : IWord) (st : State) : Host.Outcome State Fault Refusal :=
  st.act fun m => m.engRow t 4 0x01 w

/-- SI_ZMAP (R202): si.zmap builds half of a zero-block skip line. -/
def execSiZmap (t : Nat) (w : IWord) (st : State) : Host.Outcome State Fault Refusal :=
  st.act fun m => m.engRow t 4 0x10 w

/-- SI_CMP (R203): si.cmp compacts the nonzero elements of a row with their indices and count. -/
def execSiCmp (t : Nat) (w : IWord) (st : State) : Host.Outcome State Fault Refusal :=
  st.act fun m => m.engRow t 4 0x11 w

/-- SI_ROUTE (R204): si.route builds per-expert token lists and counts. -/
def execSiRoute (t : Nat) (w : IWord) (st : State) : Host.Outcome State Fault Refusal :=
  st.act fun m => m.engRow t 4 0x12 w

/-- SG_PTR (R194): sg.ptr loads one SGC pointer. -/
def execSgPtr (t : Nat) (w : IWord) (st : State) : Host.Outcome State Fault Refusal :=
  st.act fun m => m.engRow t 5 0x01 w

/-- SG_PACK (R207): sg.pack packs gradients to signs with error memory. -/
def execSgPack (t : Nat) (w : IWord) (st : State) : Host.Outcome State Fault Refusal :=
  st.act fun m => m.engRow t 5 0x10 w

/-- SG_VOTE (R208): sg.vote adds signs into INT16 votes. -/
def execSgVote (t : Nat) (w : IWord) (st : State) : Host.Outcome State Fault Refusal :=
  st.act fun m => m.engRow t 5 0x11 w

end Sys2Proof.Machine
end

