-- ==== Sys2Proof/Machine/PowerCmds.lean ====
section
/-! DEFINITION. Commands of clocks, power, thermal control, resets and supplies (R458 to R479, R508 to R522). -/

namespace Sys2Proof.Machine

/-- DIE_TEMP_SAMPLE (R469): A 10 us temperature sample updates C_th. -/
def execDieTempSample (temps : List Nat) (st : State) : Host.Outcome State Fault Refusal :=
  st.act fun m => m.tempSample temps

/-- THERMAL_INTERVAL_END (R469): A 1 ms thermal interval ends and C_th rises, holds or falls. -/
def execThermalIntervalEnd (st : State) : Host.Outcome State Fault Refusal :=
  st.act fun m => m.thermalEnd

/-- POWER_SAMPLE (R472): A 10 us power sample above 1.15 times the cap raises C_cap. -/
def execPowerSample (watts : Nat) (st : State) : Host.Outcome State Fault Refusal :=
  st.act fun m => m.powerSample watts

/-- POWER_INTERVAL_END (R472): A 1 ms power interval ends and C_cap and the HBM limiter move. -/
def execPowerIntervalEnd (st : State) : Host.Outcome State Fault Refusal :=
  st.act fun m => m.powerEnd

/-- ACLK_CHANGE_ARMED (R465): The voltage and idle VCO are ready and a frequency change is armed. -/
def execAclkChangeArmed (st : State) : Host.Outcome State Fault Refusal :=
  st.act fun m => m.armChange

/-- ACLK_SWITCH (R466): At a frequency point every die switches ACLK to the other VCO. -/
def execAclkSwitch (st : State) : Host.Outcome State Fault Refusal :=
  st.act fun m => m.switchAclk

/-- REGULATOR_TIMEOUT (R467): The regulator misses its voltage within 1 ms and the change up is abandoned. -/
def execRegulatorTimeout (st : State) : Host.Outcome State Fault Refusal :=
  st.act fun m => m.regulatorMiss

/-- PACKAGE_STATE_ENTER (R476): The idle package enters the deepest allowed state. -/
def execPackageStateEnter (st : State) : Host.Outcome State Fault Refusal :=
  st.act fun m => m.stateEnter

/-- PACKAGE_WAKE (R476): A wake cause or known event returns the package to A0. -/
def execPackageWake (cause : Nat) (st : State) : Host.Outcome State Fault Refusal :=
  st.act fun m => m.pkgWake cause

/-- CRP_TIMER_EXPIRY (R475): The timebase reaches CRP_TIMER and the timer event is raised. -/
def execCrpTimerExpiry (st : State) : Host.Outcome State Fault Refusal :=
  st.act fun m => m.timerExpiry

/-- XTAL0_LOSS (R463): XTAL0 stops or drifts for 10 us and the hub cold-resets. -/
def execXtal0Loss (st : State) : Host.Outcome State Fault Refusal :=
  st.act fun m => m.reset true 4

/-- COLD_RESET (R478): A cold reset of the hub restores everything and boots from S0. -/
def execColdReset (cause : Nat) (st : State) : Host.Outcome State Fault Refusal :=
  st.act fun m => m.coldReset cause

/-- WARM_RESET (R478): A warm reset of the hub restores all but the AON domain and boots from S1. -/
def execWarmReset (cause : Nat) (st : State) : Host.Outcome State Fault Refusal :=
  st.act fun m => m.warmReset cause

/-- CRP_RSTCMD (R478): A write of 0x5752 to CRP_RSTCMD requests a warm reset. -/
def execCrpRstcmd (who : Writer) (v : Word) (st : State) : Host.Outcome State Fault Refusal :=
  st.act fun m => m.ctlWrite true who 0x3_0054 v

/-- SUPFLT_N_FALL (R517): SUPFLT_N falls; the supply event, a Hatbox record and a flash copy follow. -/
def execSupfltNFall (st : State) : Host.Outcome State Fault Refusal :=
  st.act fun m => m.supfltFall

/-- PGOOD_FALL (R517): PGOOD of an enabled group stays low and the E9 stops and cold-resets. -/
def execPgoodFall (g : Nat) (st : State) : Host.Outcome State Fault Refusal :=
  st.act fun m => m.pgoodFall g

/-- AON_SUPPLY_LOSS (R517): PGOOD[0] or PGOOD[1] falls, and the AON domain is lost together with its SRAM, Hatbox and journal copy. -/
def execAonSupplyLoss (st : State) : Host.Outcome State Fault Refusal :=
  st.act fun m => m.aonLost

/-- L0P_INTERVAL_END (R477): A 1 ms interval of host-link use ends, and the E9 may request a narrower L0p link width. -/
def execL0pIntervalEnd (use : Nat) (st : State) : Host.Outcome State Fault Refusal :=
  st.act fun m => m.l0pEnd use

/-- XTAL1_START (R458): XTAL1 starts running, up to 1 s after power-up, and SOSC becomes trimmed to it, setting CRP_CLKSTAT.XT1. -/
def execXtal1Start (st : State) : Host.Outcome State Fault Refusal :=
  st.act fun m => m.updPw fun p => { p with xt1 := true }

/-- JTAG_INSTRUCTION (R522): A tester shifts an IEEE 1149.1 instruction into the JTAG port, and the instruction acts within the limits that the lifecycle state allows. -/
def execJtagInstruction (k : JtagOp) (st : State) : Host.Outcome State Fault Refusal :=
  st.act fun m => m.jtag (match k with | .idcode => 1 | .boundary => 2 | .other => 3)

/-- DYNAMIC_ADDRESS_ASSIGNMENT (R521): The I3C controller gives the sideband a dynamic address by SETDASA or ENTDAA. -/
def execDynamicAddressAssignment (byStatic : Bool) (static addr : Nat) (st : State) : Host.Outcome State Fault Refusal :=
  st.act fun m => m.dynAddr byStatic static addr

end Sys2Proof.Machine
end

