-- ==== Sys2Proof/Machine/SeqCmds.lean ====
section
/-! DEFINITION. Commands of the tile sequencer: sy. instructions, drain points and the Cuff (R37 to R48, R65 to R69, R531, R532). -/

namespace Sys2Proof.Machine

/-- SY_NOP (R46): The tile sequencer issues sy.nop, which does nothing. -/
def execSyNop (t : Nat) (w : IWord) (st : State) : Host.Outcome State Fault Refusal :=
  st.act fun m => m.syRow t 0x00 w fun x c => x.issued w c

/-- SY_SYNC (R51): The tile sequencer issues sy.sync, which ends the compute phase and waits for arrival conditions. -/
def execSySync (t : Nat) (w : IWord) (st : State) : Host.Outcome State Fault Refusal :=
  st.act fun m => m.syRow t 0x01 w fun x c => x.doSync w c

/-- SY_AT (R48): The tile sequencer issues sy.at, which holds the next instruction until PCC reaches n, or raises a late-issue fault. -/
def execSyAt (t : Nat) (w : IWord) (st : State) : Host.Outcome State Fault Refusal :=
  st.act fun m => m.syRow t 0x02 w fun x c => x.doAt w c

/-- AT_CYCLE_REACHED (R48): PCC reaches the cycle n of a pending sy.at, and the next instruction issues. -/
def execAtCycleReached (t : Nat) (st : State) : Host.Outcome State Fault Refusal :=
  st.act fun m => m.tileRow t fun y x => x.atReached y.clk.aclk

/-- SY_WAIT (R45): The tile sequencer issues sy.wait, a drain point that waits on a local counter. -/
def execSyWait (t : Nat) (w : IWord) (st : State) : Host.Outcome State Fault Refusal :=
  st.act fun m => m.syRow t 0x03 w fun x c => x.doWait w c

/-- SY_SIG (R245): The tile sequencer issues sy.sig, which signals or debits a local counter. -/
def execSySig (t : Nat) (w : IWord) (st : State) : Host.Outcome State Fault Refusal :=
  st.act fun m => m.syRow t 0x04 w fun x c => x.doSig w c

/-- SY_BR (R47): The tile sequencer issues sy.br and branches when its condition holds. -/
def execSyBr (t : Nat) (w : IWord) (st : State) : Host.Outcome State Fault Refusal :=
  st.act fun m => m.syRow t 0x05 w fun x c => x.doBr (m.pads t) w c

/-- SY_LOOP (R39): The tile sequencer issues sy.loop, which runs its body a stated number of times from the loop buffer. -/
def execSyLoop (t : Nat) (w : IWord) (st : State) : Host.Outcome State Fault Refusal :=
  st.act fun m => m.syRow t 0x06 w fun x c => x.doLoop w c

/-- SY_CPOST (R65): The tile sequencer issues sy.cpost, which appends a kernel to the Cuff queue, first running the oldest kernel if the queue is full. -/
def execSyCpost (t : Nat) (w : IWord) (st : State) : Host.Outcome State Fault Refusal :=
  st.act fun m => m.syRow t 0x08 w fun x c => x.doCpost w c

/-- SY_CYIELD (R67): The tile sequencer issues sy.cyield, a Cuff yield point. -/
def execSyCyield (t : Nat) (w : IWord) (st : State) : Host.Outcome State Fault Refusal :=
  st.act fun m => m.syRow t 0x09 w fun x c => x.doCyield w c (m.mainChanReady t) (m.extReady t)

/-- SY_CRET (R532): The tile sequencer issues sy.cret, which ends a Cuff kernel and removes it from the queue. -/
def execSyCret (t : Nat) (w : IWord) (st : State) : Host.Outcome State Fault Refusal :=
  st.act fun m => m.syRow t 0x0A w fun x c => x.doCret w c (m.mainChanReady t) (m.extReady t)

/-- SY_CDRAIN (R69): The tile sequencer issues sy.cdrain, which runs every posted Cuff kernel to completion. -/
def execSyCdrain (t : Nat) (w : IWord) (st : State) : Host.Outcome State Fault Refusal :=
  st.act fun m => m.syRow t 0x0B w fun x c => x.doCdrain w c

/-- SY_SRST (R47): The tile sequencer issues sy.srst, which stores SR to a tile memory word. -/
def execSySrst (t : Nat) (w : IWord) (st : State) : Host.Outcome State Fault Refusal :=
  st.act fun m => m.syRow t 0x0C w fun x c => x.doSrst w c

/-- SY_COMMIT (R98): The tile sequencer issues sy.commit, which flips the step parity, increments STEP, resets RNG positions and saves REPC, SEQ and RSEQ. -/
def execSyCommit (t : Nat) (w : IWord) (st : State) : Host.Outcome State Fault Refusal :=
  st.act fun m => m.syRow t 0x0D w fun x c => x.doCommit w c

/-- SY_HALT (R59): The tile sequencer issues sy.halt, which stops issue and closes the tile's queues. -/
def execSyHalt (t : Nat) (w : IWord) (st : State) : Host.Outcome State Fault Refusal :=
  st.act fun m => m.haltRow t w

/-- DRAIN_POINT_RESUME (R45): Issue resumes after a drain point once the awaited condition holds and every synchronous engine is idle. -/
def execDrainPointResume (t : Nat) (st : State) : Host.Outcome State Fault Refusal :=
  st.act fun m => m.drainRow t

/-- CUFF_SWITCH_IN (R67): A main-program wait or a guarded sync arrival switches the sequencer into the Cuff context. -/
def execCuffSwitchIn (t : Nat) (st : State) : Host.Outcome State Fault Refusal :=
  st.act fun m => m.tileRow t fun y x => if y.mainChanReady t then x else x.switchIn

/-- CUFF_RETURN (R67): At the first yield point after the main program's condition holds, the sequencer saves the kernel's position and returns to the main context. -/
def execCuffReturn (t : Nat) (st : State) : Host.Outcome State Fault Refusal :=
  st.act fun m => m.tileRow t fun _ x => x.cuffBack

/-- CUFF_LINE_FETCH (R531): The sequencer reads the two lines of the head Cuff kernel into the Cuff line buffer in free fetch cycles. -/
def execCuffLineFetch (t : Nat) (st : State) : Host.Outcome State Fault Refusal :=
  st.act fun m => m.tileRow t fun y x => x.cuffFetch (y.pads t) y.clk.aclk

/-- CUFF_OVERRUN (R68): PCC reaches XGUARD before the Cuff kernel has returned with its commands drained, raising the Cuff-overrun fault. -/
def execCuffOverrun (t : Nat) (st : State) : Host.Outcome State Fault Refusal :=
  st.act fun m => m.tileRow t fun _ x => x.overrunFault

end Sys2Proof.Machine
end

