-- ==== Sys2Proof/Machine/SyncCmds.lean ====
section
/-! DEFINITION. Commands of syncs, phases and local counters (R49 to R64, R72, R83, R135, R243 to R252, R361, R362, R529). -/

namespace Sys2Proof.Machine

/-- SYNC_ARRIVAL (R51): A tile arrives at its pending sync, decrementing its CTRMASK counters and entering its payload into the combining network. -/
def execSyncArrival (t : Nat) (msgOk : Bool) (st : State) : Host.Outcome State Fault Refusal :=
  st.act fun m => m.arriveRow t msgOk

/-- SYNC_RELEASE (R52): A sync group releases every member in one cycle, setting PCC, SR and PHASE. -/
def execSyncRelease (g : Nat) (st : State) : Host.Outcome State Fault Refusal :=
  st.act fun m => m.releaseRow g

/-- GUARD_END (R55): PCC reaches XGUARD and the exchange phase begins. -/
def execGuardEnd (t : Nat) (st : State) : Host.Outcome State Fault Refusal :=
  st.act fun m => m.tileRow t fun _ x => x.guardEnd

/-- EXCHANGE_PHASE_END (R55): PCC reaches max(XLEN, XGUARD), the next compute phase begins and armed slots disarm. -/
def execExchangePhaseEnd (t : Nat) (st : State) : Host.Outcome State Fault Refusal :=
  st.act fun m => m.tileRow t fun _ x => x.exchangeEnd

/-- GROUP_WATCHDOG_EXPIRY (R72): A sync group stays pending past its watchdog count, and the die sets WDOGX and raises the watchdog event. -/
def execGroupWatchdogExpiry (d g : Nat) (st : State) : Host.Outcome State Fault Refusal :=
  st.act fun m => m.watchdog d g

/-- LSC_WAIT_GRANT (R247): A waiting waiter is granted on a local sync counter in the cycle update. -/
def execLscWaitGrant (t c : Nat) (st : State) : Host.Outcome State Fault Refusal :=
  st.act fun m => m.onTile t fun x => x.lscGrant t c

/-- ENGINE_COMMAND_COMPLETE (R135): A synchronous engine command reaches its completion cycle and signals SIGCTR if SIGEN is set. -/
def execEngineCommandComplete (t eng : Nat) (st : State) : Host.Outcome State Fault Refusal :=
  st.act fun m => m.onTile t fun x => x.engComplete t eng

/-- YIELDING_ACCESS_GRANT (R83): A waiting yielding request is granted a free port and banks. -/
def execYieldingAccessGrant (t k : Nat) (st : State) : Host.Outcome State Fault Refusal :=
  st.act fun m => m.onTile t fun x => (x.hbGrant t k).pumpHb t

/-- SYNC_TREE_ATTACH_MSG (R361): An attach or decline message for a sync tree arrives on a port. -/
def execSyncTreeAttachMsg (p g : Nat) (attach : Bool) (st : State) : Host.Outcome State Fault Refusal :=
  st.act fun m => (m.attachMsg p g attach).tryStart.barrierAdvance

/-- SYNC_TREE_TIMEOUT (R361): The wait sets have not formed within 1 ms and the start or restart fails. -/
def execSyncTreeTimeout (st : State) : Host.Outcome State Fault Refusal :=
  st.act fun m => m.treeTimeout

/-- SYNC_TREE_ARRIVAL_MSG (R362): A child's arrival message reaches a package and is combined. -/
def execSyncTreeArrivalMsg (p : Nat) (m : TreeMsg) (st : State) : Host.Outcome State Fault Refusal :=
  st.act fun s => s.treeArrival p m

/-- SYNC_TREE_RELEASE_MSG (R362): A release message reaches a package, which forwards it and releases its members. -/
def execSyncTreeReleaseMsg (p : Nat) (m : TreeMsg) (st : State) : Host.Outcome State Fault Refusal :=
  st.act fun s => s.releaseMsg p m

end Sys2Proof.Machine
end

