-- ==== Sys2Proof/Machine/VxCmds.lean ====
section
/-! DEFINITION. Commands of the vector engine (R165 to R190). -/

namespace Sys2Proof.Machine

/-- VX_PTR (R174): vx.ptr loads one VXE stream descriptor. -/
def execVxPtr (t : Nat) (w : IWord) (st : State) : Host.Outcome State Fault Refusal :=
  st.act fun m => m.engRow t 2 0x01 w

/-- VX_RUN (R177): vx.run runs one element program over a matrix, with an optional row reduction. -/
def execVxRun (t : Nat) (w : IWord) (st : State) : Host.Outcome State Fault Refusal :=
  st.act fun m => m.engRow t 2 0x10 w

/-- VX_SMX (R183): vx.smx computes a masked row softmax. -/
def execVxSmx (t : Nat) (w : IWord) (st : State) : Host.Outcome State Fault Refusal :=
  st.act fun m => m.engRow t 2 0x20 w

end Sys2Proof.Machine
end

