-- ==== Sys2Proof/Machine/XcCmds.lean ====
section
/-! DEFINITION. Commands of compiled exchange (R221 to R242). -/

namespace Sys2Proof.Machine

/-- XC_PTR (R224): xc.ptr loads one exchange pointer. -/
def execXcPtr (t : Nat) (w : IWord) (st : State) : Host.Outcome State Fault Refusal :=
  st.act fun m => m.engRow t 6 0x01 w

/-- XC_SEND (R229): xc.send reads and injects n lines to a tile or multicast set, or raises a send-timing or exchange-command fault. -/
def execXcSend (t : Nat) (w : IWord) (st : State) : Host.Outcome State Fault Refusal :=
  st.act fun m => m.engRow t 6 0x10 w

/-- XC_RECV (R226): xc.recv arms a receive slot for n lines from one sender. -/
def execXcRecv (t : Nat) (w : IWord) (st : State) : Host.Outcome State Fault Refusal :=
  st.act fun m => m.engRow t 6 0x11 w

/-- EXCHANGE_LINE_ARRIVAL (R237): A compiled line reaches the receiving XIF, which accepts it or raises the matching fault. -/
def execExchangeLineArrival (t k : Nat) (q : LineQuality) (st : State) : Host.Outcome State Fault Refusal :=
  st.act fun m => m.onTile t fun x => x.lineArrives t k q

/-- ROUTER_LINE_COLLISION (R235): More compiled lines want a link than it carries; the router passes one and drops the others, recording the drop. -/
def execRouterLineCollision (lk : Link) (cyc : Nat) (st : State) : Host.Outcome State Fault Refusal :=
  st.act fun m => m.collideRow lk cyc

end Sys2Proof.Machine
end

