-- ==== Sys2Proof/Machine/Dispatch.lean ====
section
/-! DEFINITION. What each command does: one arm per constructor. -/

namespace Sys2Proof.Machine

/-- The effect of a command on everything but the queue. -/
def exec (i : Instr) (s : State) : Host.Outcome State Fault Refusal :=
  match i with
  | .syNop t w => Sys2Proof.Machine.execSyNop t w s
  | .sySync t w => Sys2Proof.Machine.execSySync t w s
  | .syAt t w => Sys2Proof.Machine.execSyAt t w s
  | .atCycleReached t => Sys2Proof.Machine.execAtCycleReached t s
  | .syWait t w => Sys2Proof.Machine.execSyWait t w s
  | .sySig t w => Sys2Proof.Machine.execSySig t w s
  | .syBr t w => Sys2Proof.Machine.execSyBr t w s
  | .syLoop t w => Sys2Proof.Machine.execSyLoop t w s
  | .syCpost t w => Sys2Proof.Machine.execSyCpost t w s
  | .syCyield t w => Sys2Proof.Machine.execSyCyield t w s
  | .syCret t w => Sys2Proof.Machine.execSyCret t w s
  | .syCdrain t w => Sys2Proof.Machine.execSyCdrain t w s
  | .sySrst t w => Sys2Proof.Machine.execSySrst t w s
  | .syCommit t w => Sys2Proof.Machine.execSyCommit t w s
  | .syHalt t w => Sys2Proof.Machine.execSyHalt t w s
  | .drainPointResume t => Sys2Proof.Machine.execDrainPointResume t s
  | .cuffSwitchIn t => Sys2Proof.Machine.execCuffSwitchIn t s
  | .cuffReturn t => Sys2Proof.Machine.execCuffReturn t s
  | .cuffLineFetch t => Sys2Proof.Machine.execCuffLineFetch t s
  | .cuffOverrun t => Sys2Proof.Machine.execCuffOverrun t s
  | .syncArrival t msgOk => Sys2Proof.Machine.execSyncArrival t msgOk s
  | .syncRelease g => Sys2Proof.Machine.execSyncRelease g s
  | .guardEnd t => Sys2Proof.Machine.execGuardEnd t s
  | .exchangePhaseEnd t => Sys2Proof.Machine.execExchangePhaseEnd t s
  | .groupWatchdogExpiry d g => Sys2Proof.Machine.execGroupWatchdogExpiry d g s
  | .lscWaitGrant t c => Sys2Proof.Machine.execLscWaitGrant t c s
  | .engineCommandComplete t eng => Sys2Proof.Machine.execEngineCommandComplete t eng s
  | .yieldingAccessGrant t k => Sys2Proof.Machine.execYieldingAccessGrant t k s
  | .mxPtr t w => Sys2Proof.Machine.execMxPtr t w s
  | .mxZmap t w => Sys2Proof.Machine.execMxZmap t w s
  | .mxMma t w e => Sys2Proof.Machine.execMxMma t w e s
  | .mxZero t w => Sys2Proof.Machine.execMxZero t w s
  | .mxLd t w => Sys2Proof.Machine.execMxLd t w s
  | .mxSt t w => Sys2Proof.Machine.execMxSt t w s
  | .mxAcs t w => Sys2Proof.Machine.execMxAcs t w s
  | .mxPush t w => Sys2Proof.Machine.execMxPush t w s
  | .mxChk t w => Sys2Proof.Machine.execMxChk t w s
  | .vxPtr t w => Sys2Proof.Machine.execVxPtr t w s
  | .vxRun t w => Sys2Proof.Machine.execVxRun t w s
  | .vxSmx t w => Sys2Proof.Machine.execVxSmx t w s
  | .gtPtr t w => Sys2Proof.Machine.execGtPtr t w s
  | .gtCpy t w => Sys2Proof.Machine.execGtCpy t w s
  | .gtTr t w => Sys2Proof.Machine.execGtTr t w s
  | .gtGat t w => Sys2Proof.Machine.execGtGat t w s
  | .gtSct t w => Sys2Proof.Machine.execGtSct t w s
  | .gtRnd t w => Sys2Proof.Machine.execGtRnd t w s
  | .siPtr t w => Sys2Proof.Machine.execSiPtr t w s
  | .siZmap t w => Sys2Proof.Machine.execSiZmap t w s
  | .siCmp t w => Sys2Proof.Machine.execSiCmp t w s
  | .siRoute t w => Sys2Proof.Machine.execSiRoute t w s
  | .sgPtr t w => Sys2Proof.Machine.execSgPtr t w s
  | .sgPack t w => Sys2Proof.Machine.execSgPack t w s
  | .sgVote t w => Sys2Proof.Machine.execSgVote t w s
  | .xcPtr t w => Sys2Proof.Machine.execXcPtr t w s
  | .xcSend t w => Sys2Proof.Machine.execXcSend t w s
  | .xcRecv t w => Sys2Proof.Machine.execXcRecv t w s
  | .exchangeLineArrival t k q => Sys2Proof.Machine.execExchangeLineArrival t k q s
  | .routerLineCollision lk cyc => Sys2Proof.Machine.execRouterLineCollision lk cyc s
  | .xcCsend t w => Sys2Proof.Machine.execXcCsend t w s
  | .xcCrecv t w => Sys2Proof.Machine.execXcCrecv t w s
  | .xcQclose t w => Sys2Proof.Machine.execXcQclose t w s
  | .xcCadd t w => Sys2Proof.Machine.execXcCadd t w s
  | .xcCread t w => Sys2Proof.Machine.execXcCread t w s
  | .channelRecordArrival t q => Sys2Proof.Machine.execChannelRecordArrival t q s
  | .contributionArrival t q k => Sys2Proof.Machine.execContributionArrival t q k s
  | .contributionResend t ch => Sys2Proof.Machine.execContributionResend t ch s
  | .contributionAcceptance t ch => Sys2Proof.Machine.execContributionAcceptance t ch s
  | .creditReturn t ch => Sys2Proof.Machine.execCreditReturn t ch s
  | .closeNotice t ch => Sys2Proof.Machine.execCloseNotice t ch s
  | .dropNotice t ch => Sys2Proof.Machine.execDropNotice t ch s
  | .hxGsig t w => Sys2Proof.Machine.execHxGsig t w s
  | .hxGwait t w => Sys2Proof.Machine.execHxGwait t w s
  | .hxGdeb t w => Sys2Proof.Machine.execHxGdeb t w s
  | .gscGrant n => Sys2Proof.Machine.execGscGrant n s
  | .gscCmdRst who n v => Sys2Proof.Machine.execGscCmdRst who n v s
  | .gscCmdDeb who n v => Sys2Proof.Machine.execGscCmdDeb who n v s
  | .gscCmdSig who n v => Sys2Proof.Machine.execGscCmdSig who n v s
  | .hbPtr t w => Sys2Proof.Machine.execHbPtr t w s
  | .hbDev t w => Sys2Proof.Machine.execHbDev t w s
  | .hbLd t w => Sys2Proof.Machine.execHbLd t w s
  | .hbSt t w => Sys2Proof.Machine.execHbSt t w s
  | .hbCommandComplete t k => Sys2Proof.Machine.execHbCommandComplete t k s
  | .hbCommandError t k hostErr => Sys2Proof.Machine.execHbCommandError t k hostErr s
  | .hxMove t w => Sys2Proof.Machine.execHxMove t w s
  | .bulkTransferComplete m hostErr => Sys2Proof.Machine.execBulkTransferComplete m hostErr s
  | .hxLoss t w => Sys2Proof.Machine.execHxLoss t w s
  | .hxGate t w => Sys2Proof.Machine.execHxGate t w s
  | .hxSmark t w => Sys2Proof.Machine.execHxSmark t w s
  | .snapshotEnd hostErr => Sys2Proof.Machine.execSnapshotEnd hostErr s
  | .hxQans t w => Sys2Proof.Machine.execHxQans t w s
  | .hxDig t w => Sys2Proof.Machine.execHxDig t w s
  | .hxEvt t w => Sys2Proof.Machine.execHxEvt t w s
  | .hxIdle t w => Sys2Proof.Machine.execHxIdle t w s
  | .windowClose => Sys2Proof.Machine.execWindowClose s
  | .queryFetch r => Sys2Proof.Machine.execQueryFetch r s
  | .queryDelivery readErr => Sys2Proof.Machine.execQueryDelivery readErr s
  | .queryExpiry r => Sys2Proof.Machine.execQueryExpiry r s
  | .hbmOtcmdPlace who v => Sys2Proof.Machine.execHbmOtcmdPlace who v s
  | .hbmOtcmdMigrate who v => Sys2Proof.Machine.execHbmOtcmdMigrate who v s
  | .hbmOtcmdFree who v => Sys2Proof.Machine.execHbmOtcmdFree who v s
  | .migrationSwitch => Sys2Proof.Machine.execMigrationSwitch s
  | .hbmTempSample n temp => Sys2Proof.Machine.execHbmTempSample n temp s
  | .hbmControllerFault n => Sys2Proof.Machine.execHbmControllerFault n s
  | .segstateWrite who d t v => Sys2Proof.Machine.execSegstateWrite who d t v s
  | .segmentStateDone d => Sys2Proof.Machine.execSegmentStateDone d s
  | .segctlScrub who d v => Sys2Proof.Machine.execSegctlScrub who d v s
  | .scrubDone d => Sys2Proof.Machine.execScrubDone d s
  | .doorbellCmdTail p v => Sys2Proof.Machine.execDoorbellCmdTail p v s
  | .doorbellCplHead p v => Sys2Proof.Machine.execDoorbellCplHead p v s
  | .doorbellQueryTail p v => Sys2Proof.Machine.execDoorbellQueryTail p v s
  | .doorbellQcplHead p v => Sys2Proof.Machine.execDoorbellQcplHead p v s
  | .doorbellEventHead v => Sys2Proof.Machine.execDoorbellEventHead v s
  | .ringDisable who r v => Sys2Proof.Machine.execRingDisable who r v s
  | .descriptorFetch r failed => Sys2Proof.Machine.execDescriptorFetch r failed s
  | .completionEntryWrite p => Sys2Proof.Machine.execCompletionEntryWrite p s
  | .queryCompletionWrite r => Sys2Proof.Machine.execQueryCompletionWrite r s
  | .nop r => Sys2Proof.Machine.execNop r s
  | .load r img => Sys2Proof.Machine.execLoad r img s
  | .start r => Sys2Proof.Machine.execStart r s
  | .stop r => Sys2Proof.Machine.execStop r s
  | .abort r => Sys2Proof.Machine.execAbort r s
  | .restart r => Sys2Proof.Machine.execRestart r s
  | .unload r => Sys2Proof.Machine.execUnload r s
  | .copy r => Sys2Proof.Machine.execCopy r s
  | .snap r => Sys2Proof.Machine.execSnap r s
  | .fitting r res => Sys2Proof.Machine.execFitting r res s
  | .readreg r => Sys2Proof.Machine.execReadreg r s
  | .powercap r => Sys2Proof.Machine.execPowercap r s
  | .jobEnd => Sys2Proof.Machine.execJobEnd s
  | .poisonedTlp k => Sys2Proof.Machine.execPoisonedTlp k s
  | .bar2Access a => Sys2Proof.Machine.execBar2Access a s
  | .hostWindowCompletion u ok => Sys2Proof.Machine.execHostWindowCompletion u ok s
  | .flr => Sys2Proof.Machine.execFlr s
  | .d3hotEntry => Sys2Proof.Machine.execD3hotEntry s
  | .perst => Sys2Proof.Machine.execPerst s
  | .ideIntegrityFailure => Sys2Proof.Machine.execIdeIntegrityFailure s
  | .pcieLinkDown => Sys2Proof.Machine.execPcieLinkDown s
  | .eventClaim => Sys2Proof.Machine.execEventClaim s
  | .eventRingWrite => Sys2Proof.Machine.execEventRingWrite s
  | .evcBqack who c v => Sys2Proof.Machine.execEvcBqack who c v s
  | .evcSwset who v => Sys2Proof.Machine.execEvcSwset who v s
  | .evcSourceDisable who src v => Sys2Proof.Machine.execEvcSourceDisable who src v s
  | .replayTrigger => Sys2Proof.Machine.execReplayTrigger s
  | .quiesceDone => Sys2Proof.Machine.execQuiesceDone s
  | .restartBarrierRelease => Sys2Proof.Machine.execRestartBarrierRelease s
  | .barrierTimeout => Sys2Proof.Machine.execBarrierTimeout s
  | .itgAlarmset who v => Sys2Proof.Machine.execItgAlarmset who v s
  | .digestReport rep => Sys2Proof.Machine.execDigestReport rep s
  | .comparisonVerdict => Sys2Proof.Machine.execComparisonVerdict s
  | .verdictReceive v => Sys2Proof.Machine.execVerdictReceive v s
  | .hatboxPush who v => Sys2Proof.Machine.execHatboxPush who v s
  | .hatboxFlashCopyEnd complete => Sys2Proof.Machine.execHatboxFlashCopyEnd complete s
  | .backgroundFitting tiles groups => Sys2Proof.Machine.execBackgroundFitting tiles groups s
  | .dilFlitReceive p f => Sys2Proof.Machine.execDilFlitReceive p f s
  | .dilRetrain p ok failed => Sys2Proof.Machine.execDilRetrain p ok failed s
  | .dilLaneFailure p l => Sys2Proof.Machine.execDilLaneFailure p l s
  | .dilCtlRetrain who p v => Sys2Proof.Machine.execDilCtlRetrain who p v s
  | .dilPortDisable who p v => Sys2Proof.Machine.execDilPortDisable who p v s
  | .syncTreeAttachMsg p g attach => Sys2Proof.Machine.execSyncTreeAttachMsg p g attach s
  | .syncTreeTimeout => Sys2Proof.Machine.execSyncTreeTimeout s
  | .syncTreeArrivalMsg p m => Sys2Proof.Machine.execSyncTreeArrivalMsg p m s
  | .syncTreeReleaseMsg p m => Sys2Proof.Machine.execSyncTreeReleaseMsg p m s
  | .timebaseExchange parentTime rtt hops => Sys2Proof.Machine.execTimebaseExchange parentTime rtt hops s
  | .d2dLaneFailure d k l => Sys2Proof.Machine.execD2dLaneFailure d k l s
  | .dieTempSample temps => Sys2Proof.Machine.execDieTempSample temps s
  | .thermalIntervalEnd => Sys2Proof.Machine.execThermalIntervalEnd s
  | .powerSample watts => Sys2Proof.Machine.execPowerSample watts s
  | .powerIntervalEnd => Sys2Proof.Machine.execPowerIntervalEnd s
  | .aclkChangeArmed => Sys2Proof.Machine.execAclkChangeArmed s
  | .aclkSwitch => Sys2Proof.Machine.execAclkSwitch s
  | .regulatorTimeout => Sys2Proof.Machine.execRegulatorTimeout s
  | .packageStateEnter => Sys2Proof.Machine.execPackageStateEnter s
  | .packageWake cause => Sys2Proof.Machine.execPackageWake cause s
  | .crpTimerExpiry => Sys2Proof.Machine.execCrpTimerExpiry s
  | .xtal0Loss => Sys2Proof.Machine.execXtal0Loss s
  | .coldReset cause => Sys2Proof.Machine.execColdReset cause s
  | .warmReset cause => Sys2Proof.Machine.execWarmReset cause s
  | .crpRstcmd who v => Sys2Proof.Machine.execCrpRstcmd who v s
  | .bootStageAdvance rep => Sys2Proof.Machine.execBootStageAdvance rep s
  | .stageWatchdogExpiry u => Sys2Proof.Machine.execStageWatchdogExpiry u s
  | .supfltNFall => Sys2Proof.Machine.execSupfltNFall s
  | .pgoodFall g => Sys2Proof.Machine.execPgoodFall g s
  | .verify => Sys2Proof.Machine.execVerify s
  | .sign => Sys2Proof.Machine.execSign s
  | .measure c => Sys2Proof.Machine.execMeasure c s
  | .cert c => Sys2Proof.Machine.execCert c s
  | .fuseread c => Sys2Proof.Machine.execFuseread c s
  | .update c flashOk => Sys2Proof.Machine.execUpdate c flashOk s
  | .svnadv fuseOk => Sys2Proof.Machine.execSvnadv fuseOk s
  | .lcadv fuseOk => Sys2Proof.Machine.execLcadv fuseOk s
  | .jrnlclr c => Sys2Proof.Machine.execJrnlclr c s
  | .idekey => Sys2Proof.Machine.execIdekey s
  | .getVersion q => Sys2Proof.Machine.execGetVersion q s
  | .getCapabilities q => Sys2Proof.Machine.execGetCapabilities q s
  | .negotiateAlgorithms q => Sys2Proof.Machine.execNegotiateAlgorithms q s
  | .getDigests q => Sys2Proof.Machine.execGetDigests q s
  | .getCertificate q => Sys2Proof.Machine.execGetCertificate q s
  | .challenge q => Sys2Proof.Machine.execChallenge q s
  | .getMeasurements q => Sys2Proof.Machine.execGetMeasurements q s
  | .keyExchange q => Sys2Proof.Machine.execKeyExchange q s
  | .finish q => Sys2Proof.Machine.execFinish q s
  | .heartbeat q => Sys2Proof.Machine.execHeartbeat q s
  | .keyUpdate q => Sys2Proof.Machine.execKeyUpdate q s
  | .endSession q => Sys2Proof.Machine.execEndSession q s
  | .vendorDefinedRequest q => Sys2Proof.Machine.execVendorDefinedRequest q s
  | .tdbApertureAccess who off wr => Sys2Proof.Machine.execTdbApertureAccess who off wr s
  | .readClearAccess off => Sys2Proof.Machine.execReadClearAccess off s
  | .latchingLoRead off => Sys2Proof.Machine.execLatchingLoRead off s
  | .registerWrite who off v be => Sys2Proof.Machine.execRegisterWrite who off v be s
  | .objectTableCommandDone => Sys2Proof.Machine.execObjectTableCommandDone s
  | .backgroundFittingEnd res => Sys2Proof.Machine.execBackgroundFittingEnd res s
  | .aonSupplyLoss => Sys2Proof.Machine.execAonSupplyLoss s
  | .pcieLinkUp => Sys2Proof.Machine.execPcieLinkUp s
  | .d0Transition => Sys2Proof.Machine.execD0Transition s
  | .l0pIntervalEnd use => Sys2Proof.Machine.execL0pIntervalEnd use s
  | .xtal1Start => Sys2Proof.Machine.execXtal1Start s
  | .jtagInstruction k => Sys2Proof.Machine.execJtagInstruction k s
  | .doeDiscovery idx => Sys2Proof.Machine.execDoeDiscovery idx s
  | .dynamicAddressAssignment byStatic static addr => Sys2Proof.Machine.execDynamicAddressAssignment byStatic static addr s

end Sys2Proof.Machine
end

