-- ==== Sys2Proof/WellFormed.lean ====
section
/-! DEFINITION. Well-formed commands: every operand lies in the range that the manual gives what it names, and an instruction row carries a word of its own
engine and OP (R40). A command that is not well formed is still given a meaning by exec: it does what the manual says, or nothing. -/

namespace Sys2Proof

open Sys2Proof.Machine (fld)

/-- The word's ENG and OP are these (R40). -/
def wordOf (eng op : Nat) (w : IWord) : Bool := fld w 63 60 == eng && fld w 59 52 == op

/-- A writer that exists: Brim has four cores (R406). -/
def Writer.wf : Writer → Bool
  | .host => true
  | .brim c => decide (c < 4)
  | .bonnet => true

/-- A link of a router or of a die's ring (R234). -/
def Link.wf (l : Link) : Bool := decide (l.gx < 256) && decide (l.y < 28) && decide (l.out < 8)

/-- A product of an mx.mma (R138): row and column of a block of 16 by 16. -/
def MulErr.wf (e : MulErr) : Bool := decide (e.row < 16) && decide (e.col < 16)

/-- A tree message names one of 16 groups (R362). -/
def TreeMsg.wf (m : TreeMsg) : Bool := decide (m.g < 16)

/-- A BAR2 access is of whole aligned words (R375). -/
def Bar2Req.wf (a : Bar2Req) : Bool := a.off % 4 == 0

/-- A configuration within the table of R370: FLIT mode always at 64 GT/s. -/
def PciCfg.wf (c : PciCfg) : Bool :=
  decide (1 ≤ c.rate) && decide (c.rate ≤ 6) && [1, 2, 4, 8, 16].contains c.width && (c.flit || c.rate != 6) && decide (c.bar2Lg ≤ 9) && decide (c.mps ≤ 2) &&
    decide (c.mrrs ≤ 5) && decide (c.ctoRange ≤ 4)

/-- A command whose operands are in range. -/
def Instr.wf (i : Instr) : Bool :=
  match i with
  | .syNop t w => decide (t < 7168) && wordOf 0 0x00 w
  | .sySync t w => decide (t < 7168) && wordOf 0 0x01 w
  | .syAt t w => decide (t < 7168) && wordOf 0 0x02 w
  | .atCycleReached t => decide (t < 7168)
  | .syWait t w => decide (t < 7168) && wordOf 0 0x03 w
  | .sySig t w => decide (t < 7168) && wordOf 0 0x04 w
  | .syBr t w => decide (t < 7168) && wordOf 0 0x05 w
  | .syLoop t w => decide (t < 7168) && wordOf 0 0x06 w
  | .syCpost t w => decide (t < 7168) && wordOf 0 0x08 w
  | .syCyield t w => decide (t < 7168) && wordOf 0 0x09 w
  | .syCret t w => decide (t < 7168) && wordOf 0 0x0A w
  | .syCdrain t w => decide (t < 7168) && wordOf 0 0x0B w
  | .sySrst t w => decide (t < 7168) && wordOf 0 0x0C w
  | .syCommit t w => decide (t < 7168) && wordOf 0 0x0D w
  | .syHalt t w => decide (t < 7168) && wordOf 0 0x0E w
  | .drainPointResume t => decide (t < 7168)
  | .cuffSwitchIn t => decide (t < 7168)
  | .cuffReturn t => decide (t < 7168)
  | .cuffLineFetch t => decide (t < 7168)
  | .cuffOverrun t => decide (t < 7168)
  | .syncArrival t _ => decide (t < 7168)
  | .syncRelease g => decide (g < 16)
  | .guardEnd t => decide (t < 7168)
  | .exchangePhaseEnd t => decide (t < 7168)
  | .groupWatchdogExpiry d g => decide (d < 4) && decide (g < 16)
  | .lscWaitGrant t c => decide (t < 7168) && decide (c < 16)
  | .engineCommandComplete t eng => decide (t < 7168) && decide (1 ≤ eng ∧ eng ≤ 6)
  | .yieldingAccessGrant t _ => decide (t < 7168)
  | .mxPtr t w => decide (t < 7168) && wordOf 1 0x01 w
  | .mxZmap t w => decide (t < 7168) && wordOf 1 0x02 w
  | .mxMma t w e => decide (t < 7168) && wordOf 1 0x10 w && (e.map MulErr.wf).getD true
  | .mxZero t w => decide (t < 7168) && wordOf 1 0x20 w
  | .mxLd t w => decide (t < 7168) && wordOf 1 0x21 w
  | .mxSt t w => decide (t < 7168) && wordOf 1 0x22 w
  | .mxAcs t w => decide (t < 7168) && wordOf 1 0x23 w
  | .mxPush t w => decide (t < 7168) && wordOf 1 0x24 w
  | .mxChk t w => decide (t < 7168) && wordOf 1 0x25 w
  | .vxPtr t w => decide (t < 7168) && wordOf 2 0x01 w
  | .vxRun t w => decide (t < 7168) && wordOf 2 0x10 w
  | .vxSmx t w => decide (t < 7168) && wordOf 2 0x20 w
  | .gtPtr t w => decide (t < 7168) && wordOf 3 0x01 w
  | .gtCpy t w => decide (t < 7168) && wordOf 3 0x10 w
  | .gtTr t w => decide (t < 7168) && wordOf 3 0x11 w
  | .gtGat t w => decide (t < 7168) && wordOf 3 0x12 w
  | .gtSct t w => decide (t < 7168) && wordOf 3 0x13 w
  | .gtRnd t w => decide (t < 7168) && wordOf 3 0x14 w
  | .siPtr t w => decide (t < 7168) && wordOf 4 0x01 w
  | .siZmap t w => decide (t < 7168) && wordOf 4 0x10 w
  | .siCmp t w => decide (t < 7168) && wordOf 4 0x11 w
  | .siRoute t w => decide (t < 7168) && wordOf 4 0x12 w
  | .sgPtr t w => decide (t < 7168) && wordOf 5 0x01 w
  | .sgPack t w => decide (t < 7168) && wordOf 5 0x10 w
  | .sgVote t w => decide (t < 7168) && wordOf 5 0x11 w
  | .xcPtr t w => decide (t < 7168) && wordOf 6 0x01 w
  | .xcSend t w => decide (t < 7168) && wordOf 6 0x10 w
  | .xcRecv t w => decide (t < 7168) && wordOf 6 0x11 w
  | .exchangeLineArrival t _ _ => decide (t < 7168)
  | .routerLineCollision lk _ => lk.wf
  | .xcCsend t w => decide (t < 7168) && wordOf 6 0x20 w
  | .xcCrecv t w => decide (t < 7168) && wordOf 6 0x21 w
  | .xcQclose t w => decide (t < 7168) && wordOf 6 0x22 w
  | .xcCadd t w => decide (t < 7168) && wordOf 6 0x24 w
  | .xcCread t w => decide (t < 7168) && wordOf 6 0x25 w
  | .channelRecordArrival t q => decide (t < 7168) && decide (q < 16)
  | .contributionArrival t q _ => decide (t < 7168) && decide (q < 16)
  | .contributionResend t ch => decide (t < 7168) && decide (ch < 32)
  | .contributionAcceptance t ch => decide (t < 7168) && decide (ch < 32)
  | .creditReturn t ch => decide (t < 7168) && decide (ch < 32)
  | .closeNotice t ch => decide (t < 7168) && decide (ch < 32)
  | .dropNotice t ch => decide (t < 7168) && decide (ch < 32)
  | .hxGsig t w => decide (t < 7168) && wordOf 8 0x10 w
  | .hxGwait t w => decide (t < 7168) && wordOf 8 0x11 w
  | .hxGdeb t w => decide (t < 7168) && wordOf 8 0x12 w
  | .gscGrant n => decide (n < 1024)
  | .gscCmdRst who n _ => who.wf && decide (n < 1024)
  | .gscCmdDeb who n _ => who.wf && decide (n < 1024)
  | .gscCmdSig who n _ => who.wf && decide (n < 1024)
  | .hbPtr t w => decide (t < 7168) && wordOf 7 0x01 w
  | .hbDev t w => decide (t < 7168) && wordOf 7 0x02 w
  | .hbLd t w => decide (t < 7168) && wordOf 7 0x10 w
  | .hbSt t w => decide (t < 7168) && wordOf 7 0x11 w
  | .hbCommandComplete t _ => decide (t < 7168)
  | .hbCommandError t _ _ => decide (t < 7168)
  | .hxMove t w => decide (t < 7168) && wordOf 8 0x18 w
  | .bulkTransferComplete m _ => decide (m < 32)
  | .hxLoss t w => decide (t < 7168) && wordOf 8 0x20 w
  | .hxGate t w => decide (t < 7168) && wordOf 8 0x21 w
  | .hxSmark t w => decide (t < 7168) && wordOf 8 0x22 w
  | .snapshotEnd _ => true
  | .hxQans t w => decide (t < 7168) && wordOf 8 0x30 w
  | .hxDig t w => decide (t < 7168) && wordOf 8 0x28 w
  | .hxEvt t w => decide (t < 7168) && wordOf 8 0x19 w
  | .hxIdle t w => decide (t < 7168) && wordOf 8 0x38 w
  | .windowClose => true
  | .queryFetch r => decide (r < 4)
  | .queryDelivery _ => true
  | .queryExpiry r => decide (r < 4)
  | .hbmOtcmdPlace who _ => who.wf
  | .hbmOtcmdMigrate who _ => who.wf
  | .hbmOtcmdFree who _ => who.wf
  | .migrationSwitch => true
  | .hbmTempSample n _ => decide (n < 8)
  | .hbmControllerFault n => decide (n < 8)
  | .segstateWrite who d t _ => who.wf && decide (d < 4) && decide (t < 1792)
  | .segmentStateDone d => decide (d < 4)
  | .segctlScrub who d _ => who.wf && decide (d < 4)
  | .scrubDone d => decide (d < 4)
  | .doorbellCmdTail p _ => decide (p < 16)
  | .doorbellCplHead p _ => decide (p < 16)
  | .doorbellQueryTail p _ => decide (p < 16)
  | .doorbellQcplHead p _ => decide (p < 16)
  | .doorbellEventHead _ => true
  | .ringDisable who r _ => who.wf && decide (r < 41)
  | .descriptorFetch r _ => decide (r < 16)
  | .completionEntryWrite p => decide (p < 16)
  | .queryCompletionWrite r => decide (r < 4)
  | .nop r => decide (r < 16)
  | .load r _ => decide (r < 16)
  | .start r => decide (r < 16)
  | .stop r => decide (r < 16)
  | .abort r => decide (r < 16)
  | .restart r => decide (r < 16)
  | .unload r => decide (r < 16)
  | .copy r => decide (r < 16)
  | .snap r => decide (r < 16)
  | .fitting r _ => decide (r < 16)
  | .readreg r => decide (r < 16)
  | .powercap r => decide (r < 16)
  | .jobEnd => true
  | .poisonedTlp _ => true
  | .bar2Access a => a.wf
  | .hostWindowCompletion _ _ => true
  | .flr => true
  | .d3hotEntry => true
  | .perst => true
  | .ideIntegrityFailure => true
  | .pcieLinkDown => true
  | .eventClaim => true
  | .eventRingWrite => true
  | .evcBqack who c _ => who.wf && decide (c < 4)
  | .evcSwset who _ => who.wf
  | .evcSourceDisable who s _ => who.wf && decide (s < 512)
  | .replayTrigger => true
  | .quiesceDone => true
  | .restartBarrierRelease => true
  | .barrierTimeout => true
  | .itgAlarmset who _ => who.wf
  | .digestReport _ => true
  | .comparisonVerdict => true
  | .verdictReceive _ => true
  | .hatboxPush who _ => who.wf
  | .hatboxFlashCopyEnd _ => true
  | .backgroundFitting _ _ => true
  | .dilFlitReceive p _ => decide (p < 12)
  | .dilRetrain p _ _ => decide (p < 12)
  | .dilLaneFailure p l => decide (p < 12) && decide (l < 9)
  | .dilCtlRetrain who p _ => who.wf && decide (p < 12)
  | .dilPortDisable who p _ => who.wf && decide (p < 12)
  | .syncTreeAttachMsg p g _ => decide (p < 12) && decide (g < 16)
  | .syncTreeTimeout => true
  | .syncTreeArrivalMsg p m => decide (p < 12) && m.wf
  | .syncTreeReleaseMsg p m => decide (p < 12) && m.wf
  | .timebaseExchange _ _ _ => true
  | .d2dLaneFailure d k l => decide (d < 4) && decide (k < 8) && decide (l < 68)
  | .dieTempSample _ => true
  | .thermalIntervalEnd => true
  | .powerSample _ => true
  | .powerIntervalEnd => true
  | .aclkChangeArmed => true
  | .aclkSwitch => true
  | .regulatorTimeout => true
  | .packageStateEnter => true
  | .packageWake _ => true
  | .crpTimerExpiry => true
  | .xtal0Loss => true
  | .coldReset c => [1, 2, 3, 5].contains c
  | .warmReset c => [6, 7, 8, 9].contains c
  | .crpRstcmd who _ => who.wf
  | .bootStageAdvance rep => rep.pci.wf
  | .stageWatchdogExpiry _ => true
  | .supfltNFall => true
  | .pgoodFall g => decide (g < 18)
  | .verify => true
  | .sign => true
  | .measure c => decide (c < 2)
  | .cert c => decide (c < 2)
  | .fuseread c => decide (c < 2)
  | .update c _ => decide (c < 2)
  | .svnadv _ => true
  | .lcadv _ => true
  | .jrnlclr c => decide (c < 2)
  | .idekey => true
  | .getVersion q => decide (q.slot < 8)
  | .getCapabilities q => decide (q.slot < 8)
  | .negotiateAlgorithms q => decide (q.slot < 8)
  | .getDigests q => decide (q.slot < 8)
  | .getCertificate q => decide (q.slot < 8)
  | .challenge q => decide (q.slot < 8)
  | .getMeasurements q => decide (q.slot < 8)
  | .keyExchange q => decide (q.slot < 8)
  | .finish q => decide (q.slot < 8)
  | .heartbeat q => decide (q.slot < 8)
  | .keyUpdate q => decide (q.slot < 8)
  | .endSession q => decide (q.slot < 8)
  | .vendorDefinedRequest q => decide (q.slot < 8)
  | .tdbApertureAccess who _ _ => who.wf
  | .readClearAccess _ => true
  | .latchingLoRead _ => true
  | .registerWrite who _ _ be => who.wf && decide (be < 16)
  | .objectTableCommandDone => true
  | .backgroundFittingEnd _ => true
  | .aonSupplyLoss => true
  | .pcieLinkUp => true
  | .d0Transition => true
  | .l0pIntervalEnd _ => true
  | .xtal1Start => true
  | .jtagInstruction _ => true
  | .doeDiscovery _ => true
  | .dynamicAddressAssignment _ static addr => decide (static < 128) && decide (addr < 128)

end Sys2Proof
end

