-- ==== Sys2Proof/Safety.lean ====
section
/-! DEFINITION. What counts as a safe run: every memory keeps its canonical form, one-time fuses never fall back, and a step always completes. -/

namespace Sys2Proof.Machine

/-- Every memory of the machine is in its canonical form: tile memories, hub SRAM, HBM stacks and host memory. -/
def Mach.memoriesOk (s : Mach) : Bool :=
  (s.tiles.all fun x => x.2.mem.wf) && s.hub.wf && s.hmem.wf && (s.hbms.all fun x => x.2.mem.wf)

/-- What one-time fuses hold only grows (R438, R443, R449): an SVN never falls, the identity kill and blown leaf blocks stay, and a revoked root slot stays
revoked. -/
def Sec.fusesKept (a b : Sec) : Prop :=
  (∀ c, a.svn.get 0 c ≤ b.svn.get 0 c) ∧ (a.kill = true → b.kill = true) ∧ a.f ≤ b.f ∧
  (∀ r, (a.roots.get {} r).revoked = true → (b.roots.get {} r).revoked = true)

/-- The tile as the machine holds it once a command is over: what the package has summed and the alarms that it has taken are gone (R306, R413). -/
def Tile.settled (t : Tile) : Tile :=
  let c := t.start0.cnt
  { t with took := { cvu := c.dCvu, mxe := c.dMxe, vxe := c.dVxe, ecc := c.ecc }, almTbl := false, almChan := false }

/-- What a tile holds in the present, before any act in flight, apart from its sequencer, its queues, its fault record and the bookkeeping of a command: memory, tables,
pointers, engines' registers, counters, slots, channels. -/
def Tile.data (t : Tile) : Tile := { t.now.settled with tsq := {}, tm := {}, sched := [], pipe := [], engs := [], tfr := {}, took := {} }

/-- What a tile holds in the present apart from its local counters and the memory errors that it has counted. -/
def Tile.plain (t : Tile) : Tile := { t.data with lscs := [], cnt := { t.data.cnt with ecc := [] } }

/-- The acts in flight of tile b are those of tile a, and others for each of which P holds. -/
def Tile.plans (a b : Tile) (P : Act → Prop) : Prop := ∃ xs : List Act, (∀ x ∈ xs, P x) ∧ ∀ y, y ∈ b.acts ↔ y ∈ xs ∨ y ∈ a.acts

/-- The acts in flight of tile b are those of tile a, and reads of program lines by the TSQ on port 7 (R38). -/
def Tile.fetched (a b : Tile) : Prop := a.plans b fun x => x.who.eng = 0 ∧ x.who.port = 7 ∧ ∃ l, x.eff = .fetch l

/-- The sequencer apart from its contexts, its loop and what its reads deliver: the kernels posted, the phase, SR, the groups. -/
def Tile.seqRest (t : Tile) : Tsq := { t.tsq with main := {}, cuff := {}, loop := none, lineBuf := [] }

/-- The sequencer's time apart from the next issue and from what a sync's read delivers: PCC's base, P, STEP, REPC, the pending sync. -/
def Tile.timeRest (t : Tile) : TsqTime := { t.tm with nextIssue := 0, pend := t.tm.pend.map fun p => { p with payload := 0 } }

/-- The tile b is the tile a whose sequencer has issued one instruction in cycle c and goes on (R38, R39): PC is the next one's, its issue is a cycle later. -/
def Tile.movedOn (a b : Tile) (c : Nat) : Prop := b.pc = (a.nextPc a.pc).1 % 2 ^ 17 ∧ b.tm.nextIssue = c + 1 ∧ b.seqRest = a.seqRest

/-- The tile b is the tile a whose sequencer has issued one instruction in cycle c, and differs from it in nothing else: its data, its fault record, its time, its
queues are as they were, and of its acts in flight only reads of its program are new. -/
def Tile.onlyIssued (a b : Tile) (c : Nat) : Prop :=
  a.movedOn b c ∧ b.data = a.data ∧ b.now.tfr = a.now.tfr ∧ b.timeRest = a.timeRest ∧ a.fetched b ∧
    ∀ e, (b.eng e).waiting = (a.eng e).waiting ∧ (b.eng e).running = (a.eng e).running

/-- No act of a command is in flight in a tile: what it shows is the present. -/
def Tile.calm (t : Tile) : Prop := t.base = none ∧ t.acts = []

/-- What acts find in a tile as its acts in flight leave it, apart from the bookkeeping of accesses and commands: memory, accumulator file, streams, fault record,
counters. -/
def Tile.shown (t : Tile) : Core := { t.core with sched := [], pipe := [] }

/-- Nothing is scheduled in a tile in cycle y but accesses that yield. -/
def Tile.freeIn (t : Tile) (y : Nat) : Prop := ∀ a ∈ t.sched, a.cyc = y → a.yields = true

/-- A line in flight apart from what its sender reads for it. -/
def XLine.blank (n : Nat) (x : XLine) : XLine := if x.sender = n then { x with data := [] } else x

/-- Nothing outside tile n differs, but what the package sums or raises for a tile, and what the tile's sends in flight have read. -/
def Mach.onlyTile (n : Nat) (s t : Mach) : Prop :=
  (∀ k, k ≠ n → t.tile k = s.tile k) ∧ t.flight.map (XLine.blank n) = s.flight.map (XLine.blank n) ∧
  { t with tiles := [], regs := [], dies := [], itg := {}, trw := {}, evc := {}, flight := [] } =
    { s with tiles := [], regs := [], dies := [], itg := {}, trw := {}, evc := {}, flight := [] }

/-- The machine apart from its tiles and from the lines that they have in flight. -/
def Mach.apart (s : Mach) : Mach := { s with tiles := [], flight := [] }

/-- Nothing outside tile n differs, where the tile had nothing left to report. -/
def Mach.onlyTileQuiet (n : Nat) (s t : Mach) : Prop :=
  Mach.onlyTile n s t ∧ ((s.tile n).settled = s.tile n → t.apart = s.apart)

/-- The word w is the instruction at the PC of tile n, and it issues in cycle c as the instruction of an engine and OP: ACLK runs, the tile exists, nothing
holds it, and it raises no fault at issue. -/
def Mach.issues (s : Mach) (n eng op : Nat) (w : IWord) (c : Nat) : Prop :=
  s.clk.aclkOn = true ∧ s.tileExists n = true ∧ (s.tile n).gate s.part.caps s.clk.aclk eng op w = .go c

/-- The tile as a command leaves its engine's queue at once, having issued in cycle c (R42, R133): and the command with its leave cycle. -/
def Mach.leaving (s : Mach) (n eng : Nat) (w : IWord) (c : Nat) (err : Option MulErr) : Tile × Job :=
  let q := (s.tile n).queued (s.pads n) w c err
  let a := (((s.tile n).issued w c).updEng eng fun e => { e with waiting := e.waiting ++ [q] }).settled
  let l := a.leaveCyc q 0
  ((a.updEng eng fun e => { e with waiting := e.waiting.drop 1, leaves := e.leaves ++ [l] }).settled, { q := q, env := s.env n, l := l })

/-- A command issues in cycle c into an empty queue with room, waits on no counter, and the line that its issue reads raises no fault. -/
def Mach.leavesAtOnce (s : Mach) (n eng op : Nat) (w : IWord) (c : Nat) : Prop :=
  s.issues n eng op w c ∧ ((s.tile n).eng eng).waiting = [] ∧ ((s.tile n).eng eng).roomAt (engDepth eng) c = some c ∧ iWaiten w = false ∧
    ((s.tile n).issued w c).tfr.valid = false

/-- A blocking channel command issues in cycle c and runs at once: the xc. queue and the buffer of R265 have room, it waits on no counter, and no channel command that
waits goes before it. -/
def Mach.chanGoes (s : Mach) (n op : Nat) (w : IWord) (c : Nat) : Prop :=
  s.issues n 6 op w c ∧ iWaiten w = false ∧ (s.tile n).chanOcc c < 4 ∧ (s.tile n).xcRoom c = true ∧ (s.tile n).chanBehind w = false

/-- A message has been sent as the machine s sends it: to a tile of this package, or towards its own. -/
def Mach.sends (s t : Mach) (m : Msg) : Prop := t.msgs = (s.sendMsg m).msgs ∧ t.dil = (s.sendMsg m).dil

/-- Byte b lies outside the place that a pointer names. -/
def Ptr.outside (p : Ptr) (b : Nat) : Prop := b < 4 * p.base ∨ 4 * (p.base + p.len) ≤ b

/-- An act that stores to tile memory, where it stores, stores to the place of one of these pointers. -/
def Act.keepsTo (ps : List Ptr) (a : Act) : Prop :=
  match a.eff with
  | .wr p _ _ _ | .acs p _ _ | .row true p _ _ _ | .recv p _ _ _ => p ∈ ps
  | .stash _ _ | .poke _ _ => False
  | _ => True

/-- An act reads a line of its program, or is an access that writes these lines from word address a on, each of them as a whole (R530). -/
def Act.putsAt (a : Nat) (ls : List (List Word)) (x : Act) : Prop := (∃ l, x.eff = .fetch l) ∨ ∃ i, i < ls.length ∧ x.eff = .poke (a + 8 * i) (ls.getD i [])

/-- An act reads a line of its program, or is an access that writes words among the n from word address a on. -/
def Act.pokesIn (a n : Nat) (x : Act) : Prop := (∃ l, x.eff = .fetch l) ∨ ∃ b ws, x.eff = .poke b ws ∧ a ≤ b ∧ b + ws.length ≤ a + n

/-- An act does not store to byte b: it stores nothing, or stores outside b. -/
def Act.misses (a : Act) (b : Nat) : Prop :=
  match a.eff with
  | .wr p _ _ _ | .acs p _ _ | .row true p _ _ _ | .recv p _ _ _ => p.outside b
  | .stash x _ => b < 4 * x ∨ 4 * x + 4 ≤ b
  | .poke x ws => b < 4 * x ∨ 4 * (x + ws.length) ≤ b
  | _ => True

/-- No signal, debit or grant of cycle c has changed a counter yet; its count has 16 bits. -/
def Lsc.fresh (l : Lsc) (c : Nat) : Prop := l.value ≤ 0xFFFF ∧ l.chg ≠ c ∧ l.cyc ≠ c

/-- The counter that a command names is signalled once (R243, R244), in some cycle by some agent, and no other count changes. -/
def Tile.signalled (a b : Tile) (sig : Option Nat) : Prop :=
  ∀ k, match sig with
    | some i => if k = i then ∃ agent cyc, SMap.get ({} : Lsc) b.lscs k = (SMap.get ({} : Lsc) a.lscs k).signal agent cyc else b.lsc k = a.lsc k
    | none => b.lsc k = a.lsc k

/-- A whole-word write of a register takes its effect: its block defines it, its writer owns it, and no wake stands in its way (R394, R497, R504). -/
def Mach.mayWrite (s : Mach) (who : Writer) (off : Nat) : Prop :=
  off % 4 = 0 ∧ s.wakesFor off = false ∧ (s.regVal off).isSome = true ∧ s.ownerOk who off = true

/-- The completion ring of command ring r (R376). -/
def Mach.cplRing (s : Mach) (r : Nat) : Nat := 16 + fld (s.reg (ringCfg r)) 20 16 % 16

/-- A host command may start (R384 to R386): d is the first descriptor fetched of ring r, whose command before it has posted; its OP is op, in the layout of the
operand table, in a state that accepts it; a job-control command is the next in the hub's order, with no background fitting to yield; the completion ring is enabled. -/
def Mach.starts (s : Mach) (r op : Nat) (d : List Word) (rest : List (List Word)) : Prop :=
  r < 16 ∧ (s.ring r).fetched = d :: rest ∧ (s.ring r).busy = false ∧ fld (dv d 0) 7 0 = op ∧ opDefined op = true ∧ s.badField op d = none ∧
    s.accepts op = true ∧ (isJobControl op = true → s.jobTurn r op = true ∧ s.itg.fitBusy = false) ∧ s.ringEn (s.cplRing r) = true

/-- The completion entry of a command (R389), its PHASE apart. -/
def Mach.cplEntry (s : Mach) (r : Nat) (d : List Word) (rest : List (List Word)) (op status detail info : Nat) : List Word :=
  [mkWord [(16, fld (dv d 0) 31 16), (8, status), (0, op)],
   mkWord [(16, ((s.ring r).head + s.ringSize r - rest.length % s.ringSize r) % s.ringSize r), (0, r)], BitVec.ofNat 32 detail, BitVec.ofNat 32 (info % 2 ^ 31)]

/-- The command at the front of ring r has left it, and the ring is busy with it. -/
def Mach.left (s t : Mach) (r : Nat) (rest : List (List Word)) : Prop := t.ring r = { s.ring r with fetched := rest, busy := true }

/-- The command at the front of ring r has left it and completed: its entry waits to be written. -/
def Mach.answered (s t : Mach) (r : Nat) (d : List Word) (rest : List (List Word)) (op status detail info : Nat) : Prop :=
  s.left t r rest ∧ (t.ring (s.cplRing r)).waiting = (s.ring (s.cplRing r)).waiting ++ [s.cplEntry r d rest op status detail info]

/-- A doorbell of ring r with value v makes a valid move (R380): the ring is enabled and not stopped, and v adds or frees no more entries than it may. -/
def Mach.doorbellOk (s : Mach) (r : Nat) (v : Word) (tail : Bool) : Prop :=
  let old := if tail then (s.ring r).tail else (s.ring r).head
  s.ringEn r = true ∧ (s.ring r).stopped = false ∧ v.toNat < min (2 ^ 16) (s.ringSize r) ∧ old < s.ringSize r ∧
    (v.toNat + s.ringSize r - old) % s.ringSize r ≤ if tail then s.ringSize r - 1 - s.ringOcc r else s.ringOcc r

/-- No transfer to or from the host window is in flight, and no hb. or hx. command waits. -/
def Mach.hostQuiet (s : Mach) : Prop :=
  s.movers = [] ∧ s.trw.snap = none ∧ s.ot.moving = none ∧ ∀ x ∈ s.tiles, x.2.hb = [] ∧ (x.2.eng 7).waiting = [] ∧ (x.2.eng 8).waiting = []

/-- A source that is enabled is pending. -/
def Mach.told (s t : Mach) (src : Nat) : Prop := bit (s.reg (srcCfg src)) 31 = true → (SMap.get ({} : EvSrc) t.evc.srcs src).pend = true

/-- Bonnet has answered the request of mailbox slot c with ERR and the response words given, from word 0 (R455). -/
def Mach.mailed (t : Mach) (c err : Nat) (rsp : List Word) : Prop :=
  (t.mbx c).req = none ∧ (t.mbx c).done = true ∧ (t.mbx c).err = err ∧ ∀ i, i < rsp.length → SMap.get 0 (t.mbx c).rsp i = rsp.getD i 0

/-- A step answers a next state. -/
def State.completes (s : State) : Prop := ∃ t, step s = .next t

end Sys2Proof.Machine
end

