-- ==== Sys2Proof/Certificates/Slice0/Obligations.lean ====
section
/-! DEFINITION. The statements for the provers. -/

open Sys2Proof Sys2Proof.Machine

/-! ## The queue -/

/-- A step takes the command at the front of the queue and runs it with the queue's rest. -/
def Obligations.StepRunsFront : Prop := ∀ (c : Instr) (s : State), step { s with pending := c :: s.pending } = exec c s

/-! ## The tile sequencer -/

/-- sy.nop does nothing (R46); sy.at holds the next instruction until PCC reaches N, whose arrival frees it (R48); sy.wait holds issue on its counter, as a drain
point (R45, R46). Each moves the sequencer on by one instruction and leaves everything else of the tile and of the machine alone, but for the reads of its
program. -/
def Obligations.NopAtAndWaitHoldNothingElse : Prop :=
  ∀ (s : State) (n : Nat) (w : IWord) (c : Nat),
    (s.issues n 0 0x00 w c → ∃ t, exec (.syNop n w) s = .next t ∧ (s.tile n).onlyIssued (t.tile n) c ∧ (t.tile n).cur.hold = .none ∧
      Mach.onlyTileQuiet n s.toMach t.toMach) ∧
    (s.issues n 0 0x02 w c → ∃ t, exec (.syAt n w) s = .next t ∧ (s.tile n).onlyIssued (t.tile n) c ∧ (t.tile n).cur.hold = .untilPcc (fld w 31 0) ∧
      Mach.onlyTileQuiet n s.toMach t.toMach) ∧
    (s.issues n 0 0x03 w c → ∃ t, exec (.syWait n w) s = .next t ∧ (s.tile n).onlyIssued (t.tile n) c ∧ (t.tile n).cur.hold = .wait (fld w 41 38) c ∧
      Mach.onlyTileQuiet n s.toMach t.toMach)

/-- sy.sig signals a local counter, or debits it where DEBIT is set (R244, R245, R247, R249): of a cycle's signals and debits the net sum moves the count. Where it is
the first of its cycle, the count rises by 1 up to 0xFFFF, with OFLAG where it stays there, and the sequencer as its last agent; or falls by 1, and at 0 it stays 0
with UFLAG, which is a tile fault where the counter's USAT is 0. No other counter and nothing else of the tile's data changes. -/
def Obligations.SySigChangesOneCounter : Prop :=
  ∀ (s : State) (n : Nat) (w : IWord) (c : Nat), s.issues n 0 0x04 w c →
    let k := fld w 41 38
    let l : Lsc := (s.tile n).lscs.get {} k
    ∃ t, exec (.sySig n w) s = .next t ∧ (s.tile n).movedOn (t.tile n) c ∧ (s.tile n).fetched (t.tile n) ∧ (t.tile n).timeRest = (s.tile n).timeRest ∧
      Mach.onlyTileQuiet n s.toMach t.toMach ∧
      (let r : Lsc := (t.tile n).lscs.get {} k
       (bit w 37 = false → r = l.signal (2 ^ 13) c ∧
         (l.fresh c → r.value = min 0xFFFF (l.value + 1) ∧ r.oflag = (l.oflag || decide (0xFFFF ≤ l.value)) ∧ r.uflag = l.uflag ∧ r.lvalid = true ∧ r.agent = 2 ^ 13)) ∧
       (bit w 37 = true → r.value = min 0xFFFF r.raw.toNat - r.taken ∧ r.raw = (l.inCyc c).raw - 1 ∧ r.taken = (l.inCyc c).taken ∧
         (l.fresh c → r.value = l.value - 1 ∧ r.uflag = (l.uflag || decide (l.value = 0)) ∧ r.oflag = l.oflag ∧
           (l.value = 0 → (s.tile n).cfg.usat.toNat.testBit k = false → (t.tile n).tfr.valid = true) ∧
           ((l.value ≠ 0 ∨ (s.tile n).cfg.usat.toNat.testBit k = true) → (t.tile n).now.tfr = (s.tile n).now.tfr)))) ∧
      (∀ i, i ≠ k → SMap.get ({} : Lsc) (t.tile n).lscs i = SMap.get {} (s.tile n).lscs i) ∧
      { (t.tile n).data with lscs := [] } = { (s.tile n).data with lscs := [] }

/-- sy.br takes its branch when its condition holds: PC is TARGET, and the target issues after the latency of the die's pad point 0, which the manual gives as 8 cycles;
a branch not taken lets the next instruction issue in the next cycle (R38, R47, R239). sy.loop names its body, which follows it, and its passes (R39). Neither
changes anything else of the tile. -/
def Obligations.BrAndLoopMoveThePc : Prop :=
  ∀ (s : State) (n : Nat) (w : IWord) (c : Nat),
    (s.issues n 0 0x05 w c → ∃ t, exec (.syBr n w) s = .next t ∧ (t.tile n).data = (s.tile n).data ∧ (t.tile n).timeRest = (s.tile n).timeRest ∧
      (t.tile n).seqRest = (s.tile n).seqRest ∧ (s.tile n).fetched (t.tile n) ∧ Mach.onlyTileQuiet n s.toMach t.toMach ∧
      ((s.tile n).brTaken w c = true → (t.tile n).pc = fld w 41 25 ∧ (t.tile n).tm.nextIssue = c + (s.pads n).latency 0 ∧
        ((∀ k, SMap.get (0 : Int) s.part.tpNative k = 0) → (∀ k, SMap.get (0 : Word) s.part.tpPad k = 0) → (t.tile n).tm.nextIssue = c + 8)) ∧
      ((s.tile n).brTaken w c = false → (s.tile n).onlyIssued (t.tile n) c)) ∧
    (s.issues n 0 0x06 w c → ∃ t, exec (.syLoop n w) s = .next t ∧ (s.tile n).onlyIssued (t.tile n) c ∧ Mach.onlyTileQuiet n s.toMach t.toMach ∧
      (t.tile n).tsq.loop = some { first := (s.tile n).pc + 1, last := (s.tile n).pc + 1 + fld w 41 36, left := fld w 35 20, pass1 := true, buf := [] })

/-- sy.commit inverts P, raises STEP by 1, keeps the PC after it as REPC and saves SEQ and RSEQ of every channel and queue; in its cycle every RNG stream returns to
position 0 and NFSTEP clears, for what comes after in the tile; memory, tables, engines' registers and counters stay (R98, R213, R271, R305, R417).
sy.srst stores SR, zero-extended, to the word at ADDR in the cycle after its issue, where the word's segment is on and no other scheduled access falls in that cycle:
every other byte of the tile's memory stays (R47). Where the segment is not on it stores nothing. -/
def Obligations.SyCommitAndSySrstOpenAndStore : Prop :=
  (∀ (s : State) (n : Nat) (w : IWord) (c : Nat), s.issues n 0 0x0D w c →
    ∃ t, exec (.syCommit n w) s = .next t ∧ (s.tile n).movedOn (t.tile n) c ∧ Mach.onlyTileQuiet n s.toMach t.toMach ∧
      (t.tile n).tm.p = (!(s.tile n).tm.p) ∧ (t.tile n).tm.step = (s.tile n).tm.step + 1 ∧ (t.tile n).tm.repc = BitVec.ofNat 17 ((s.tile n).pc + 1) ∧
      (∀ k, (t.tile n).sc k = { (s.tile n).sc k with seqSaved := ((s.tile n).sc k).seq }) ∧
      (∀ q, (t.tile n).rq q = { (s.tile n).rq q with rseqSaved := ((s.tile n).rq q).rseq }) ∧
      { (t.tile n).data with scs := [], rqs := [] } = { (s.tile n).data with scs := [], rqs := [] } ∧
      (∃ a ∈ (t.tile n).acts, a.cyc = c ∧ a.eff = .commit) ∧
      (s.tile n).plans (t.tile n) (fun a => a.cyc = c ∧ (a.eff = .commit ∨ ∃ l, a.eff = .fetch l)) ∧
      ((s.tile n).calm → (∀ k, (t.tile n).rng.get 0 k = 0) ∧ (t.tile n).cnt.nfStep = false ∧ (t.tile n).mem = (s.tile n).mem ∧ (t.tile n).mxe = (s.tile n).mxe)) ∧
  (∀ (s : State) (n : Nat) (w : IWord) (c : Nat), s.issues n 0 0x0C w c →
    let a := fld w 17 0
    ∃ t, exec (.sySrst n w) s = .next t ∧ (s.tile n).movedOn (t.tile n) c ∧ Mach.onlyTileQuiet n s.toMach t.toMach ∧ (t.tile n).data = (s.tile n).data ∧
      (t.tile n).timeRest = (s.tile n).timeRest ∧ (∃ x ∈ (t.tile n).acts, x.cyc = c + 1 ∧ x.eff = .stash a ((s.tile n).tsq.sr.setWidth 32)) ∧
      (s.tile n).plans (t.tile n) (fun x => x.eff = .stash a ((s.tile n).tsq.sr.setWidth 32) ∨ ∃ l, x.eff = .fetch l) ∧
      ((s.tile n).calm → (s.tile n).mem.wf = true →
        ((s.tile n).segOn a = true → (s.tile n).freeIn (c + 1) → (t.tile n).mem.word a = (s.tile n).tsq.sr.setWidth 32) ∧
        ((s.tile n).segOn a = false → (t.tile n).mem = (s.tile n).mem) ∧
        (∀ b, b < 4 * a ∨ 4 * a + 4 ≤ b → (t.tile n).mem.byte b = (s.tile n).mem.byte b)))

/-- sy.cpost appends a kernel, or, where the queue is full, first runs the oldest one in the main context and appends its own when that one returns (R65); sy.cdrain
runs every posted kernel in the main context (R69). A kernel starts at its saved position. The tile's data stays.
sy.cyield does nothing but move on outside the Cuff context, and is a yield point within it: the kernel waits there as at a drain point, and the sequencer is to
return where the main program's condition holds (R67, R532). sy.cret ends its kernel and removes it from the queue: a run for sy.cpost then appends the kernel that
waited, a run for sy.cdrain goes on with the next kernel or ends, a run in the Cuff context ends at once where the main program still waits, and as at a
yield point where its condition holds (R65, R67, R69). -/
def Obligations.KernelsArePostedRunAndReturn : Prop :=
  (∀ (s : State) (n : Nat) (w : IWord) (c : Nat),
    let q := (s.tile n).tsq.queue
    let k : Kernel := { entry := BitVec.ofNat 17 (fld w 41 25), arg := fld w 24 17, pos := BitVec.ofNat 17 (fld w 41 25) }
    (s.issues n 0 0x08 w c → ∃ t, exec (.syCpost n w) s = .next t ∧ (t.tile n).data = (s.tile n).data ∧ (s.tile n).fetched (t.tile n) ∧
      (t.tile n).timeRest = (s.tile n).timeRest ∧ Mach.onlyTileQuiet n s.toMach t.toMach ∧
      (t.tile n).tm.nextIssue = c + 1 ∧
      (q.length < 8 → (t.tile n).tsq.queue = q ++ [k] ∧ (t.tile n).tsq.mode = .off) ∧
      (8 ≤ q.length → (t.tile n).tsq.queue = q ∧ (t.tile n).tsq.mode = .post k ∧ some (t.tile n).tsq.cuff.pc = q.head?.map (fun x => x.pos))) ∧
    (s.issues n 0 0x0B w c → ∃ t, exec (.syCdrain n w) s = .next t ∧ (t.tile n).data = (s.tile n).data ∧ (s.tile n).fetched (t.tile n) ∧
      (t.tile n).timeRest = (s.tile n).timeRest ∧ Mach.onlyTileQuiet n s.toMach t.toMach ∧
      (t.tile n).tm.nextIssue = c + 1 ∧ (t.tile n).tsq.queue = q ∧
      (q = [] → (t.tile n).tsq.mode = .off) ∧
      (q ≠ [] → (t.tile n).tsq.mode = .drainAll ∧ some (t.tile n).tsq.cuff.pc = q.head?.map (fun x => x.pos)))) ∧
  (∀ (s : State) (n : Nat) (w : IWord) (c : Nat),
    let q := (s.tile n).tsq.queue
    (s.issues n 0 0x09 w c → ∃ t, exec (.syCyield n w) s = .next t ∧ Mach.onlyTileQuiet n s.toMach t.toMach ∧ (s.tile n).fetched (t.tile n) ∧
      { (t.tile n).data with lscs := [] } = { (s.tile n).data with lscs := [] } ∧
      ((s.tile n).inCuff = false → (s.tile n).onlyIssued (t.tile n) c) ∧
      ((s.tile n).inCuff = true → (t.tile n).tsq.cuff.hold = .drain c ∧
        (t.tile n).tsq.retPend = ((((s.tile n).issued w c).mainReady (s.mainChanReady n) (s.extReady n) c).isSome || (s.tile n).tsq.retPend))) ∧
    (s.issues n 0 0x0A w c → ∃ t, exec (.syCret n w) s = .next t ∧ Mach.onlyTileQuiet n s.toMach t.toMach ∧ (s.tile n).fetched (t.tile n) ∧
      { (t.tile n).data with lscs := [] } = { (s.tile n).data with lscs := [] } ∧
      (∀ k, (s.tile n).tsq.mode = .post k → (t.tile n).tsq.mode = .off ∧ (t.tile n).tsq.queue = q.drop 1 ++ [k]) ∧
      ((s.tile n).tsq.mode = .drainAll → (t.tile n).tsq.queue = q.drop 1 ∧ ((t.tile n).tsq.mode = .off ↔ q.drop 1 = [])) ∧
      ((s.tile n).tsq.mode = .ctx → (t.tile n).tsq.queue = q.drop 1 ∧
        ((((s.tile n).issued w c).dropKernel.mainReady (s.mainChanReady n) (s.extReady n) c) = none → (t.tile n).tsq.mode = .off) ∧
        ((((s.tile n).issued w c).dropKernel.mainReady (s.mainChanReady n) (s.extReady n) c) ≠ none →
          (t.tile n).tsq.mode = .ctx ∧ (t.tile n).tsq.retPend = true ∧ (t.tile n).tsq.cuff.hold = .drain c))))

/-- The Cuff around the sequencer (R67, R68, R531): at a switch point the head kernel starts at its saved position, with the lines of the Cuff line buffer; a kernel
that yielded and whose commands have drained gives the sequencer back to the main program; the line buffer takes two lines of the head kernel; and a kernel that has
not returned by PCC = XGUARD is a fault of CAUSE 0x08. -/
def Obligations.CuffSwitchesReturnsFetchesAndOverruns : Prop :=
  ∀ (s : State) (n : Nat), s.clk.aclkOn = true → s.tileExists n = true →
    (∀ c, (s.tile n).cuffSwitch = some c → s.mainChanReady n = false → ∃ t, exec (.cuffSwitchIn n) s = .next t ∧ Mach.onlyTileQuiet n s.toMach t.toMach ∧
      (t.tile n).tsq.mode = .ctx ∧ (t.tile n).tm.nextIssue = c ∧ (t.tile n).tsq.main = (s.tile n).tsq.main ∧
      some (t.tile n).tsq.cuff.pc = (s.tile n).tsq.queue.head?.map (fun x => x.pos) ∧ (t.tile n).data = (s.tile n).data) ∧
    ((s.tile n).inCuff = true → (s.tile n).tsq.retPend = true → (s.tile n).allIdle = true → ∃ t, exec (.cuffReturn n) s = .next t ∧
      Mach.onlyTileQuiet n s.toMach t.toMach ∧ (t.tile n).tsq = { (s.tile n).tsq with mode := .off, retPend := false } ∧
      (t.tile n).tm.nextIssue = max (s.tile n).tm.nextIssue (s.tile n).idleFrom ∧ (t.tile n).data = (s.tile n).data) ∧
    ((s.tile n).tsq.queue ≠ [] → (s.tile n).tsq.lineBuf = [] → ∃ t, exec (.cuffLineFetch n) s = .next t ∧ Mach.onlyTileQuiet n s.toMach t.toMach ∧
      (t.tile n).tsq.lineBuf.length = 2 ∧ { (t.tile n).seqRest with lineAt := 0 } = { (s.tile n).seqRest with lineAt := 0 } ∧
      (t.tile n).cur.pc = (s.tile n).cur.pc ∧ (t.tile n).cur.hold = (s.tile n).cur.hold ∧ (s.tile n).fetched (t.tile n) ∧ (t.tile n).data = (s.tile n).data) ∧
    ((s.tile n).overrun = true → ∃ t, exec (.cuffOverrun n) s = .next t ∧ Mach.onlyTileQuiet n s.toMach t.toMach ∧
      (t.tile n).tfr.valid = true ∧ (t.tile n).tfr.cause = 0x08 ∧ (t.tile n).data = (s.tile n).data)

/-- sy.halt stops issue for good: the tile is halted, and every receive queue that was open closes (R59, R269). -/
def Obligations.SyHaltStopsTheTile : Prop :=
  ∀ (s : State) (n : Nat) (w : IWord) (c : Nat), s.issues n 0 0x0E w c →
    ∃ t, exec (.syHalt n w) s = .next t ∧ (t.tile n).tsq.halted = true ∧ (∀ q, q < 16 → ((t.tile n).rq q).opn = false) ∧
      { (t.tile n).data with rqs := [] } = { (s.tile n).data with rqs := [] } ∧ (s.tile n).fetched (t.tile n) ∧ ∀ k, k ≠ n → t.tile k = s.tile k

/-! ## Syncs, phases and local counters -/

/-- sy.sync makes its sync pending, as its descriptor and operands say, with its payload from the word at ADDR where PSRC is set (R49, R50); the tile arrives once R51's conditions hold: it takes one count of each counter of
its mask, enters the group's arrivals (or waits for its next sync), and is in phase arrived. -/
def Obligations.SyncIsIssuedAndArrivedAt : Prop :=
  ∀ (s : State) (n : Nat),
    (∀ (w : IWord) (c : Nat), s.issues n 0 0x01 w c → let d := (s.tile n).tab.syncs.get 0 (fld w 41 36)
      ∃ t, exec (.sySync n w) s = .next t ∧ (s.tile n).movedOn (t.tile n) c ∧ Mach.onlyTileQuiet n s.toMach t.toMach ∧ (t.tile n).data = (s.tile n).data ∧
        (s.tile n).plans (t.tile n) (fun a => (∃ l, a.eff = .fetch l) ∨ (a.cyc = c + 1 ∧ a.eff = .look (fld w 17 0))) ∧
        ∃ p, (t.tile n).tm.pend = some p ∧ p.arrived = false ∧ p.cyc = c ∧ p.pc = (s.tile n).pc ∧ some p.group = (s.tile n).groupOf (bit d 40) ∧
          p.xguard = fld d 39 32 ∧ p.xlen = fld d 31 16 ∧ p.mask = fld d 15 0 ∧ p.comb = fld w 35 34 ∧ (bit w 33 = false → p.payload = fld w 15 0) ∧
          (bit w 33 = true → (s.tile n).calm → (s.tile n).segOn (fld w 17 0) = true → (s.tile n).freeIn (c + 1) → (s.tile n).firstBad (fld w 17 0) 1 = none →
            p.payload = ((s.tile n).mem.word (fld w 17 0)).toNat % 2 ^ 16)) ∧
    (∀ (msgOk : Bool) (p : PendSync), s.clk.aclkOn = true → s.tileExists n = true → (s.tile n).tsq.inJob = true → (s.tile n).tsq.started = true →
      (s.tile n).tsq.halted = false → (s.tile n).faultedBy s.clk.aclk = false → (s.tile n).tm.pend = some p → (s.tile n).arrivalReady = true →
      ∃ t, exec (.syncArrival n msgOk) s = .next t ∧ (∀ k, k ≠ n → t.tile k = s.tile k) ∧ (t.tile n).mem = (s.tile n).mem ∧
        (t.tile n).tm.pend = some { p with arrived := true, cyc := (s.tile n).arrivalCyc p s.clk.aclk } ∧ (t.tile n).tsq.phase = .arrived ∧
        (∀ k, k < 16 → (t.tile n).lsc k = if p.mask.testBit k then (s.tile n).lsc k - 1 else (s.tile n).lsc k) ∧
        (((t.group p.group).arr.any fun a => a.tile == n) || ((t.group p.group).early.any fun a => a.tile == n)) = true)

/-- A group that does not span packages releases once every member of this package has arrived (R52, R259): every member that arrived takes SR (R53) and counts PCC
from the release cycle, its sync is pending no more where it was this group's, and each die with members keeps the result. -/
def Obligations.SyncReleaseStartsEveryMember : Prop :=
  ∀ (s : State) (g : Nat), s.clk.aclkOn = true → g < 16 → s.xchip g = false → s.groupFull g = true →
    let r := combineArrivals (s.group g).arr (s.group g).mark
    let sr := srWord r.1 r.2.1 r.2.2 s.hq.stopReq
    ∃ t, exec (.syncRelease g) s = .next t ∧
      (∀ a ∈ (s.group g).arr, (t.tile a.tile).tsq.sr = BitVec.ofNat 19 sr ∧ (t.tile a.tile).tm.relAt = some (s.relCyc g) ∧
        (t.tile a.tile).mem = (s.tile a.tile).mem ∧ s.relCyc g ≤ (t.tile a.tile).tm.nextIssue ∧
        (∀ p, (s.tile a.tile).tm.pend = some p → p.arrived = true → p.group = g → (t.tile a.tile).tm.pend = none)) ∧
      (∀ n, (∀ a ∈ (s.group g).arr, a.tile ≠ n) → (t.tile n).tsq = (s.tile n).tsq ∧ (t.tile n).tm = (s.tile n).tm ∧ (t.tile n).mem = (s.tile n).mem) ∧
      (∀ d ∈ s.part.dies, s.members d g ≠ 0 → (t.die d).sgrpLast.get 0 g = BitVec.ofNat 32 sr ∧ ((t.die d).wdogx.contains g) = false)

/-- The exchange phase begins at PCC = XGUARD, and ends with every slot disarmed and the tile in its next compute phase (R55, R232).
Issue goes on after sy.at's cycle (R48) and after a drain point whose condition holds, once every synchronous engine is idle (R45). -/
def Obligations.PhasesFollowPccAndHeldIssueResumes : Prop :=
  (∀ (s : State) (n r : Nat), s.clk.aclkOn = true → s.tileExists n = true → (s.tile n).tm.relAt = some r →
    ((s.tile n).tsq.phase = .guard → ∃ t, exec (.guardEnd n) s = .next t ∧ Mach.onlyTileQuiet n s.toMach t.toMach ∧ (t.tile n).data = (s.tile n).data ∧
      (t.tile n).tsq = { (s.tile n).tsq with phase := .exchange } ∧ (t.tile n).tm.nextIssue = max (s.tile n).tm.nextIssue (r + (s.tile n).tm.xguard)) ∧
    ((s.tile n).tsq.phase = .exchange → ∃ t, exec (.exchangePhaseEnd n) s = .next t ∧ Mach.onlyTileQuiet n s.toMach t.toMach ∧
      (t.tile n).tsq = { (s.tile n).tsq with phase := .compute } ∧
      (t.tile n).tm.nextIssue = max (s.tile n).tm.nextIssue (r + max (s.tile n).tm.xlen (s.tile n).tm.xguard) ∧
      (∀ i, i < 8 → (SMap.get ({} : RSlot) (t.tile n).slots i).armed = false) ∧
      { (t.tile n).data with slots := [] } = { (s.tile n).data with slots := [] })) ∧
  (∀ (s : State) (n : Nat), s.clk.aclkOn = true → s.tileExists n = true →
    (∀ k r, (s.tile n).cur.hold = .untilPcc k → (s.tile n).tm.relAt = some r → ∃ t, exec (.atCycleReached n) s = .next t ∧
      Mach.onlyTileQuiet n s.toMach t.toMach ∧ (t.tile n).cur = { (s.tile n).cur with hold := .none } ∧ (t.tile n).data = (s.tile n).data ∧
      (t.tile n).tm.nextIssue = max (max s.clk.aclk (s.tile n).tm.nextIssue) (r + k)) ∧
    (∀ c, (s.tile n).cur.hold = .drain c → (s.tile n).allIdle = true → (s.tile n).stoppedAt s.clk.aclk = false → (s.tile n).tsq.halted = false →
      ((s.tile n).inCuff && (s.tile n).tsq.retPend) = false → ∃ t, exec (.drainPointResume n) s = .next t ∧
      Mach.onlyTileQuiet n s.toMach t.toMach ∧ (t.tile n).cur = { (s.tile n).cur with hold := .none } ∧ (t.tile n).data = (s.tile n).data ∧
      (t.tile n).tm.nextIssue = max (max (max s.clk.aclk (s.tile n).tm.nextIssue) c) (s.tile n).idleFrom))

/-- A local counter grants its waiting contexts: one count each, and each goes on as at a drain point whose condition holds (R45, R246, R247); a completing engine
command is the earliest of its engine, and signals the counter it names (R135, R243, R244).
A group that stays pending past its watchdog count is marked on the die, and the watchdog event arrives where its source is enabled (R72). -/
def Obligations.CountersGrantEnginesCompleteWatchdogsMark : Prop :=
  (∀ (s : State) (n : Nat), s.clk.aclkOn = true → s.tileExists n = true →
    (∀ c, let gs := (s.tile n).granted (s.extReady n) c s.clk.aclk
      gs ≠ [] → (∀ w ∈ gs, w ≤ 1) → (s.tile n).tfr.valid = false → ∃ t, exec (.lscWaitGrant n c) s = .next t ∧ Mach.onlyTileQuiet n s.toMach t.toMach ∧
        (t.tile n).lsc c + gs.length = (s.tile n).lsc c ∧ (∀ k, k ≠ c → (t.tile n).lsc k = (s.tile n).lsc k) ∧
        (∃ d, (t.tile n).cur = { (s.tile n).cur with hold := .drain d }) ∧ (t.tile n).mem = (s.tile n).mem) ∧
    (∀ e, e ∈ [1, 2, 3, 4, 5] → ((s.tile n).eng e).running ≠ [] → ((s.tile n).eng 8).waiting = [] →
      ∃ t, exec (.engineCommandComplete n e) s = .next t ∧ Mach.onlyTileQuiet n s.toMach t.toMach ∧ (t.tile n).mem = (s.tile n).mem ∧
        ∃ r ∈ ((s.tile n).eng e).running, (∀ x ∈ ((s.tile n).eng e).running, r.done ≤ x.done) ∧
          ((t.tile n).eng e).running = ((s.tile n).eng e).running.erase r ∧
          (s.tile n).signalled (t.tile n) r.sig)) ∧
  (∀ (s : State) (d g : Nat), g < 16 → fld (s.sgrpCfg d g) 23 20 ≠ 0 → (s.group g).arrived d ≠ 0 → ((s.die d).wdogx.contains g) = false →
    ∃ t, exec (.groupWatchdogExpiry d g) s = .next t ∧ ((t.die d).wdogx.contains g) = true ∧ t.tiles = s.tiles ∧ t.groups = s.groups ∧ t.regs = s.regs ∧
      (∀ k, k ≠ d → t.die k = s.die k) ∧
      (bit (s.reg (srcCfg (0x084 + 0x40 * d + g))) 31 = true → (SMap.get ({} : EvSrc) t.evc.srcs (0x084 + 0x40 * d + g)).pend = true))

/-! ## Engines -/

/-- A command of a tile's engine that issues into its empty queue without a wait leaves it at once and does what its engine does with it (R42, R133): each of the
commands below changes its tile to the one its own operation makes, with its acts among those in flight played in their cycles, and nothing outside the tile but
what the package sums and raises for it and what the tile's sends in flight have read. -/
def Obligations.EngineCommandsLeaveAndRun : Prop :=
  ∀ (s : State) (n : Nat) (w : IWord) (c : Nat),
    let runs := fun (eng op : Nat) (i : Instr) (err : Option MulErr) (f : Tile → Job → Tile) =>
      s.leavesAtOnce n eng op w c → ∃ t, exec i s = .next t ∧ Mach.onlyTile n s.toMach t.toMach ∧
        t.tile n = ((f (s.leaving n eng w c err).1 (s.leaving n eng w c err).2).replay).settled
    (runs 1 0x01 (.mxPtr n w) none Tile.runMxPtr ∧ runs 1 0x02 (.mxZmap n w) none Tile.runMxZmap ∧ (∀ e, runs 1 0x10 (.mxMma n w e) e Tile.runMxMma) ∧
      runs 1 0x20 (.mxZero n w) none Tile.runMxZero ∧ runs 1 0x21 (.mxLd n w) none Tile.runMxLd ∧ runs 1 0x22 (.mxSt n w) none Tile.runMxSt ∧
      runs 1 0x23 (.mxAcs n w) none Tile.runMxAcs ∧ runs 1 0x24 (.mxPush n w) none Tile.runMxPush ∧ runs 1 0x25 (.mxChk n w) none Tile.runMxChk) ∧
    (runs 2 0x01 (.vxPtr n w) none Tile.runVxPtr ∧ runs 2 0x10 (.vxRun n w) none Tile.runVxRun ∧ runs 2 0x20 (.vxSmx n w) none Tile.runVxSmx) ∧
    (runs 3 0x01 (.gtPtr n w) none Tile.runP7Ptr ∧ runs 3 0x10 (.gtCpy n w) none Tile.runGtCpy ∧ runs 3 0x11 (.gtTr n w) none Tile.runGtTr ∧
      runs 3 0x12 (.gtGat n w) none (fun t j => t.runGtRows j true) ∧ runs 3 0x13 (.gtSct n w) none (fun t j => t.runGtRows j false) ∧
      runs 3 0x14 (.gtRnd n w) none Tile.runGtRnd) ∧
    (runs 4 0x01 (.siPtr n w) none Tile.runP7Ptr ∧ runs 4 0x10 (.siZmap n w) none Tile.runSiZmap ∧ runs 4 0x11 (.siCmp n w) none Tile.runSiCmp ∧
      runs 4 0x12 (.siRoute n w) none Tile.runSiRoute) ∧
    (runs 5 0x01 (.sgPtr n w) none Tile.runP7Ptr ∧ runs 5 0x10 (.sgPack n w) none Tile.runSgPack ∧ runs 5 0x11 (.sgVote n w) none Tile.runSgVote) ∧
    runs 6 0x01 (.xcPtr n w) none Tile.runP7Ptr ∧
    (s.leavesAtOnce n 6 0x11 w c → ∃ t, exec (.xcRecv n w) s = .next t ∧ Mach.onlyTile n s.toMach t.toMach ∧
      t.tile n = ((s.leaving n 6 w c none).1.runXcRecv (s.leaving n 6 w c none).2).settled) ∧
    (let takes := fun (op : Nat) (i : Instr) =>
       s.leavesAtOnce n 7 op w c → s.hbFree (dieOf n) ≠ [] → ∃ t e, exec i s = .next t ∧ Mach.onlyTile n { s.toMach with free := t.free } t.toMach ∧
         e ∈ s.hbFree (dieOf n) ∧ t.tile n = ((s.leaving n 7 w c none).1.runHb (s.leaving n 7 w c none).2 e).settled
     takes 0x10 (.hbLd n w) ∧ takes 0x11 (.hbSt n w))

/-- A command leaves its queue later than it issued, with the data of the tile as they were and its place resolved as the step parity of its issue says (R95, R133).
The .ptr commands load the place that their issue resolved into the pointer or stream that they name, and complete in their leave cycle (R136, R174, R194, R224):
nothing else of the tile's data changes. -/
def Obligations.CommandsLeaveInOrderAndPointersLoad : Prop :=
  (∀ (s : Mach) (n eng op : Nat) (w : IWord) (c : Nat) (err : Option MulErr), s.leavesAtOnce n eng op w c →
    let r := s.leaving n eng w c err
    c < r.2.l ∧ r.1.data = (s.tile n).data ∧ (r.1.eng eng).waiting = [] ∧ (r.1.eng eng).running = ((s.tile n).eng eng).running ∧
      r.2.q.ptr = (s.tile n).resolveFor w (s.tile n).inKernel (s.tile n).arg ∧ r.2.q.w = w ∧ r.2.q.err = err) ∧
  (∀ (t : Tile) (j : Job),
    let done : Running := { done := j.l, sig := iSig j.q.w }
    (iEng j.q.w = 1 → (t.runMxPtr j).ptrs = t.ptrs.put (4 + fld j.q.w 41 40) j.q.ptr ∧ { (t.runMxPtr j).data with ptrs := [] } = { t.data with ptrs := [] } ∧
      ((t.runMxPtr j).eng 1).running = (t.eng 1).running ++ [done]) ∧
    ((t.runP7Ptr j).ptrs = t.ptrs.put (4 * iEng j.q.w + fld j.q.w 41 40) j.q.ptr ∧ { (t.runP7Ptr j).data with ptrs := [] } = { t.data with ptrs := [] } ∧
      ((t.runP7Ptr j).eng (iEng j.q.w)).running = (t.eng (iEng j.q.w)).running ++ [done]) ∧
    (iEng j.q.w = 2 → ((t.runVxPtr j).strm (fld j.q.w 41 40)).ptr = j.q.ptr ∧ ((t.runVxPtr j).strm (fld j.q.w 41 40)).kind = fld j.q.w 39 38 ∧
      (∀ k, k ≠ fld j.q.w 41 40 → (t.runVxPtr j).strm k = t.strm k) ∧ { (t.runVxPtr j).data with vs := [] } = { t.data with vs := [] } ∧
      ((t.runVxPtr j).eng 2).running = (t.eng 2).running ++ [done]))

/-- mx.zero clears its block, or its pair of blocks, and sets the shadow valid with every field 0 (R153, R159); no other accumulator changes. mx.push copies its block
into the queue's tail entry, or raises the queue-overrun fault where four entries stand (R157).
mx.chk compares a block with its shadow and changes no data: an invalid shadow is a command fault, a mismatch the ABFT fault, counted (R160). mx.zmap takes the line
that its place names into the skip register, where nothing stands in the way of the read (R137).
Each is said of a tile in which no other command is in flight: it completes in the cycle that its rule gives, and changes nothing else. -/
def Obligations.MxCommandsClearCopyCompareAndRead : Prop :=
  (∀ (t : Tile) (j : Job), t.calm → iEng j.q.w = 1 →
    let acc := fld j.q.w 41 39
    let n := if bit j.q.w 38 then 512 else 256
    (iOp j.q.w = 0x20 → t.badBlock j acc (bit j.q.w 38) = false → let u := (t.runMxZero j).replay
      (∀ i, i < n → u.mxe.elem (256 * acc + i) = 0) ∧ (∀ k, k < 256 * acc ∨ 256 * acc + n ≤ k → u.mxe.elem k = t.mxe.elem k) ∧
      SMap.get ({} : Shadow) u.mxe.shadow acc = Shadow.zero true ∧ u.data = t.data ∧ { u.shown with mxe := {} } = { t.shown with mxe := {} } ∧
      (u.eng 1).running = (t.eng 1).running ++ [{ done := j.l + 2, sig := iSig j.q.w }]) ∧
    (iOp j.q.w = 0x24 → t.cfg.e7q = true → acc < 4 → let u := (t.runMxPush j).replay
      u.data = t.data ∧ { u.shown with mxe := {}, tfr := {} } = { t.shown with mxe := {}, tfr := {} } ∧
      (u.eng 1).running = (t.eng 1).running ++ [{ done := j.l + 2, sig := iSig j.q.w }] ∧
      (t.mxe.e7cnt < 4 → u.mxe.e7cnt = t.mxe.e7cnt + 1 ∧ u.tfr = t.tfr ∧
        (∀ i, i < 256 → u.mxe.elem (256 * (4 + (t.mxe.e7head + t.mxe.e7cnt) % 4) + i) = t.mxe.elem (256 * acc + i)) ∧
        ∀ k, k < 1024 → u.mxe.elem k = t.mxe.elem k) ∧
      (t.mxe.e7cnt = 4 → u.mxe = t.mxe ∧ u.tfr.valid = true ∧ (t.tfr.valid = false → u.tfr.cause = 0x21 ∧ u.tfr.d0 = acc)))) ∧
  (∀ (t : Tile) (j : Job), t.calm → iEng j.q.w = 1 →
    let acc := fld j.q.w 41 39
    (iOp j.q.w = 0x25 → t.badBlock j acc (bit j.q.w 38) = false → t.tfr.valid = false → let u := (t.runMxChk j).replay
      u.data = t.data ∧ { u.shown with cnt := {}, tfr := {} } = { t.shown with cnt := {}, tfr := {} } ∧
      ((SMap.get ({} : Shadow) t.mxe.shadow acc).valid = false → u.tfr.cause = 0x20 ∧ u.tfr.sub = 6 ∧ u.cnt = t.cnt) ∧
      ((SMap.get ({} : Shadow) t.mxe.shadow acc).valid = true →
        (u.eng 1).running = (t.eng 1).running ++ [{ done := j.l + 4, sig := iSig j.q.w }] ∧
        (t.mxe.abft t.cfg.num j.q.w = none → u.tfr = t.tfr ∧ u.cnt = t.cnt) ∧
        (∀ x, t.mxe.abft t.cfg.num j.q.w = some x → u.tfr.cause = 0x23 ∧ u.tfr.d0 = acc + x.1 * 2 ^ 4 + x.2 * 2 ^ 8 ∧
          u.cnt = { t.cnt with abftn := min 0xFFFF (t.cnt.abftn + 1) }))) ∧
    (iOp j.q.w = 0x02 → 1 ≤ j.q.pads.latency 1 → let u := (t.runMxZmap j).replay
      let p := j.q.ptr
      u.data = t.data ∧ { u.shown with mxe := {}, cnt := {}, tfr := {} } = { t.shown with mxe := {}, cnt := {}, tfr := {} } ∧
      u.mxe = { t.mxe with skip := u.mxe.skip } ∧
      (u.eng 1).running = (t.eng 1).running ++ [{ done := j.l + j.q.pads.latency 1 + 1, sig := iSig j.q.w }] ∧
      (t.freeIn (j.l + 1) → p.refusal t.cfg.seg (8 * p.loff) 8 false = none → t.firstBad (p.base + 8 * p.loff) 8 = none →
        u.mxe.skip = lineBits (t.mem.words (p.base + 8 * p.loff) 8) ∧ u.tfr = t.tfr)))

/-- Of the acts that an engine command joins to those in flight, the ones that store to tile memory store within the places of its destination pointers (R86); mx.ptr,
mx.zmap, mx.mma, mx.zero, mx.ld, mx.push, mx.chk and the pointer commands store nothing.
As its acts in flight are played, a tile's memory keeps its canonical form, and every byte stays that none of them stores to. -/
def Obligations.EngineCommandsKeepToTheirPlaces : Prop :=
  (∀ (t : Tile) (j : Job), let keeps := fun (u : Tile) (ps : List Ptr) => t.plans u (Act.keepsTo ps)
    (keeps (t.runMxPtr j) [] ∧ keeps (t.runMxZmap j) [] ∧ keeps (t.runMxMma j) [] ∧ keeps (t.runMxZero j) [] ∧ keeps (t.runMxLd j) [] ∧
      keeps (t.runMxPush j) [] ∧ keeps (t.runMxChk j) [] ∧ keeps (t.runVxPtr j) [] ∧ keeps (t.runP7Ptr j) []) ∧
    keeps (t.runMxSt j) [t.ptr 1 3] ∧ keeps (t.runMxAcs j) [t.ptr 1 3] ∧ keeps (t.runVxRun j) [(t.strm 2).ptr] ∧ keeps (t.runVxSmx j) [(t.strm 2).ptr] ∧
    keeps (t.runGtCpy j) [t.own j 1] ∧ keeps (t.runGtTr j) [t.own j 1] ∧ keeps (t.runGtRows j true) [t.own j 1] ∧ keeps (t.runGtRows j false) [t.own j 1] ∧
    keeps (t.runGtRnd j) [t.own j 1] ∧ keeps (t.runSiZmap j) [t.own j 1] ∧ keeps (t.runSiCmp j) [t.own j 1, t.own j 2] ∧
    keeps (t.runSiRoute j) [t.own j 1, t.own j 2] ∧ keeps (t.runSgPack j) [t.own j 2, t.own j 3] ∧ keeps (t.runSgVote j) [t.own j 2]) ∧
  (∀ (t : Tile) (b : Nat), t.now.mem.wf = true →
    t.replay.mem.wf = true ∧ ((∀ a ∈ t.acts, a.misses b) → t.replay.mem.byte b = t.now.mem.byte b))

/-- gt.cpy copies its lines (R197): in a tile in which no other command is in flight and nothing else is scheduled after its leave cycle, where every line of both
places may be accessed and the places do not overlap, each destination line holds what the source line held, every other byte stays, and the command completes in
the cycle that R193 and R197 give. Nothing else of the tile changes but its own pointers. -/
def Obligations.GtCpyCopiesItsLines : Prop :=
  ∀ (t : Tile) (j : Job), t.calm → iEng j.q.w = 3 → iOp j.q.w = 0x10 → t.mem.wf = true → (∀ y, j.l < y → t.freeIn y) →
    let n := fld j.q.w 41 30 + 1
    let src := t.own j 0
    let dst := t.own j 1
    let from8 := fun m => src.base + 8 * (src.loff + m)
    let to8 := fun m => dst.base + 8 * (dst.loff + m)
    (∀ m, m < n → src.refusal t.cfg.seg (8 * (src.loff + m)) 8 false = none ∧ dst.refusal t.cfg.seg (8 * (dst.loff + m)) 8 true = none ∧ t.firstBad (from8 m) 8 = none) →
    from8 n ≤ to8 0 ∨ to8 n ≤ from8 0 →
    let u := (t.runGtCpy j).replay
    (∀ m, m < n → u.mem.words (to8 m) 8 = t.mem.words (from8 m) 8) ∧
    (∀ b, b < 4 * to8 0 ∨ 4 * to8 n ≤ b → u.mem.byte b = t.mem.byte b) ∧ u.tfr = t.tfr ∧ u.mxe = t.mxe ∧ u.rng = t.rng ∧
    { u.data with ptrs := [] } = { t.data with ptrs := [] } ∧
    (u.eng 3).running = (t.eng 3).running ++
      [{ done := j.l + 2 + p7Pace j.q.w * (16 * (cdiv n 8 - 1) + 7 + (n - 8 * (cdiv n 8 - 1))), sig := iSig j.q.w }]

/-! ## The hub and the tiles' requests -/

/-- hb.ptr loads one tile pointer of the HBM engines and hb.dev one device register, each in its leave cycle, where it signals (R290). Nothing else of the
tile's data changes.
A granted yielding access of an hb. command moves its next line, and only it (R83, R291): from device memory to tile memory for hb.ld, in the first cycle in which
port 7 and the line's banks are free; from tile memory to a stack, the hub SRAM or the host window for hb.st. The HBM engines then take what waits for them (R289).
An hb. command whose remaining lines all move completes: it leaves the list and signals its counter (R258, R291); one with a line that fails leaves it with error
status and does not signal, and the die's error record and event tell of it (R292). -/
def Obligations.HbCommandsLoadMoveAndEnd : Prop :=
  (∀ (s : State) (n : Nat) (w : IWord) (c : Nat), s.hbFree (dieOf n) ≠ [] →
    (s.leavesAtOnce n 7 0x01 w c → ∃ t, exec (.hbPtr n w) s = .next t ∧ Mach.onlyTile n { s.toMach with free := t.free } t.toMach ∧
      (t.tile n).ptrs = (s.tile n).ptrs.put (28 + fld w 41 40) ((s.tile n).resolveFor w (s.tile n).inKernel (s.tile n).arg) ∧
      { (t.tile n).data with ptrs := [], lscs := [] } = { (s.tile n).data with ptrs := [], lscs := [] } ∧ (s.tile n).signalled (t.tile n) (iSig w)) ∧
    (s.leavesAtOnce n 7 0x02 w c → ∃ t, exec (.hbDev n w) s = .next t ∧ Mach.onlyTile n { s.toMach with free := t.free } t.toMach ∧
      (t.tile n).dev = (s.tile n).dev.put (fld w 41 40) (BitVec.ofNat 64 (fld w 38 0 * 512)) ∧
      { (t.tile n).data with dev := [], lscs := [] } = { (s.tile n).data with dev := [], lscs := [] } ∧ (s.tile n).signalled (t.tile n) (iSig w))) ∧
  (∀ (s : State) (n k : Nat) (h : HbCmd), s.clk.aclkOn = true → s.tileExists n = true → s.hbCmd n k = some h → h.donelines < h.n →
    s.devWaits (h.addr h.donelines) = false →
    let a := h.addr h.donelines
    let w := h.ptr.base + 8 * (h.ptr.loff + h.donelines)
    let moved := (s.tile n).hb.set k { h with donelines := h.donelines + 1 }
    let grants := fun (m : Mach) => exec (.yieldingAccessGrant n k) s = .next { s with toMach := m.pumpHb n }
    (s.tile n).segOn w = true →
    (∀ x, h.ld = true → s.devRead a 8 false false = .ok x → ∃ m, grants m ∧ (m.tile n).hb = moved ∧ m.hub = s.hub ∧ m.hmem = s.hmem ∧
      (∀ q, (m.stack q).mem = (s.stack q).mem) ∧ (∀ i, i ≠ n → m.tile i = s.tile i) ∧ { (m.tile n).data with hb := [] } = { (s.tile n).data with hb := [] } ∧
      (let y := (s.tile n).freeCyc 7 w x.length s.clk.aclk
       s.clk.aclk ≤ y ∧ (∃ z ∈ (m.tile n).acts, z.cyc = y ∧ z.eff = .poke w x) ∧ (s.tile n).plans (m.tile n) (fun z => z.cyc = y ∧ z.eff = .poke w x)) ∧
      ((s.tile n).calm → (m.tile n).mem = (s.tile n).mem.setWords w x)) ∧
    (∀ ws, h.ld = false → ((s.tile n).yieldRead 7 w 8 s.clk.aclk).1 = some ws → s.mirror a = .none → (s.devWrite a ws false false).2 = none → ∃ m, grants m ∧
      ((s.tile n).calm → ws = (s.tile n).mem.words w 8) ∧
      (m.tile n).hb = moved ∧ (m.tile n).mem = (s.tile n).mem ∧ (m.tile n).acts = (s.tile n).acts ∧ (∀ i, i ≠ n → m.tile i = s.tile i) ∧
      (∀ q b, s.devPlace a = .stack q b → m.hub = s.hub ∧ m.hmem = s.hmem ∧ (m.stack q).mem = (s.stack q).mem.setBytes b (bytesOfWords ws) ∧
        ∀ i, i ≠ q → m.stack i = s.stack i) ∧
      (∀ b, s.devPlace a = .hub b → m.hbms = s.hbms ∧ m.hmem = s.hmem ∧ m.hub = s.hub.setBytes b (bytesOfWords ws)) ∧
      (∀ b, s.devPlace a = .host b → m.hbms = s.hbms ∧ m.hub = s.hub ∧ m.hmem = s.hmem.setBytes b (bytesOfWords ws)))) ∧
  (∀ (s : State) (n k : Nat) (h : HbCmd), s.hbCmd n k = some h → h.badLine = none →
    let gone := fun (t : Tile) => t.hb.eraseIdx k
    (s.hbWaits h = false → let r := Mach.hbLines n h false (h.n - h.donelines) h.donelines none s.toMach
      r.2 = (none, none) → ∃ m : Mach, exec (.hbCommandComplete n k) s = .next { s with toMach := (m.pumpHb n).pumpHx n } ∧
        Mach.onlyTile n r.1 m ∧ (m.tile n).hb = gone (r.1.tile n) ∧ (r.1.tile n).signalled (m.tile n) h.sig ∧ (m.tile n).mem = (r.1.tile n).mem) ∧
    (∀ e m x, let r := Mach.hbLines n h e (h.n - h.donelines) h.donelines none s.toMach
      r.2 = (some (m, x), none) → (∀ i, i < m - h.donelines → s.devWaits (h.addr (h.donelines + i)) = false) →
      ∃ z : Mach, exec (.hbCommandError n k e) s = .next { s with toMach := (z.pumpHb n).pumpHx n } ∧ (z.tile n).hb = gone (r.1.tile n) ∧
        (z.tile n).lscs = (r.1.tile n).lscs ∧ (∀ j, j ≠ n → z.tile j = r.1.tile j) ∧ (h.cyc, n) ∈ (z.die (dieOf n)).hbDead ∧
        bit (SMap.get 0 (z.die (dieOf n)).hberr 0) 31 = true ∧
        (bit (SMap.get 0 (r.1.die (dieOf n)).hberr 0) 31 = false → (z.die (dieOf n)).hberr = [(0, mkWord [(31, 1), (26, x), (0, n % 2 ^ 13)]),
          (1, BitVec.ofNat 32 (h.pc % 2 ^ 17)), (2, BitVec.ofNat 32 (h.addr m % 2 ^ 32 / 32 * 32)), (3, BitVec.ofNat 32 (h.addr m / 2 ^ 32 % 2 ^ 16))]) ∧
        z.hbms = r.1.hbms ∧ z.hmem = r.1.hmem ∧ z.hub = r.1.hub))

/-- hx.gsig signals a global counter, hx.gwait registers a wait on one, hx.gdeb debits one, and a grant takes one count for the agent next in order, whose hx.gwait
completes (R253, R254). No other counter changes.
GSC_CMD_n (R253, R254): RST sets the counter to INIT; otherwise SIG signals it and DEB debits it, each alone; the agent is the host or Brim. No other counter
changes. -/
def Obligations.GlobalCountersTakeTheirCommands : Prop :=
  (∀ (s : State) (n : Nat) (w : IWord) (c : Nat), (s.tile n).gwait = none →
    let g := fld w 41 32
    let x := s.gsc g
    (s.leavesAtOnce n 8 0x10 w c → ∃ t, exec (.hxGsig n w) s = .next t ∧ Mach.onlyTile n { s.toMach with gscs := t.gscs } t.toMach ∧
      t.gsc g = { x with value := min 0xFFFF (x.value + 1), oflag := x.oflag || decide (0xFFFF ≤ x.value), lvalid := true, agent := n } ∧
      (∀ k, k ≠ g → t.gsc k = s.gsc k) ∧ { (t.tile n).data with lscs := [] } = { (s.tile n).data with lscs := [] } ∧
      (s.tile n).signalled (t.tile n) (iSig w)) ∧
    (s.leavesAtOnce n 8 0x11 w c → ∃ t, exec (.hxGwait n w) s = .next t ∧ Mach.onlyTile n { s.toMach with gscs := t.gscs } t.toMach ∧
      t.gsc g = { x with waiters := insSorted n x.waiters } ∧ (∀ k, k ≠ g → t.gsc k = s.gsc k) ∧
      (t.tile n).data = { (s.tile n).data with gwait := some (g, iSig w, (s.tile n).pc) }) ∧
    (s.leavesAtOnce n 8 0x12 w c → ∃ t, exec (.hxGdeb n w) s = .next t ∧ Mach.onlyTile n { s.toMach with gscs := t.gscs } t.toMach ∧
      t.gsc g = { x with value := x.value - 1, uflag := x.uflag || decide (x.value = 0) } ∧ (∀ k, k ≠ g → t.gsc k = s.gsc k) ∧
      { (t.tile n).data with lscs := [] } = { (s.tile n).data with lscs := [] } ∧
      (x.value = 0 → bit (s.gscCfg g) 16 = false → (t.tile n).tfr.valid = true ∧ (t.tile n).tfr.cause = 0x48) ∧
      (s.tile n).signalled (t.tile n) (iSig w)) ∧
    (∀ a b sig pc, let y := s.gsc a
      y.value ≠ 0 → y.next = some b → (s.tile b).gwait = some (a, sig, pc) → ((s.tile b).eng 8).waiting = [] →
      ∃ t, exec (.gscGrant a) s = .next t ∧ Mach.onlyTile b { s.toMach with gscs := t.gscs } t.toMach ∧
        t.gsc a = { y with value := y.value - 1, rr := b, waiters := y.waiters.erase b } ∧ (∀ k, k ≠ a → t.gsc k = s.gsc k) ∧
        (t.tile b).gwait = none ∧ (s.tile b).signalled (t.tile b) sig ∧ (t.tile b).mem = (s.tile b).mem)) ∧
  (∀ (s : State) (who : Writer) (n : Nat) (v : Word), n < 1024 → s.mayWrite who (0x4_0008 + 16 * n) →
    let x := s.gsc n
    (bit v 2 = true → ∃ t, exec (.gscCmdRst who n v) s = .next t ∧ t.toMach = { s.toMach with gscs := t.gscs, evc := t.evc } ∧
      t.gsc n = { x with value := fld (s.gscCfg n) 15 0, lvalid := false, agent := 0, rr := 0xFFFF } ∧ ∀ k, k ≠ n → t.gsc k = s.gsc k) ∧
    (bit v 2 = false → bit v 1 = true → bit v 0 = false → ∃ t, exec (.gscCmdDeb who n v) s = .next t ∧ t.toMach = { s.toMach with gscs := t.gscs, evc := t.evc } ∧
      t.gsc n = { x with value := x.value - 1, uflag := x.uflag || decide (x.value = 0) } ∧ ∀ k, k ≠ n → t.gsc k = s.gsc k) ∧
    (bit v 2 = false → bit v 1 = false → bit v 0 = true → ∃ t, exec (.gscCmdSig who n v) s = .next t ∧ t.toMach = { s.toMach with gscs := t.gscs, evc := t.evc } ∧
      t.gsc n = { x with value := min 0xFFFF (x.value + 1), oflag := x.oflag || decide (0xFFFF ≤ x.value), lvalid := true, agent := writerAgent who } ∧
      ∀ k, k ≠ n → t.gsc k = s.gsc k))

/-- hx.evt is one arrival of its software source (R399, R400); hx.idle keeps the earliest deadline of the package's slack hint (R475); hx.smark counts an outcome, a
commit once for each STEP, and a replay of the mark tile triggers a restart (R316, R418); hx.gate writes the gate word through port 7, once the tile is quiet
(R309, R310): every other byte of the tile's memory stays. -/
def Obligations.TilesReportToTheHub : Prop :=
  ∀ (s : State) (n : Nat) (w : IWord) (c : Nat), (s.tile n).gwait = none →
    let mine := fun (t : State) => { (t.tile n).data with lscs := [] } = { (s.tile n).data with lscs := [] } ∧ (s.tile n).signalled (t.tile n) (iSig w)
    let L := s.leaving n 8 w c none
    let step := L.1.stepAt L.2.l
    (s.leavesAtOnce n 8 0x19 w c → let k := 0x1C0 + fld w 41 36
      let e : EvSrc := s.evc.srcs.get {} k
      ∃ t, exec (.hxEvt n w) s = .next t ∧ Mach.onlyTile n s.toMach t.toMach ∧ mine t ∧
        (bit (s.reg (srcCfg k)) 31 = false → SMap.get ({} : EvSrc) t.evc.srcs k = e) ∧
        (bit (s.reg (srcCfg k)) 31 = true → SMap.get ({} : EvSrc) t.evc.srcs k =
          { e with count := min 255 (e.count + 1), pend := true, stamp := if e.count = 0 then s.clk.tb.toNat else e.stamp,
                   d0 := if e.count = 0 then BitVec.ofNat 32 (fld w 35 20) else e.d0, d1 := if e.count = 0 then BitVec.ofNat 32 (n % 2 ^ 13 + 2 ^ 31) else e.d1 })) ∧
    (s.leavesAtOnce n 8 0x38 w c → let dl := s.clk.tb.toNat + 1000 * fld w 41 18
      ∃ t, exec (.hxIdle n w) s = .next t ∧ Mach.onlyTile n { s.toMach with pw := t.pw } t.toMach ∧ mine t ∧
        t.pw = { s.pw with hint := some (match s.pw.hint with | some x => min x dl | none => dl) }) ∧
    (s.leavesAtOnce n 8 0x22 w c → let k := fld w 41 40
      ∃ t, exec (.hxSmark n w) s = .next t ∧
        (k ≠ 0 ∨ (s.trw.snap = none ∧ bit (s.reg 0x7_0200) 31 = false) → Mach.onlyTile n s.toMach t.toMach ∧ mine t) ∧
        ((k ≠ 0 ∨ s.trw.lastCommit ≠ some step) → SMap.get 0 t.trw.outcome k = min 0xFFFFFFFF (SMap.get 0 s.trw.outcome k + 1)) ∧
        (∀ i, i ≠ k → SMap.get 0 t.trw.outcome i = SMap.get 0 s.trw.outcome i) ∧
        (k = 0 → t.trw.lastCommit = some step ∧
          (s.trw.lastCommit = some step → t.trw.outcome = s.trw.outcome) ∧ (s.trw.lastCommit ≠ some step → t.itg.attempt = 1)) ∧
        (k = 2 → n = s.markTile → s.itg.phase = .idle → t.itg.pendTrig.isSome = true)) ∧
    (s.leavesAtOnce n 8 0x21 w c → let a := fld w 17 0
      (s.tile n).allIdle = true → ((s.tile n).eng 7).waiting = [] → (s.tile n).hb = [] → (s.tile n).segOn a = true →
      ∃ t, exec (.hxGate n w) s = .next t ∧ Mach.onlyTile n s.toMach t.toMach ∧ mine t ∧
        ∃ (g : Word) (y : Nat),
          (let has := s.lwOn && s.trw.got && s.trw.step == step
           bit g 0 = !((L.1.asOf L.2.l).cnt.nfStep) ∧ bit g 1 = !(has && s.trw.spike && !s.trw.approved) ∧
           bit g 2 = decide (fld (t.reg 0x6_0000) 6 0 = 0) ∧ bit g 3 = has ∧ fld g 31 4 = 0) ∧
          L.2.l ≤ y ∧ (∃ z ∈ (t.tile n).acts, z.cyc = y ∧ z.eff = .poke a [g]) ∧
          (s.tile n).plans (t.tile n) (fun z => (z.cyc = y ∧ z.eff = .poke a [g]) ∨ ∃ l, z.eff = .fetch l) ∧
          ((s.tile n).calm → (s.tile n).mem.wf = true → bit g 0 = !((s.tile n).cnt.nfStep) ∧ (t.tile n).mem.word a = g ∧
            ∀ b, b < 4 * a ∨ 4 * a + 4 ≤ b → (t.tile n).mem.byte b = (s.tile n).mem.byte b))

/-- hx.loss delivers a sample (R311, R312): nothing while the loss watch is off; the sample of the first step, or of the next one, is processed, where a value that
is not finite is a spike that leaves the statistics, and the first finite one starts them; a sample of another step is a sequence error. Its signal does not depend
on the outcome.
hx.dig adds the line hashes of its lines to the running digest of its STEP (R339 to R341): nothing where the engine is off; where the lines of the step are not yet
all in, the sum and the count grow; with the last line the digest is final.
Their reads through port 7 deliver the words of tile memory, where no store is in flight (R83). -/
def Obligations.LossSamplesAndDigestsReachTheHub : Prop :=
  (∀ (s : State) (n : Nat) (w : IWord) (c : Nat) (x : Word), let L := s.leaving n 8 w c none
    s.leavesAtOnce n 8 0x20 w c → (s.tile n).gwait = none → (L.1.hubRead (fld w 17 0) 1 L.2.l).1 = .ok [x] →
    let step := L.1.stepAt L.2.l
    let due := !s.trw.got || step == s.trw.step + 1
    ∃ t, exec (.hxLoss n w) s = .next t ∧ Mach.onlyTile n s.toMach t.toMach ∧ (t.tile n).plain = (s.tile n).plain ∧ (s.tile n).fetched (t.tile n) ∧
      (s.tile n).signalled (t.tile n) (iSig w) ∧
      (s.lwOn = false → { t.trw with nfs := [], win := [] } = { s.trw with nfs := [], win := [] }) ∧
      (s.lwOn = true → due = true → t.trw.got = true ∧ t.trw.step = step ∧ t.trw.loss = x ∧ t.trw.pm = s.trw.m ∧ t.trw.pv = s.trw.v ∧ t.trw.pn = s.trw.n) ∧
      (s.lwOn = true → due = true → nonFinite 0 x.toNat = true → t.trw.spike = true ∧ t.trw.nf = true ∧ t.trw.approved = false ∧ t.trw.m = s.trw.m ∧
        t.trw.v = s.trw.v ∧ t.trw.n = s.trw.n ∧ t.trw.spkn = min 0xFFFF (s.trw.spkn + 1) ∧ t.trw.unappn = min 0xFFFF (s.trw.unappn + 1)) ∧
      (s.lwOn = true → due = true → nonFinite 0 x.toNat = false → s.trw.n = 0 → t.trw.spike = false ∧ t.trw.nf = false ∧ t.trw.n = 1 ∧ t.trw.v = 0 ∧
        t.trw.m = (convert {} 0 14 none false x.toNat).1) ∧
      (s.lwOn = true → due = false → step ≠ s.trw.step → { t.trw with nfs := [], win := [] } = { s.trw with nfs := [], win := [], seqerr := true })) ∧
  (∀ (s : State) (n : Nat) (w : IWord) (c : Nat) (d : List Word) (ls : List (List Word)), let L := s.leaving n 8 w c none
    let r := L.1.hubRead (8 * fld w 17 3) 8 L.2.l
    s.leavesAtOnce n 8 0x28 w c → (s.tile n).gwait = none → r.1 = .ok d → digBad d = false →
    let step := L.1.stepAt L.2.l
    let k := fld (dv d 2) 14 0 + 1
    let h := fld (dv d 0) 7 0
    let p := resolve L.1.tab.handles (L.1.pAt L.2.l) (if L.2.q.cuff && h == 255 then L.2.q.arg else h) (bit (dv d 0) 8) (fld (dv d 1) 14 0)
    let base := dw d 3 + fld (dv d 4) 3 0 * 2 ^ 32
    let sum := ((upTo ls.length).map fun m => linehash (base + m) (ls.getD m [])).foldl (fun x h => x + h) s.dig.run
    (∀ m, m < k → p.refusal 0xAAAAAAAA (8 * (p.loff + m)) 8 false = none) → (r.2.settled.hubLines (p.base + 8 * p.loff) k L.2.l).1 = .ok ls →
    ∃ t, exec (.hxDig n w) s = .next t ∧ Mach.onlyTile n { s.toMach with dig := t.dig, dil := t.dil } t.toMach ∧ (t.tile n).plain = (s.tile n).plain ∧
      (s.tile n).fetched (t.tile n) ∧ (s.tile n).signalled (t.tile n) (iSig w) ∧ ls.length = k ∧
      (s.digExpect = none → t.dig = s.dig ∧ t.dil = s.dil) ∧
      (∀ ex, s.digExpect = some ex → s.cmpStepOk step = true → (s.dig.closed = true → s.dig.finStep ≠ step) →
        s.dig.busy = true → s.dig.step = step →
        (s.dig.lines + k < ex → t.dig = { s.dig with lines := s.dig.lines + k, run := sum } ∧ t.dil = s.dil) ∧
        (s.dig.lines + k = ex → t.dig = { s.dig with lines := 0, run := 0, busy := false, isFinal := true, closed := true, finStep := step, fin := sum }))) ∧
  (∀ (t : Tile) (a k c : Nat), (∀ x ∈ t.acts, x.keepsTo []) → (∀ m, m < k → t.segOn (a + 8 * m) = true ∧ t.now.firstBad (a + 8 * m) 8 = none) →
    (t.hubLines a k c).1 = .ok ((upTo k).map fun m => t.now.mem.words (a + 8 * m) 8))

/-- hx.move starts a bulk transfer on a free mover as its descriptor says (R295); hx.qans copies an answer, cut to the capacity of its query, and queues the query's
completion, or raises the event of an unknown query (R321).
A bulk transfer that moves every line ends without error, with its counters signalled: the mover is free and counts it (R258, R295, R388); one with a line that
fails ends with its error marked (R281, R292). The hx. queues then go on. -/
def Obligations.MovesStartAndTransfersEnd : Prop :=
  (∀ (s : State) (n : Nat) (w : IWord) (c : Nat), (s.tile n).gwait = none →
    let L := s.leaving n 8 w c none
    (∀ d, s.leavesAtOnce n 8 0x18 w c → (L.1.hubRead (8 * fld w 17 3) 8 s.clk.aclk).1 = .ok d → (L.1.hubRead (8 * fld w 17 3) 8 L.2.l).1 = .ok d →
      s.moveOk d = true → s.moverBusy (fld (dv d 5) 4 0) = false →
      ∃ t, exec (.hxMove n w) s = .next t ∧ Mach.onlyTile n { s.toMach with movers := t.movers } t.toMach ∧ (t.tile n).plain = (s.tile n).plain ∧
        (t.tile n).lscs = (s.tile n).lscs ∧ (s.tile n).fetched (t.tile n) ∧
        (t.mover (fld (dv d 5) 4 0)).xfer = some {
          user := .tile n (iSig w) (s.tile n).pc, src := dw d 0 + dw d 1 * 2 ^ 32, dst := dw d 2 + dw d 3 * 2 ^ 32, n := dw d 4 + 1, sigk := fld (dv d 5) 9 8, gsc := fld (dv d 6) 9 0, stile := fld (dv d 6) 12 0, ctr := fld (dv d 6) 19 16 } ∧
        ∀ k, k ≠ fld (dv d 5) 4 0 → t.mover k = s.mover k) ∧
    (s.leavesAtOnce n 8 0x30 w c →
      let qid := fld w 41 30
      let k := fld w 29 18 + 1
      ((s.hq.queries.find? fun q => q.qid == qid) = none → ∃ t, exec (.hxQans n w) s = .next t ∧ Mach.onlyTile n s.toMach t.toMach ∧
        (t.tile n).plain = (s.tile n).plain ∧ (s.tile n).signalled (t.tile n) (iSig w) ∧ Mach.told s.toMach t.toMach 8) ∧
      (∀ q b ls, (s.hq.queries.find? fun q => q.qid == qid) = some q → s.hostUp = true →
        let m := min k q.cap
        (L.1.hubLines (8 * fld w 17 3) m L.2.l).1 = .ok ls →
        (∀ i, i < m → s.devPlace (q.aaddr + 32 * i) = .host (b + 32 * i) ∧ s.mirror (q.aaddr + 32 * i) = .none) →
        ∃ t, exec (.hxQans n w) s = .next t ∧ Mach.onlyTile n { s.toMach with hq := t.hq, hmem := t.hmem } t.toMach ∧ (t.tile n).plain = (s.tile n).plain ∧
          (s.tile n).fetched (t.tile n) ∧ (s.tile n).signalled (t.tile n) (iSig w) ∧
          t.hmem = (upTo m).foldl (fun h i => h.setBytes (b + 32 * i) (bytesOfWords (ls.getD i []))) s.hmem ∧
          t.hq.queries = (s.hq.queries.filter fun x => x.qid != qid) ∧
          SMap.get [] t.hq.qcpl q.ring = SMap.get [] s.hq.qcpl q.ring ++
            [{ qid := some qid, tag := q.tag, lines := m, status := if q.cap < k then 2 else 0, deadline := q.deadline }]))) ∧
  (∀ (s : State) (m : Nat) (e : Bool) (x : Xfer) (n : Nat) (sig : Option Nat) (pc : Nat), (s.mover m).xfer = some x → x.user = .tile n sig pc →
    s.copyWaits x.src x.dst x.n = false →
    let r := s.copyLines x.src x.dst e x.n 0
    (r.2 = none → ∃ t : Mach, exec (.bulkTransferComplete m e) s = .next { s with toMach := t.pumpAllHx } ∧
      t.mover m = { s.mover m with xfer := none, err := false, done := min 0xFFFF ((s.mover m).done + 1) } ∧ (∀ k, k ≠ m → t.mover k = s.mover k) ∧
      t.hbms = r.1.hbms ∧ t.hmem = r.1.hmem ∧ t.hub = r.1.hub ∧ (∀ k, (t.tile k).mem = (r.1.tile k).mem) ∧
      (x.sigk ≠ 2 → (s.tile n).signalled (t.tile n) sig) ∧ (x.sigk = 2 → sig = none → (s.tile x.stile).signalled (t.tile x.stile) (some x.ctr)) ∧
      (x.sigk = 2 → x.stile ≠ n → (s.tile n).signalled (t.tile n) sig ∧ (s.tile x.stile).signalled (t.tile x.stile) (some x.ctr)) ∧
      (x.sigk = 1 → (t.gsc x.gsc).value = min 0xFFFF ((s.gsc x.gsc).value + 1)) ∧ (x.sigk ≠ 1 → t.gscs = s.gscs)) ∧
    (∀ y a, r.2 = some (y, a) → ∃ t : Mach, exec (.bulkTransferComplete m e) s = .next { s with toMach := t.pumpAllHx } ∧
      t.mover m = { s.mover m with xfer := none, err := true } ∧
      (∀ k, k ≠ m → t.mover k = s.mover k) ∧ (t.tile n).lscs = (s.tile n).lscs ∧ bit (SMap.get 0 (t.die (dieOf n)).hberr 0) 31 = true ∧
      t.hbms = r.1.hbms ∧ t.hmem = r.1.hmem ∧ t.hub = r.1.hub))

/-! ## Compiled exchange -/

/-- An xc.send that leaves in the cycle after its issue, its wait granted where it has one, injects one copy of each of its lines for each destination, on the routes and
in the cycles that R222, R223 and R229 give with the latency of the die's pad point 5, which the manual gives as 8 cycles (R239). Where no other command is in flight,
a line holds accumulator elements of its block, or, where nothing else is scheduled, the line of its pointer. A send writes no tile memory. -/
def Obligations.SendsInjectTheirLines : Prop :=
  ∀ (s : State) (n : Nat) (w : IWord) (c : Nat), s.issues n 6 0x10 w c → (s.tile n).sendTiming (s.extReady n) w (c + 1) = none →
    ((s.tile n).issued w c).tfr.valid = false →
    let t0 := s.tile n
    let k := fld w 24 17 + 1
    let blk := fld w 13 11
    let p := t0.ptr 6 (fld w 16 15)
    let dests := if bit w 41 then s.mcSet (t0.tab.mcast.get 0 (fld w 33 28)) else [fld w 40 28]
    (bit w 41 = false → s.tileExists (fld w 40 28) = true) → (bit w 14 = true → blk * 256 + 8 * k ≤ if t0.e7 (s.env n) then 1024 else 2048) →
    ∃ t fs ls, exec (.xcSend n w) s = .next t ∧ Mach.onlyTile n { s.toMach with flight := t.flight } t.toMach ∧
      { (t.tile n).data with ptrs := [], lscs := [] } = { t0.data with ptrs := [], lscs := [] } ∧ t0.plans (t.tile n) (Act.keepsTo []) ∧
      (iWaiten w = false → (t.tile n).lscs = t0.lscs) ∧
      t.flight = fs ++ ls ∧ fs.map (XLine.blank n) = s.flight.map (XLine.blank n) ∧ ls.length = k * dests.length ∧
      (∀ d ∈ dests, ∀ i, i < k → ∃ x ∈ ls, x.dst = d ∧ x.idx = i) ∧
      ∀ x ∈ ls, x.sender = n ∧ x.slot = fld w 27 25 ∧ x.mc = bit w 41 ∧ x.dst ∈ dests ∧ x.idx < k ∧ x.inj = c + 1 + (s.pads n).latency 5 + x.idx ∧
        ((∀ k, SMap.get (0 : Int) s.part.tpNative k = 0) → (∀ k, SMap.get (0 : Word) s.part.tpPad k = 0) → x.inj = c + 9 + x.idx) ∧
        (x.hops, x.arr) = s.route n x.dst x.inj ∧
        (bit w 14 = true → t0.calm → x.data = (upTo 8).map fun i => t0.mxe.acc.get 0 (256 * blk + 8 * x.idx + i)) ∧
        (bit w 14 = false → t0.calm → (∀ y, c + 1 < y → t0.freeIn y) →
          (∀ m, m < k → p.refusal t0.cfg.seg (8 * (p.loff + m)) 8 false = none ∧ t0.firstBad (p.base + 8 * (p.loff + m)) 8 = none) →
          x.data = t0.mem.words (p.base + 8 * (p.loff + x.idx)) 8)

/-- A line that reaches its receiver is accepted into its slot and written in its arrival cycle, a line with an uncorrectable word as zero words with its fault, and the
slot disarms with its last line; a line whose tag fails, or that the slot does not accept, raises its fault, with the PC of the xc.recv that armed the slot, and changes
neither memory nor slots (R231, R237, R238).
Where more lines want a link in a cycle than it carries, the link passes the first by precedence and drops the others, on the branches that use it, and the die
counts each (R235, R242). Nothing else changes but the die's drop record and its event. -/
def Obligations.LinesPassLinksAndArrive : Prop :=
  (∀ (s : State) (n k : Nat) (x : XLine) (q : LineQuality), s.clk.aclkOn = true → s.tileExists n = true → s.lineTo n k = some x → s.loses x = false →
    let t0 := s.tile n
    let sl : RSlot := t0.slots.get {} x.slot
    let off := 8 * (sl.ptr.loff + x.idx)
    let got := insSorted x.idx sl.got
    let pc := sl.armer (t0.tm.relAt.getD 0) x.arr
    let flew := fun (t : State) => Mach.onlyTile n { s.toMach with flight := t.flight } t.toMach ∧ t.flight.map (XLine.blank n) = (s.flight.erase x).map (XLine.blank n)
    (q = .tagParity → t0.tfr.valid = false → ∃ t, exec (.exchangeLineArrival n k q) s = .next t ∧ flew t ∧ (t.tile n).data = t0.data ∧
      (t.tile n).tfr.valid = true ∧ (t.tile n).tfr.cause = 0x47 ∧ (t.tile n).tfr.pc = pc) ∧
    (q ≠ .tagParity → t0.tsq.inJob = true → t0.faultedAt x.arr = false →
      (t0.lineRefused x sl = none → let d := if q = .uncorrectable then zeroLine else x.data.take 8
        ∃ t, exec (.exchangeLineArrival n k q) s = .next t ∧ flew t ∧
          SMap.get ({} : RSlot) (t.tile n).slots x.slot = { sl with got := got, armed := got.length != sl.n } ∧
          (∀ j, j ≠ x.slot → SMap.get ({} : RSlot) (t.tile n).slots j = SMap.get {} t0.slots j) ∧
          { (t.tile n).plain with slots := [] } = { t0.plain with slots := [] } ∧
          t0.plans (t.tile n) (fun z => z.cyc = x.arr ∧ ∃ ws, z.eff = .recv sl.ptr off x.data0 ws ∧ ws.take 8 = d) ∧
          (q = .uncorrectable → (t.tile n).tfr.valid = true) ∧
          (t0.calm → t0.freeIn x.arr → sl.ptr.refusal t0.cfg.seg off 8 true = none →
            (t.tile n).mem = t0.mem.setWords (sl.ptr.base + off) d ∧ (q ≠ .uncorrectable → (t.tile n).tfr = t0.tfr))) ∧
      (∀ cause sub d1, t0.lineRefused x sl = some (cause, sub, d1) → t0.tfr.valid = false →
        ∃ t, exec (.exchangeLineArrival n k q) s = .next t ∧ flew t ∧
          (t.tile n).data = t0.data ∧ (t.tile n).tfr.valid = true ∧ (t.tile n).tfr.cause = cause ∧ (t.tile n).tfr.sub = sub ∧ (t.tile n).tfr.d1 = d1 ∧
          (t.tile n).tfr.d0 = x.sender + x.slot * 2 ^ 16 + x.idx * 2 ^ 24 ∧ (t.tile n).tfr.pc = pc))) ∧
  (∀ (s : State) (l : Link) (c : Nat), s.clk.aclkOn = true →
    let lose := (s.wants l c).drop (s.linkCap l)
    ∃ t, exec (.routerLineCollision l c) s = .next t ∧ t.toMach = { s.toMach with flight := t.flight, dies := t.dies, evc := t.evc } ∧
      (∀ x, x ∈ t.flight ↔ x ∈ s.flight ∧ ¬ ((lose.any fun y => y.same x) = true ∧ (x.hopAt l c).isSome = true)) ∧
      (∀ d, d ≠ l.gx / 64 → t.die d = s.die d) ∧
      (lose ≠ [] → (t.die (l.gx / 64)).xdropn = min 0xFFFF ((s.die (l.gx / 64)).xdropn + lose.length)) ∧ (lose = [] → t.dies = s.dies ∧ t.flight = s.flight))

/-! ## Channels -/

/-- xc.csend with credit for its record takes the credit, advances the ring's tail and the sequence, and sends the record, its payload the lines of its pointer, to a
tile of this package or towards its own; the next instruction waits as at a drain point (R265, R266). It writes no tile memory.
xc.crecv copies the head record of its ring, header first, to its pointer's lines, with zero lines where the record is shorter, and takes the record and the pads
behind it off the ring, with credit to its sender (R267); a longer record is the record-length fault as well. Memory outside those lines stays. What it reads is
what memory holds where no other command is in flight. -/
def Obligations.RingRecordsAreSentAndReceived : Prop :=
  (∀ (s : State) (n : Nat) (w : IWord) (c : Nat), s.chanGoes n 0x20 w c →
    let t0 := s.tile n
    let ch := fld w 41 37
    let e := t0.sce ch
    let x := t0.sc ch
    let k := fld w 34 24 + 1
    let p := t0.ptr 6 (fld w 36 35)
    s.chanBad n ch false = false → x.closed = false → x.place (fld e 36 20) (8 * (k + 1)) = 1 →
    (∀ m, m < k → p.refusal t0.cfg.seg (8 * (p.loff + m)) 8 false = none) →
    ∃ t ls, exec (.xcCsend n w) s = .next t ∧ (∀ j, j ≠ n → t.tile j = s.tile j) ∧ (t.tile n).cur.hold = .drain c ∧ t0.fetched (t.tile n) ∧
      { (t.tile n).plain with scs := [], ptrs := [] } = { t0.plain with scs := [], ptrs := [] } ∧
      (t.tile n).sc ch = { x with tail := (x.tail + 8 * (k + 1)) % fld e 36 20, credit := x.credit - 8 * (k + 1), seq := (x.seq + 1) % 2 ^ 16 } ∧
      (∀ j, j ≠ ch → (t.tile n).sc j = t0.sc j) ∧
      (let m : Msg := { s.chanMsg n ch .record with lines := ls, seq := x.seq, tag := fld w 23 8, words := 8 * (k + 1), pc := t0.pc, epoch := s.itg.epoch }
       s.sends t.toMach m ∧ (fld e 61 54 = s.pkgIdx → t.msgs = s.msgs ++ [m]) ∧
       (∀ q, fld e 61 54 ≠ s.pkgIdx → fld e 61 54 ≠ 0xFF → s.portTo (fld e 61 54) = some q → t.msgs = s.msgs ∧
         (t.port q).txq.length = (s.port q).txq.length + k + 1)) ∧
      (t0.calm → (∀ m, m < k → t0.firstBad (p.base + 8 * (p.loff + m)) 8 = none) → ls = (upTo k).map fun m => t0.mem.words (p.base + 8 * (p.loff + m)) 8)) ∧
  (∀ (s : State) (n : Nat) (w : IWord) (c : Nat) (r : RingRec) (rest : List RingRec), s.chanGoes n 0x21 w c →
    let t0 := s.tile n
    let q := fld w 41 38
    let e := t0.rqe q
    let p := t0.ptr 6 (fld w 37 36)
    let k := r.rlines - 1
    let mx := fld w 35 25 + 1
    let src := rqBase e + r.off
    let dst := p.base + 8 * p.loff
    rqComb e = false → (t0.rq q).recs = r :: rest → r.pad = false → (t0.issued w c).tfr.valid = false →
    (∀ m, m ≤ mx → p.refusal t0.cfg.seg (8 * (p.loff + m)) 8 true = none) →
    ∃ t ls, exec (.xcCrecv n w) s = .next t ∧ (∀ j, j ≠ n → t.tile j = s.tile j) ∧ (t.tile n).cur.hold = .drain c ∧ ls.length = mx + 1 ∧
      { (t.tile n).plain with rqs := [], ptrs := [] } = { t0.plain with rqs := [], ptrs := [] } ∧ t0.plans (t.tile n) (Act.putsAt dst ls) ∧
      (∀ m, min k mx < m → m ≤ mx → ls.getD m [] = zeroLine) ∧
      (t.tile n).rq q = { t0.rq q with recs := rest.dropWhile fun x => x.pad } ∧ (∀ j, j ≠ q → (t.tile n).rq j = t0.rq j) ∧
      (fld e 37 30 = s.pkgIdx → ∃ y ∈ t.msgs, y.kind = .credit ∧ y.stile = fld e 29 17 ∧ y.ch = r.ch ∧ y.words = 8 * r.rlines) ∧
      (mx < k → (t.tile n).tfr.valid = true ∧ (t.tile n).tfr.cause = 0x4C) ∧
      (t0.calm → t0.mem.wf = true →
        ((∀ m, m ≤ k → t0.segOn (src + 8 * m) = true ∧ t0.firstBad (src + 8 * m) 8 = none) → ∀ m, m ≤ min k mx → ls.getD m [] = t0.mem.words (src + 8 * m) 8) ∧
        (∀ m, m ≤ mx → (t.tile n).mem.words (dst + 8 * m) 8 = ls.getD m []) ∧
        (∀ b, b < 4 * dst ∨ 4 * (dst + 8 * (mx + 1)) ≤ b → (t.tile n).mem.byte b = t0.mem.byte b)))

/-- xc.qclose closes its receive queue, discards what it holds and tells a ring's sender (R269), and completes in the cycle after its issue (R265). Memory and the other
queues stay.
A refused contribution is sent again (R273), an acceptance completes its xc.cadd (R265), a credit return raises its channel's credit (R266), a close notice closes the
channel and a drop notice is the channel-closed fault (R269): each takes one message, or sends one, and changes one channel. -/
def Obligations.QueuesCloseAndSendersHear : Prop :=
  (∀ (s : State) (n : Nat) (w : IWord) (c : Nat), s.issues n 6 0x22 w c → iWaiten w = false → (s.tile n).xcRoom c = true →
    let q := fld w 41 38
    let e := (s.tile n).rqe q
    ∃ t, exec (.xcQclose n w) s = .next t ∧ (∀ j, j ≠ n → t.tile j = s.tile j) ∧ (s.tile n).fetched (t.tile n) ∧
      { (t.tile n).plain with rqs := [] } = { (s.tile n).plain with rqs := [] } ∧ ((t.tile n).rq q).opn = false ∧
      ((t.tile n).eng 17).running = ((s.tile n).eng 17).running ++ [{ done := c + 1, sig := iSig w }] ∧
      (∀ j, j ≠ q → (t.tile n).rq j = (s.tile n).rq j) ∧
      (((s.tile n).rq q).opn = true → ((t.tile n).rq q).recs = [] ∧ ((t.tile n).rq q).slots = [] ∧
        (rqComb e = true → t.msgs = s.msgs ∧ t.dil = s.dil) ∧
        (rqComb e = false → let m : Msg := { kind := .close, spkg := fld e 37 30, stile := fld e 29 17, ch := 0, dpkg := s.pkgIdx, dtile := n, dq := q, epoch := s.itg.epoch }
          s.sends t.toMach m ∧ (fld e 37 30 = s.pkgIdx → t.msgs = s.msgs ++ [m]))) ∧
      (((s.tile n).rq q).opn = false → t.msgs = s.msgs ∧ (t.tile n).rq q = (s.tile n).rq q)) ∧
  (∀ (s : State) (n ch : Nat) (m : Msg),
    let t0 := s.tile n
    let x := t0.sc ch
    (∀ o, (x.out.find? fun o => o.refusedAt.isSome) = some o →
      let y : Msg := { s.chanMsg n ch .contrib with elems := o.elems, seq := o.q, tag := o.fmt, lines := packLines o.fmt o.elems, pc := o.pc, epoch := s.itg.epoch }
      ∃ z : Mach, exec (.contributionResend n ch) s = .next { s with toMach := z.sendMsg y } ∧ Mach.onlyTile n s.toMach z ∧
        (z.tile n).sc ch = { x with out := x.out.map fun y => if y.q == o.q then { y with refusedAt := none } else y } ∧
        (fld (t0.sce ch) 61 54 = s.pkgIdx → (z.sendMsg y).msgs = s.msgs ++ [y])) ∧
    (∀ o, s.msgFor n ch (fun k => k == .accept) = some m → (x.out.find? fun o => o.q == m.seq) = some o → ∃ t, exec (.contributionAcceptance n ch) s = .next t ∧
      Mach.onlyTile n { s.toMach with msgs := t.msgs } t.toMach ∧ t.msgs = s.msgs.erase m ∧ (t.tile n).sc ch = { x with out := x.out.erase o } ∧
      t0.signalled (t.tile n) o.sig ∧ (t.tile n).mem = t0.mem ∧ (t.tile n).acts = t0.acts) ∧
    (s.msgFor n ch (fun k => k == .credit) = some m → m.spkg ≠ 0xFF → t0.mainChan = false ∨ fld t0.mainWord 41 37 ≠ ch → ∃ t, exec (.creditReturn n ch) s = .next t ∧
      Mach.onlyTile n { s.toMach with msgs := t.msgs } t.toMach ∧ t.msgs = s.msgs.erase m ∧ (t.tile n).sc ch = { x with credit := x.credit + m.words } ∧
      (∀ j, j ≠ ch → (t.tile n).sc j = t0.sc j) ∧ (t.tile n).mem = t0.mem ∧ (t.tile n).acts = t0.acts) ∧
    (s.msgFor n ch (fun k => k == .credit) = some m → m.spkg = 0xFF → ∃ t, exec (.creditReturn n ch) s = .next t ∧
      t.toMach = { s.toMach with msgs := s.msgs.erase m, qch := t.qch } ∧
      SMap.get ({} : SendCh) t.qch ch = { SMap.get ({} : SendCh) s.qch ch with credit := (SMap.get ({} : SendCh) s.qch ch).credit + m.words }) ∧
    (m ∈ s.msgs → m.kind = .close → m.stile = n → m.spkg = s.pkgIdx → m.spkg ≠ 0xFF → m.dpkg = fld (t0.sce ch) 61 54 → m.dtile = fld (t0.sce ch) 53 41 →
      m.dq = fld (t0.sce ch) 40 37 → (∀ y ∈ s.msgs, y.spkg ≠ 0xFF) → ∃ t, exec (.closeNotice n ch) s = .next t ∧ Mach.onlyTile n { s.toMach with msgs := t.msgs } t.toMach ∧
      t.msgs.length + 1 = s.msgs.length ∧ (t.tile n).sc ch = { x with closed := true } ∧ (∀ j, j ≠ ch → (t.tile n).sc j = t0.sc j) ∧ (t.tile n).mem = t0.mem) ∧
    (s.msgFor n ch (fun k => k == .drop) = some m → m.spkg ≠ 0xFF → t0.tfr.valid = false → ∃ t, exec (.dropNotice n ch) s = .next t ∧
      Mach.onlyTile n { s.toMach with msgs := t.msgs } t.toMach ∧ t.msgs = s.msgs.erase m ∧ (t.tile n).sc ch = { x with out := x.out.filter fun o => o.q != m.seq } ∧
      (t.tile n).tfr.valid = true ∧ (t.tile n).tfr.cause = 0x4A ∧ (t.tile n).tfr.pc = m.pc ∧ (t.tile n).tfr.d0 = ch ∧ (t.tile n).tfr.d1 = m.seq ∧ (t.tile n).mem = t0.mem))

/-- xc.cadd sends the elements of its lines as one contribution, to a tile of this package or towards its own, keeps it until its acceptance and raises its channel's
sequence (R273); the next instruction waits as at a drain point. It writes no tile memory.
xc.cread writes the read-out of the complete slot of RSEQ to its pointer's lines, frees the slot with zero lines and raises RSEQ (R275). Memory outside the lines
and the slot stays. What they read is what memory holds where no other command is in flight. -/
def Obligations.ContributionsAreSentAndCombined : Prop :=
  (∀ (s : State) (n : Nat) (w : IWord) (c : Nat), s.chanGoes n 0x24 w c →
    let t0 := s.tile n
    let ch := fld w 41 37
    let e := t0.sce ch
    let x := t0.sc ch
    let k := fld w 34 24 + 1
    let p := t0.ptr 6 (fld w 36 35)
    s.chanBad n ch true = false → x.closed = false → p.fmt = 0 ∨ p.fmt = 2 →
    (∀ m, m < k → p.refusal t0.cfg.seg (8 * (p.loff + m)) 8 false = none) →
    ∃ t ls, exec (.xcCadd n w) s = .next t ∧ (∀ j, j ≠ n → t.tile j = s.tile j) ∧ (t.tile n).cur.hold = .drain c ∧ t0.fetched (t.tile n) ∧
      { (t.tile n).plain with scs := [], ptrs := [] } = { t0.plain with scs := [], ptrs := [] } ∧
      (t.tile n).sc ch = { x with seq := (x.seq + 1) % 2 ^ 16, out := x.out ++
        [{ q := x.seq, elems := lineElems p.fmt ls, fmt := p.fmt, pc := t0.pc, sig := iSig w, refusedAt := none }] } ∧
      (∀ j, j ≠ ch → (t.tile n).sc j = t0.sc j) ∧
      (let m : Msg := { s.chanMsg n ch .contrib with elems := lineElems p.fmt ls, seq := x.seq, tag := p.fmt, lines := ls, pc := t0.pc, epoch := s.itg.epoch }
       s.sends t.toMach m ∧ (fld e 61 54 = s.pkgIdx → t.msgs = s.msgs ++ [m])) ∧
      (t0.calm → (∀ m, m < k → t0.firstBad (p.base + 8 * (p.loff + m)) 8 = none) → ls = (upTo k).map fun m => t0.mem.words (p.base + 8 * (p.loff + m)) 8)) ∧
  (∀ (s : State) (n : Nat) (w : IWord) (c : Nat), s.chanGoes n 0x25 w c →
    let t0 := s.tile n
    let q := fld w 41 38
    let e := t0.rqe q
    let x := t0.rq q
    let p := t0.ptr 6 (fld w 37 36)
    let k := rqLen e / (if p.fmt = 2 then 16 else 8)
    let sl := x.rseq % rqSlots e
    let a := slotBase e sl
    let len := 8 + 10 * rqLen e
    let dst := p.base + 8 * p.loff
    let elems := (upTo (rqLen e)).map fun i => ((CAcc.ofWords (t0.mem.words (a + 8 + 10 * i) 10)).readOut t0.cfg.num p.fmt).1
    rqComb e = true → (x.slots.any fun y => y.2.1 == x.rseq % 2 ^ 16 && y.2.2.1 == 2) = true → p.fmt = 0 ∨ p.fmt = 2 →
    (∀ m, m < k → p.refusal t0.cfg.seg (8 * (p.loff + m)) 8 true = none) →
    ∃ t, exec (.xcCread n w) s = .next t ∧ (∀ j, j ≠ n → t.tile j = s.tile j) ∧ (t.tile n).cur.hold = .drain c ∧
      { (t.tile n).plain with rqs := [], ptrs := [], cnt := {} } = { t0.plain with rqs := [], ptrs := [], cnt := {} } ∧
      t0.plans (t.tile n) (fun z => z.pokesIn a len ∨ z.pokesIn dst (8 * k)) ∧
      (t.tile n).rq q = { x with rseq := (x.rseq + 1) % 2 ^ 16, slots := x.slots.filter fun z => z.1 != sl } ∧ (∀ j, j ≠ q → (t.tile n).rq j = t0.rq j) ∧
      (t0.calm → t0.mem.wf = true → (∀ i, i < len → t0.segOn (a + i) = true) → (∀ b ∈ t0.bad, b < a ∨ a + len ≤ b) → dst + 8 * k ≤ a ∨ a + len ≤ dst →
        (∀ m, m < k → (t.tile n).mem.words (dst + 8 * m) 8 = (packLines p.fmt elems).getD m []) ∧ (∀ i, i < len → (t.tile n).mem.word (a + i) = 0) ∧
        (∀ b, (b < 4 * dst ∨ 4 * (dst + 8 * k) ≤ b) → (b < 4 * a ∨ 4 * (a + len) ≤ b) → (t.tile n).mem.byte b = t0.mem.byte b)))

/-- A record that reaches its open ring from the ring's sender is written, payload and header, at the ring's tail and stands last in the ring (R263, R268); a contribution
in sequence is added, element by element, to the accumulators of its slot, which is complete with its last one, and is accepted, and one too far ahead is refused
(R272 to R274). What is written and added to is what memory holds where no other command is in flight. -/
def Obligations.RecordsAndContributionsArrive : Prop :=
  ∀ (s : State) (n q : Nat) (m : Msg), s.tileExists n = true → s.unavail n = false → (s.tile n).tsq.inJob = true → (s.tile n).faultedAt s.clk.aclk = false →
    ((s.tile n).rq q).opn = true →
    let t0 := s.tile n
    let e := t0.rqe q
    let x := t0.rq q
    (s.recordFor n q = some m → m.kind = .record → rqComb e = false → m.stile = fld e 29 17 → m.spkg = fld e 37 30 →
      let a := rqBase e + x.tail
      let rr : RingRec := { off := x.tail, rlines := m.words / 8, pad := false, seq := m.seq, ch := m.ch }
      ∃ t, exec (.channelRecordArrival n q) s = .next t ∧ (∀ j, j ≠ n → t.tile j = s.tile j) ∧
        (t.tile n).rq q = { x with tail := (x.tail + m.words) % rqSize e, recs := (x.recs ++ [rr]).dropWhile fun r => r.pad } ∧ (∀ j, j ≠ q → (t.tile n).rq j = t0.rq j) ∧
        { (t.tile n).plain with rqs := [] } = { t0.plain with rqs := [] } ∧
        t0.plans (t.tile n) (fun z => z.putsAt a (recHeader m (m.words / 8) :: m.lines)) ∧
        t0.signalled (t.tile n) (if bit e 42 then some (fld e 41 38) else none) ∧
        (t0.calm → t0.mem.wf = true → (∀ l ∈ m.lines, l.length = 8) → (∀ i, i ≤ m.lines.length → t0.segOn (a + 8 * i) = true) →
          (t.tile n).mem.words a 8 = recHeader m (m.words / 8) ∧ (∀ i, i < m.lines.length → (t.tile n).mem.words (a + 8 + 8 * i) 8 = m.lines.getD i []) ∧
          (∀ b, b < 4 * a ∨ 4 * (a + 8 * (m.lines.length + 1)) ≤ b → (t.tile n).mem.byte b = t0.mem.byte b))) ∧
    (∀ k, s.contribFor n q k = some m → rqComb e = true → m.elems.length = rqLen e → (∀ y ∈ s.msgs, y.kind ≠ .refuse ∧ ∀ z, y.kind ≠ .reject z) →
      let d := seqDist m.seq x.rseq
      let sl := m.seq % rqSlots e
      let cur := x.slots.find? fun y => y.1 == sl
      let cnt := match cur with | some (_, _, _, z) => z + 1 | none => 1
      let st := if fld e 23 12 ≤ cnt then 2 else 1
      let a := slotBase e sl
      let len := 8 + 10 * rqLen e
      (d < rqSlots e → d < 2 ^ 15 → (∀ y, cur = some y → y.2.2.1 ≠ 2) → ∃ t, exec (.contributionArrival n q k) s = .next t ∧ (∀ j, j ≠ n → t.tile j = s.tile j) ∧
        (t.tile n).rq q = { x with slots := (x.slots.filter fun z => z.1 != sl) ++ [(sl, m.seq, st, cnt)] } ∧ (∀ j, j ≠ q → (t.tile n).rq j = t0.rq j) ∧
        { (t.tile n).plain with rqs := [], cnt := {} } = { t0.plain with rqs := [], cnt := {} } ∧ t0.plans (t.tile n) (Act.pokesIn a len) ∧
        (m.spkg = s.pkgIdx → t.msgs = s.msgs.erase m ++ [{ m with kind := .accept, elems := [], lines := [], epoch := s.itg.epoch }]) ∧
        t0.signalled (t.tile n) (if st = 2 ∧ bit e 42 = true then some (fld e 41 38) else none) ∧
        (t0.calm → t0.mem.wf = true → (∀ i, i < len → t0.segOn (a + i) = true) → (∀ b ∈ t0.bad, b < a ∨ a + len ≤ b) →
          (t.tile n).mem.words a 8 = slotHeader m.seq st cnt ∧
          (∀ i, i < rqLen e → let old := if cur = none then {} else CAcc.ofWords (t0.mem.words (a + 8 + 10 * i) 10)
            (t.tile n).mem.words (a + 8 + 10 * i) 10 = (old.apply (operand t0.cfg.num m.tag (m.elems.getD i 0)).1).words) ∧
          (∀ b, b < 4 * a ∨ 4 * (a + len) ≤ b → (t.tile n).mem.byte b = t0.mem.byte b))) ∧
      (rqSlots e ≤ d → d < 2 ^ 15 → m.spkg = s.pkgIdx → ∃ t, exec (.contributionArrival n q k) s = .next t ∧
        (∀ j, (t.tile j).mem = (s.tile j).mem ∧ (t.tile j).acts = (s.tile j).acts) ∧
        (t.tile n).rq q = x ∧ ((t.tile m.stile).sc m.ch).out = (((s.tile m.stile).sc m.ch).out.map fun o => if o.q == m.seq then { o with refusedAt := some s.clk.aclk } else o)))

/-! ## Device memory, segments, windows, queries -/

/-- HBM_OTCMD (R285): PLACE gives an entry that holds nothing the argument's placement, FREE empties one that holds an object, MIGRATE sets an object moving on a free
mover, and each leaves the table busy; a command whose check fails changes no entry and ends at once with its error.
A PLACE or FREE command ends without error, with the object-table event (R285). A migration copies its object's granules one by one; once the last is copied it ends
with its entry at the new placement and its mover free (R286); where a stack takes no new requests it goes on no further, and where an access fails its object stays in
its source placement and the mover ends in error (the outcome of a failed copy is the model's, log entry 85). -/
def Obligations.ObjectTableCommandsRun : Prop :=
  (∀ (s : State) (who : Writer) (v : Word), s.mayWrite who 0xC_8000 → s.ot.busy = false →
    let i := fld v 11 0
    let cur : BitVec 128 := s.ot.ents.get 0 i
    let a := s.otArg
    let dst := setFld (setFld a 89 72 (fld cur 89 72)) 71 54 (fld cur 71 54)
    (fld v 31 28 = 1 →
      (oeState cur = 0 → oeValid cur = false → oeDbase a + oeLen a ≤ 2 ^ 39 →
        (∀ x ∈ s.ot.ents, oeValid x.2 = true → overlap (oeDbase a) (oeLen a) (oeDbase x.2) (oeLen x.2) = false) → s.placeErr a = none →
        ∃ t, exec (.hbmOtcmdPlace who v) s = .next t ∧
          t.toMach = { s.toMach with ot := { s.ot with ents := s.ot.ents.put i (withState a 1), busy := true, err := 0, entry := i } }) ∧
      (oeValid cur = true → ∃ t, exec (.hbmOtcmdPlace who v) s = .next t ∧
        t.toMach = { s.toMach with ot := { s.ot with busy := false, err := 1, entry := i }, evc := t.evc })) ∧
    (fld v 31 28 = 2 →
      (oeState cur = 1 → s.placeErr dst = none → s.moverBusy (fld v 20 16) = false → ∃ t, exec (.hbmOtcmdMigrate who v) s = .next t ∧
        t.toMach = { s.toMach with ot := { s.ot with ents := s.ot.ents.put i (withState cur 2), busy := true, err := 0, entry := i, gran := 0, moving := some (fld v 20 16, withState dst 1) }, movers := t.movers } ∧
        t.moverBusy (fld v 20 16) = true ∧ ∀ k, k ≠ fld v 20 16 → t.mover k = s.mover k) ∧
      (oeState cur ≠ 1 → ∃ t, exec (.hbmOtcmdMigrate who v) s = .next t ∧
        t.toMach = { s.toMach with ot := { s.ot with busy := false, err := 1, entry := i }, evc := t.evc })) ∧
    (fld v 31 28 = 3 →
      (oeState cur = 1 → ∃ t, exec (.hbmOtcmdFree who v) s = .next t ∧
        t.toMach = { s.toMach with ot := { s.ot with ents := s.ot.ents.del i, busy := true, err := 0, entry := i } }) ∧
      (oeState cur ≠ 1 → ∃ t, exec (.hbmOtcmdFree who v) s = .next t ∧
        t.toMach = { s.toMach with ot := { s.ot with busy := false, err := 1, entry := i }, evc := t.evc }))) ∧
  (∀ (s : State),
    (s.ot.busy = true → s.ot.moving = none → ∃ t, exec .objectTableCommandDone s = .next t ∧
      t.toMach = { s.toMach with ot := { s.ot with busy := false, err := 0 }, evc := t.evc } ∧
      (bit (s.reg (srcCfg 3)) 31 = true → (SMap.get ({} : EvSrc) t.evc.srcs 3).pend = true)) ∧
    (∀ m dst, s.ot.moving = some (m, dst) → let src : BitVec 128 := s.ot.ents.get 0 s.ot.entry
      let r := s.migrateSome (oeLen src / 4096 - s.ot.gran)
      (r.ot.moving = some (m, dst) → r.ot = { s.ot with gran := r.ot.gran } ∧
        (oeLen dst / 4096 ≤ r.ot.gran → ∃ t : Mach, exec .migrationSwitch s = .next { s with toMach := t.pumpAllHx } ∧
          t = { s.toMach with ot := { r.ot with ents := s.ot.ents.put s.ot.entry dst, busy := false, err := 0, moving := none }
                              movers := t.movers, hbms := r.hbms, hmem := r.hmem, itg := r.itg, evc := t.evc } ∧
          (t.mover m).xfer = none ∧ (t.mover m).err = false ∧ (∀ k, k ≠ m → t.mover k = s.mover k) ∧ Mach.told s.toMach t 3) ∧
        (r.ot.gran < oeLen dst / 4096 → exec .migrationSwitch s = .next { s with toMach := r.pumpAllHx })) ∧
      (r.ot.moving = none → exec .migrationSwitch s = .next { s with toMach := r.pumpAllHx } ∧ r.ot.busy = false ∧
        r.ot.ents = s.ot.ents.put s.ot.entry (withState src 1) ∧ (r.mover m).xfer = none ∧ (r.mover m).err = true ∧ Mach.told s.toMach r 3)))

/-- Segments (R91, R92): a write of CDC_SEGSTATE_t sets each segment's state, a field of 3 kept, and loses what a segment holds that is off or leaves the off state; the change
ends on its own. A scrub zeroes the named segments of the die's tiles, and ends. -/
def Obligations.SegmentsChangeAndAreScrubbed : Prop :=
  ∀ (s : State) (who : Writer) (d : Nat) (v : Word), d < 4 →
    (∀ n, n < 1792 → s.mayWrite who (0x100_4000 + 0x40_0000 * d + 4 * n) → s.locked = false → s.unavail (1792 * d + n) = false →
      let old := (s.tile (1792 * d + n)).cfg.seg
      ∃ t, exec (.segstateWrite who d n v) s = .next t ∧ (∀ k, k ≠ 1792 * d + n → t.tile k = s.tile k) ∧ (t.die d).segBusy = true ∧
        (∀ g, g < 16 → let seg := (t.tile (1792 * d + n)).cfg.seg
          fld seg (2 * g + 1) (2 * g) = if fld v (2 * g + 1) (2 * g) = 3 then fld old (2 * g + 1) (2 * g) else fld v (2 * g + 1) (2 * g)) ∧
        (∀ b g, g < 16 → b / 65536 = g → fld old (2 * g + 1) (2 * g) ≠ 0 → fld v (2 * g + 1) (2 * g) ≠ 0 → (t.tile (1792 * d + n)).mem.byte b = (s.tile (1792 * d + n)).mem.byte b) ∧
        ∀ b g, g < 16 → b / 65536 = g → fld old (2 * g + 1) (2 * g) = 0 ∨ fld v (2 * g + 1) (2 * g) = 0 → (t.tile (1792 * d + n)).mem.byte b = unwritten) ∧
    ((s.die d).segBusy = true → ∃ t, exec (.segmentStateDone d) s = .next t ∧ t.toMach = { s.toMach with dies := t.dies } ∧
      t.die d = { s.die d with segBusy := false } ∧ ∀ k, k ≠ d → t.die k = s.die k) ∧
    (s.mayWrite who (0x100_3000 + 0x40_0000 * d) → s.locked = false → bit v 16 = true → (s.die d).segBusy = false → (s.die d).scrubBusy = false → s.hq.job = .idle →
      ∃ t, exec (.segctlScrub who d v) s = .next t ∧ (t.die d).scrubBusy = true ∧
        (∀ n, dieOf n = d → s.unavail n = false → ∀ g, g < 16 → bit v g = true → ∀ b, b / 65536 = g → fld (s.tile n).cfg.seg (2 * g + 1) (2 * g) = 2 → (t.tile n).mem.byte b = unwritten) ∧
        (∀ n, dieOf n ≠ d → t.tile n = s.tile n) ∧ t.hbms = s.hbms ∧ t.hub = s.hub) ∧
    ((s.die d).scrubBusy = true → ∃ t, exec (.scrubDone d) s = .next t ∧ t.toMach = { s.toMach with dies := t.dies } ∧
      t.die d = { s.die d with scrubBusy := false } ∧ ∀ k, k ≠ d → t.die k = s.die k)

/-! ## Power, clocks and resets -/

/-- A sample of a stack's base die sets its temperature and its thermal state: state k is entered at its threshold and left 3 degrees below it (R296); at 110 degrees the
stack trips (R470). A controller that does not recover marks its stack FAILED (R297). -/
def Obligations.StacksSampleAndFail : Prop :=
  ∀ (s : State) (n temp : Nat), n < 8 → (s.stack n).present = true →
    (temp < 110 ∨ (s.stack n).trip = true → ∃ t, exec (.hbmTempSample n temp) s = .next t ∧ t.toMach = { s.toMach with hbms := t.hbms, evc := t.evc } ∧
      t.stack n = { s.stack n with temp := min 255 temp, tstate := (t.stack n).tstate } ∧ (∀ k, k ≠ n → t.stack k = s.stack k) ∧
      (t.stack n).tstate ≤ 3 ∧ ∀ k h, (k, h) ∈ [(1, 85), (2, 95), (3, 105)] → (k ≤ (t.stack n).tstate ↔ h ≤ temp ∨ (k ≤ (s.stack n).tstate ∧ h - 3 ≤ temp))) ∧
    (110 ≤ temp → (s.stack n).trip = false → ∃ t, exec (.hbmTempSample n temp) s = .next t ∧ (t.stack n).trip = true ∧ t.pins.thermTrip = true ∧
      (s.tripped = false → t.clk.aclkOn = false ∧ t.hq.job ≠ .running) ∧ (t.stack n).mem = (s.stack n).mem ∧ t.hmem = s.hmem) ∧
    ((s.stack n).failed = false → ∃ t, exec (.hbmControllerFault n) s = .next t ∧ t.toMach = { s.toMach with hbms := t.hbms } ∧
      t.stack n = { s.stack n with failed := true, held := false } ∧ ∀ k, k ≠ n → t.stack k = s.stack k)

/-- Samples (R469, R470, R472): a temperature sample keeps each unit's temperature and the highest die temperature of the interval, sets C_th to 4 from 103 degrees, and
trips from 110; a power sample joins its interval and raises C_cap by 2 above 1.15 times the cap.
At the end of a thermal interval C_th rises by 1 from 100 degrees, holds from 92, and falls by 1 after ten cooler intervals (R469); at the end of a power interval above
the cap C_cap rises, then the HBM limiter, and after ten intervals below 0.85 of it the limiter falls first (R472). -/
def Obligations.SamplesAndIntervalsMoveCeilings : Prop :=
  (∀ (s : State),
    (∀ temps : List Nat, let xs := s.sampled temps
      let top := maxOr 0 ((xs.filter fun x => x.1 != 4).map fun x => x.2)
      ∃ t, exec (.dieTempSample temps) s = .next t ∧ (∀ x ∈ xs, SMap.get 0 t.pw.temps x.1 = min 255 x.2 ∧ min 255 x.2 ≤ SMap.get 0 t.pw.maxts x.1) ∧
        t.pw.hot = max s.pw.hot top ∧ (top < 103 → t.pw.cth = s.pw.cth) ∧ (103 ≤ top → t.pw.cth = 4) ∧
        ((∀ x ∈ xs, x.2 < 110) → t.toMach = { s.toMach with pw := t.pw, evc := t.evc }) ∧
        ((∃ x ∈ xs, 110 ≤ x.2 ∧ x.1 ∉ s.pw.trips) → t.pins.thermTrip = true ∧ (s.tripped = false → t.clk.aclkOn = false ∧ t.hq.job ≠ .running))) ∧
    (∀ w, ∃ t, exec (.powerSample w) s = .next t ∧ t.toMach = { s.toMach with pw := t.pw, evc := t.evc } ∧
      t.pw.peak = max s.pw.peak w ∧ t.pw.sum = s.pw.sum + w ∧ t.pw.cnt = s.pw.cnt + 1 ∧ t.pw.cth = s.pw.cth ∧ t.pw.lim = s.pw.lim ∧
      t.pw.ccap = if 115 * s.cap < 100 * w then min 4 (s.pw.ccap + 2) else s.pw.ccap)) ∧
  (∀ (s : State),
    (∃ t, exec .thermalIntervalEnd s = .next t ∧ t.toMach = { s.toMach with pw := t.pw, evc := t.evc } ∧ t.pw.hot = 0 ∧ t.pw.ccap = s.pw.ccap ∧ t.pw.lim = s.pw.lim ∧
      (100 ≤ s.pw.hot → t.pw.cth = min 4 (s.pw.cth + 1) ∧ t.pw.cool = 0) ∧ (92 ≤ s.pw.hot → s.pw.hot < 100 → t.pw.cth = s.pw.cth ∧ t.pw.cool = 0) ∧
      (s.pw.hot < 92 → s.pw.cool < 9 → t.pw.cth = s.pw.cth ∧ t.pw.cool = s.pw.cool + 1) ∧ (s.pw.hot < 92 → 9 ≤ s.pw.cool → t.pw.cth = s.pw.cth - 1 ∧ t.pw.cool = 0)) ∧
    (let n := max 1 s.pw.cnt
     ∃ t, exec .powerIntervalEnd s = .next t ∧ t.toMach = { s.toMach with pw := t.pw, evc := t.evc } ∧ t.pw.sum = 0 ∧ t.pw.cnt = 0 ∧ t.pw.peak = 0 ∧
      t.pw.avg = s.pw.sum / n ∧ t.pw.lastPeak = s.pw.peak ∧ t.pw.cth = s.pw.cth ∧
      (s.cap * n < s.pw.sum → t.pw.low = 0 ∧ (s.pw.ccap < 4 → t.pw.ccap = s.pw.ccap + 1 ∧ t.pw.lim = s.pw.lim) ∧ (4 ≤ s.pw.ccap → t.pw.ccap = s.pw.ccap ∧ t.pw.lim = min 2 (s.pw.lim + 1))) ∧
      (s.pw.sum ≤ s.cap * n → 100 * s.pw.sum < 85 * s.cap * n → s.pw.low < 9 → t.pw.low = s.pw.low + 1 ∧ t.pw.ccap = s.pw.ccap ∧ t.pw.lim = s.pw.lim) ∧
      (s.pw.sum ≤ s.cap * n → 100 * s.pw.sum < 85 * s.cap * n → 9 ≤ s.pw.low → t.pw.low = 0 ∧ (s.pw.lim ≠ 0 → t.pw.lim = s.pw.lim - 1 ∧ t.pw.ccap = s.pw.ccap) ∧
        (s.pw.lim = 0 → t.pw.lim = 0 ∧ t.pw.ccap = s.pw.ccap - 1)) ∧
      (s.pw.sum ≤ s.cap * n → 85 * s.cap * n ≤ 100 * s.pw.sum → t.pw.low = 0 ∧ t.pw.ccap = s.pw.ccap ∧ t.pw.lim = s.pw.lim)))

/-- A change of ACLK (R465 to R467): down it is armed for the target, up for the next code; a frequency point applies it; a regulator that misses its voltage holds C_max at
the code in force. -/
def Obligations.AclkChangesAreArmedAndSwitched : Prop :=
  ∀ (s : State), s.clk.aclkOn = true →
    (s.pw.armed = none → s.target ≠ s.clk.code → (s.target < s.clk.code → s.mayRise = true) → ∃ t, exec .aclkChangeArmed s = .next t ∧
      t.toMach = { s.toMach with pw := { s.pw with armed := some (if s.clk.code < s.target then s.target else s.clk.code - 1), point := none } }) ∧
    (∀ c, s.pw.armed = some c → s.pw.st = 0 → (s.hq.job = .running → s.pw.point = some s.clk.aclk) → ∃ t, exec .aclkSwitch s = .next t ∧
      t.toMach = { s.toMach with clk := { s.clk with code := c }, pw := { s.pw with armed := none, point := none, lastChange := some s.clk.tb.toNat }, evc := t.evc } ∧
      (bit (s.reg (srcCfg 0x190)) 31 = true → (SMap.get ({} : EvSrc) t.evc.srcs 0x190).pend = true)) ∧
    (s.vpend = true → ∃ t, exec .regulatorTimeout s = .next t ∧ t.toMach = { s.toMach with pw := t.pw, evc := t.evc } ∧ t.pw.held = some s.clk.code ∧ t.pw.armed = none ∧
      t.cMax = s.clk.code ∧ (bit (s.reg (srcCfg 0x198)) 31 = true → (SMap.get ({} : EvSrc) t.evc.srcs 0x198).pend = true))

/-- The idle package enters the deepest state allowed (R476), from A3 on only a deeper one (the model's reading, log entry 38): ACLK stops, and from A3 on tile memory is
lost; a wake returns it to A0 with its cause counted. The timer's event comes once (R475), and the width of a host link in FLIT mode follows its use (R477). -/
def Obligations.PackageStatesEnterAndWake : Prop :=
  ∀ (s : State),
    (∀ st, s.pkgIdle = true → 1 ≤ st → st ≤ 4 → s.stateOk st = true → (∀ k, st < k → k ≤ 4 → s.stateOk k = false) → st ≠ s.pw.st → (3 ≤ s.pw.st → s.pw.st ≤ st) →
      ∃ t, exec .packageStateEnter s = .next t ∧ t.pw.st = st ∧ t.clk = { s.clk with aclkOn := false, hclkOn := s.clk.hclkOn && decide (st < 4) } ∧ t.hmem = s.hmem ∧
        (st < 3 → t.toMach = { s.toMach with clk := t.clk, pw := t.pw, evc := t.evc }) ∧ (3 ≤ st → ∀ n, (t.tile n).mem = []) ∧ (st = 4 → ∀ n, (t.stack n).mem = []) ∧
        (st < 4 → ∀ n, (t.stack n).mem = (s.stack n).mem)) ∧
    (∀ cause, s.pw.st ≠ 0 → 2 ≤ cause → cause ≤ 7 → ∃ t, exec (.packageWake cause) s = .next t ∧
      t.pw.st = 0 ∧ t.pw.wake = cause ∧ t.pw.nwake = min 0xFFFF (s.pw.nwake + 1) ∧ t.clk.hclkOn = true ∧ t.clk.tb = s.clk.tb ∧
      (s.tripped = false → s.part.dies ≠ [] → t.clk.aclkOn = true) ∧ t.clk.code = (if 3 ≤ s.pw.st then 2 else s.clk.code) ∧
      t.toMach = { s.toMach with clk := t.clk, pw := t.pw, pins := t.pins, dil := t.dil } ∧ (s.pw.st < 3 → t.pins = s.pins ∧ t.dil = s.dil)) ∧
    (bit (s.reg 0x3_0020) 30 = true → s.pw.fired = false → s.pw.timer ≤ s.clk.tb.toNat → ∃ t, exec .crpTimerExpiry s = .next t ∧
      t.toMach = { s.toMach with pw := { s.pw with fired := true }, evc := t.evc } ∧ (bit (s.reg (srcCfg 0x197)) 31 = true → (SMap.get ({} : EvSrc) t.evc.srcs 0x197).pend = true)) ∧
    (∀ use, s.hq.linkUp = true → s.hq.pci.flit = true → ∃ t, exec (.l0pIntervalEnd use) s = .next t ∧ t.toMach = { s.toMach with pw := { s.pw with l0p := t.pw.l0p } } ∧
      (s.pw.st = 2 → t.pw.l0p = 2) ∧ (s.pw.st ≠ 2 → 60 < use → t.pw.l0p = 16) ∧ (s.pw.st < 2 → use < 25 → t.pw.l0p = max 4 (s.pw.l0p / 2)) ∧
      (s.pw.st ≠ 2 → 25 ≤ use → use ≤ 60 → t.pw.l0p = s.pw.l0p))

/-- A cold reset of the hub, of a lost crystal or of the AON supplies returns everything but what fuses, flash, straps and pins hold, and boots from S0; a warm reset keeps
the AON domain, the timebase and CRP_SSC, and boots from S1 (R463, R478, R517): by a stage's failure, by Brim's watchdog, which first starts a flash copy, by a write of
0x5752 to CRP_RSTCMD, or as the recovery from a trip once every sensor is below 90 degrees. Each first leaves a Hatbox record of KIND 13 with its cause in DATA word 4,
but where the AON domain, and the Hatbox with it, is lost; RESET_N waits for a flash copy that runs. XTAL1's start shows in XT1 (R458). -/
def Obligations.ResetsRestartTheHub : Prop :=
  ∀ (s : State),
    let kept := fun (t : State) => t.pending = s.pending ∧ t.hmem = s.hmem ∧ t.fuseFences = s.fuseFences ∧ t.flashFences = s.flashFences ∧ t.boots = s.boots ∧ t.sec.lcFuse = s.sec.lcFuse ∧
      t.sec.roots = s.sec.roots ∧ t.sec.svn = s.sec.svn ∧ t.sec.kill = s.sec.kill ∧ t.sec.f = s.sec.f ∧ t.sec.flash = s.sec.flash ∧ t.sec.jflash = s.sec.jflash ∧
      t.pw.straps = s.pw.straps ∧ t.pins.pwrEn = 0
    let lost := fun (t : State) => t.tiles = [] ∧ t.regs = [] ∧ t.hub = [] ∧ t.hbms = [] ∧ t.gscs = [] ∧ t.dies = [] ∧ t.groups = [] ∧ t.flight = [] ∧ t.msgs = [] ∧
      t.itg = {} ∧ t.trw = {} ∧ t.dig = {} ∧ t.ot = {} ∧ t.movers = [] ∧ t.evc = {} ∧ t.shadow = [] ∧ t.lows = [] ∧ t.qch = [] ∧
      t.hq = { linkUp := false } ∧ t.clk.aclkOn = false ∧ t.clk.aclk = 0 ∧ t.part.dies = [] ∧ t.part.caps = 0 ∧ t.sec.done = false ∧ t.sec.spdm = {} ∧ t.sec.boxes = []
    let cold := fun (t : State) (c : Nat) => kept t ∧ lost t ∧ t.clk.tb = 0 ∧ t.sec.stage = 0 ∧ t.pw.cold = true ∧ t.pw.cause = c ∧ t.pw.ssc = 0 ∧ t.dil = {}
    let warm := fun (t : State) (c : Nat) => kept t ∧ lost t ∧ t.clk.tb = s.clk.tb ∧ t.sec.stage = 1 ∧ t.pw.cold = false ∧ t.pw.cause = c ∧ t.pw.ssc = s.pw.ssc
    let told := fun (t : State) (c : Nat) => t.hbx.seq = s.hbx.seq + 1 ∧ t.sec.jaon = s.sec.jaon ∧ t.sec.w = s.sec.w ∧
      (∀ k, k ≠ s.hbx.next → SMap.get [] t.hbx.recs k = SMap.get [] s.hbx.recs k) ∧
      (let r : List Word := t.hbx.recs.get [] s.hbx.next
       r.length = 16 ∧ fld (r.getD 0 0) 23 16 = 13 ∧ r.getD 4 0 = BitVec.ofNat 32 c)
    let gone := fun (t : State) => t.hbx.recs = [] ∧ t.sec.jaon = [] ∧ t.sec.w = none
    (∃ t, exec .xtal0Loss s = .next t ∧ cold t 4 ∧ told t 4) ∧
    (∀ c, (c = 2 ∧ s.hbx.copying = false) ∨ c = 3 ∨ c = 5 → ∃ t, exec (.coldReset c) s = .next t ∧ cold t c ∧ told t c) ∧
    (s.hbx.copying = true → ∃ t, exec (.coldReset 2) s = .next t ∧ t.toMach = { s.toMach with pins := { s.pins with resetWait := true, pwrEn := 0 } }) ∧
    (∃ t, exec (.coldReset 1) s = .next t ∧ cold t 1 ∧ gone t) ∧
    (∃ t, exec .aonSupplyLoss s = .next t ∧ cold t 1 ∧ gone t) ∧
    (∀ c, c = 6 ∨ c = 7 ∨ c = 8 → ∃ t, exec (.warmReset c) s = .next t ∧ warm t c ∧ told t c) ∧
    (s.tripped = true → (∀ x ∈ s.pw.temps, x.2 < 90) → (∀ x ∈ s.hbms, x.2.temp < 90) → ∃ t, exec (.warmReset 9) s = .next t ∧ warm t 9 ∧ told t 9) ∧
    (∀ who v, s.mayWrite who 0x3_0054 → fld v 15 0 = 0x5752 → ∃ t, exec (.crpRstcmd who v) s = .next t ∧ warm t 8 ∧ told t 8) ∧
    (∃ t, exec .xtal1Start s = .next t ∧ t.toMach = { s.toMach with pw := { s.pw with xt1 := true } })

/-! ## The host interface -/

/-- A doorbell that makes a valid move gives its ring the new index, tail or head, and no other ring changes; one with an index out of range or with too many entries
stops its ring (R380). Each takes the host link back to x16 (R477).
A ring disabled has its pointers, its phase and what it had fetched or not yet written back at reset, with its base as it was (R381). A descriptor fetched waits in its ring's order, or a failed fetch stops the ring (R380, R384). A
completion entry goes into host memory with PHASE set as its ring's turn asks, and its command ring may start its next command (R377, R383). -/
def Obligations.DoorbellsFetchesAndPostsMoveRings : Prop :=
  (∀ (s : State) (p : Nat) (v : Word),
    let moved := fun (t : State) (r : Nat) (x : Ring) => t.toMach = { s.toMach with hq := t.hq, pw := { s.pw with l0p := 16 } } ∧ t.ring r = x ∧
      (∀ k, k ≠ r → t.ring k = s.ring k) ∧ t.hq.err = s.hq.err ∧ t.hq.job = s.hq.job
    let bad := fun (r : Nat) (tail : Bool) => s.ringEn r = true ∧ (s.ring r).stopped = false ∧ (s.ringSize r ≤ v.toNat ∨
      (if tail then s.ringSize r - 1 - s.ringOcc r else s.ringOcc r) < (v.toNat % 2 ^ 16 + s.ringSize r - (if tail then (s.ring r).tail else (s.ring r).head)) % s.ringSize r)
    let stopped := fun (t : State) (r : Nat) => t.ring r = { s.ring r with stopped := true } ∧ (∀ k, k ≠ r → t.ring k = s.ring k) ∧ s.told t.toMach 0
    let tails := fun (r : Nat) (c : Instr) => (s.doorbellOk r v true → ∃ t, exec c s = .next t ∧ moved t r { s.ring r with tail := v.toNat }) ∧
      (bad r true → ∃ t, exec c s = .next t ∧ stopped t r)
    let heads := fun (r : Nat) (c : Instr) => (s.doorbellOk r v false → ∃ t, exec c s = .next t ∧ moved t r { s.ring r with head := v.toNat }) ∧
      (bad r false → ∃ t, exec c s = .next t ∧ stopped t r)
    (p < 16 → s.mayWrite .host (0x10_0000 + 0x1000 * p) → tails p (.doorbellCmdTail p v)) ∧
    (p < 16 → s.mayWrite .host (0x10_0004 + 0x1000 * p) → heads (16 + p) (.doorbellCplHead p v)) ∧
    (p < 4 → s.mayWrite .host (0x10_0008 + 0x1000 * p) → tails (32 + p) (.doorbellQueryTail p v)) ∧
    (p < 4 → s.mayWrite .host (0x10_000C + 0x1000 * p) → heads (36 + p) (.doorbellQcplHead p v)) ∧
    (s.mayWrite .host 0x10_0010 → heads 40 (.doorbellEventHead v))) ∧
  (∀ (s : State),
    (∀ (who : Writer) (r : Nat) (v : Word), r < 41 → s.mayWrite who (ringCfg r) → bit v 31 = false →
      ∃ t, exec (.ringDisable who r v) s = .next t ∧ t.toMach = { s.toMach with hq := t.hq, evc := t.evc, regs := t.regs } ∧ t.ringEn r = false ∧
        t.ring r = { busy := (s.ring r).busy } ∧ (∀ k, 16 ≤ k → k ≠ r → t.ring k = s.ring k) ∧ (r = 40 → t.evc.hostQ = []) ∧ t.ringBase r = s.ringBase r) ∧
    (∀ r, r < 16 → s.ringEn r = true → (s.ring r).stopped = false → (s.ring r).head ≠ (s.ring r).tail → (s.ring r).fetched.length < 4 → s.hostUp = true →
      (s.ringFull (s.cplRing r) = true → (s.ring (s.cplRing r)).waiting = []) →
      let d := s.hostWords (s.ringBase r + 64 * (s.ring r).head) 16
      (∃ t, exec (.descriptorFetch r false) s = .next t ∧
        t.toMach = { s.toMach with hq := { s.hq with rings := t.hq.rings, jcOrder := if isJobControl (fld (dv d 0) 7 0) then s.hq.jcOrder ++ [r] else s.hq.jcOrder } } ∧
        t.ring r = { s.ring r with fetched := (s.ring r).fetched ++ [d], head := ((s.ring r).head + 1) % s.ringSize r } ∧ ∀ k, k ≠ r → t.ring k = s.ring k) ∧
      (∃ t, exec (.descriptorFetch r true) s = .next t ∧ t.toMach = { s.toMach with hq := t.hq, evc := t.evc } ∧ s.told t.toMach 0 ∧
        t.ring r = { s.ring r with stopped := true } ∧ ∀ k, k ≠ r → t.ring k = s.ring k)) ∧
    (∀ p e rest, p < 16 → (s.ring (16 + p)).waiting = e :: rest → s.ringTakes (16 + p) = true →
      let x := s.ring (16 + p)
      let tail := (x.tail + 1) % s.ringSize (16 + p)
      ∃ t, exec (.completionEntryWrite p) s = .next t ∧
        t.toMach = { s.toMach with hq := t.hq, hmem := s.hmem.setBytes (s.ringBase (16 + p) + 16 * x.tail) (bytesOfWords (withPhase x.phase e)) } ∧
        t.ring (16 + p) = { x with waiting := rest, tail := tail, phase := if tail = 0 then !x.phase else x.phase } ∧
        (fld (e.getD 0 0) 7 0 ≠ 0x1F → (t.ring (fld (e.getD 1 0) 3 0)).busy = false)))

/-- NOP, STOP and POWERCAP complete with OK and their own effect alone: none, the stop request, the cap's level (R386, R471). A command with an undefined OP completes with BAD_OP,
one with a bad field with BAD_FIELD and the word's index, and one that the job's state does not accept with STATE, and none of these changes anything else. -/
def Obligations.SimpleHostCommandsComplete : Prop :=
  ∀ (s : State) (r : Nat) (d : List Word) (rest : List (List Word)),
    (s.starts r 0x00 d rest → ∃ t, exec (.nop r) s = .next t ∧ s.answered t.toMach r d rest 0x00 0 0 0 ∧
      t.toMach = { s.toMach with hq := { s.hq with rings := t.hq.rings } }) ∧
    (s.starts r 0x12 d rest → ∃ t, exec (.stop r) s = .next t ∧ s.answered t.toMach r d rest 0x12 0 0 0 ∧
      t.toMach = { s.toMach with hq := { s.hq with rings := t.hq.rings, jcOrder := s.hq.jcOrder.drop 1, stopReq := true } }) ∧
    (s.starts r 0x32 d rest → ∃ t, exec (.powercap r) s = .next t ∧ s.answered t.toMach r d rest 0x32 0 0 0 ∧ t.reg 0x3_0008 = BitVec.ofNat 32 (fld (dv d 2) 1 0) ∧
      t.toMach = { s.toMach with hq := { s.hq with rings := t.hq.rings }, regs := t.regs, pw := { s.pw with armed := t.pw.armed, point := t.pw.point }, evc := t.evc } ∧
      ∀ off, off ≠ 0x3_0008 → t.reg off = s.reg off) ∧
    (r < 16 → (s.ring r).fetched = d :: rest → (s.ring r).busy = false → s.ringEn (s.cplRing r) = true →
      let only := fun (t : State) => t.toMach = { s.toMach with hq := { s.hq with rings := t.hq.rings } }
      let op := fld (dv d 0) 7 0
      (opDefined op = false → ∃ t, exec (.nop r) s = .next t ∧ s.answered t.toMach r d rest op 1 0 0 ∧ only t) ∧
      (op = 0x32 → ∀ i, s.badField op d = some i → ∃ t, exec (.powercap r) s = .next t ∧ s.answered t.toMach r d rest op 2 i 0 ∧ only t) ∧
      (op = 0x21 → s.trw.snap = none → s.badField op d = none → s.accepts op = false → ∃ t, exec (.snap r) s = .next t ∧
        s.answered t.toMach r d rest op 3 s.hq.job.num 0 ∧ only t))

/-- START releases every tile of the job at its entry point in one cycle, with its counters, position and step as R58, R97, R244 and R417 set them (no sync tree is in use).
RESTART from PAUSED restores every tile and waits at the barrier (R420, R421); while RUNNING it is a replay trigger (R419). -/
def Obligations.JobsStartAndRestart : Prop :=
  ∀ (s : State) (r : Nat) (d : List Word) (rest : List (List Word)), (∀ g, g < 16 → bit (s.reg (sgt0 g)) 31 = false) →
    (s.starts r 0x11 d rest → s.segsBusy = false → s.treeOff = none → ∃ t, exec (.start r) s = .next t ∧ s.answered t.toMach r d rest 0x11 0 0 0 ∧
      t.hq.job = .running ∧ t.hq.stopReq = false ∧ t.hq.jcBusy = false ∧ t.itg.attempt = 1 ∧ t.itg.epoch = 1 ∧ t.groups = [] ∧ t.flight = [] ∧ t.msgs = [] ∧
      ∀ n, let a := s.tile n; let b := t.tile n
        (a.tsq.inJob = false → b = a) ∧
        (a.tsq.inJob = true → b.tsq.started = true ∧ b.tsq.halted = false ∧ b.tsq.main = { pc := a.tsq.entryPc } ∧ b.tsq.sr = 0 ∧ b.tsq.phase = .compute ∧ b.lscs = [] ∧
          b.slots = [] ∧ b.rng = [] ∧ b.engs = [] ∧ b.tfr = {} ∧ b.tm.relAt = some s.clk.aclk ∧ b.tm.p = false ∧ b.tm.step = s.reg (cdc (dieOf n) 0x101_E008) ∧
          b.tm.repc = a.tsq.entryPc ∧ b.mem = a.now.mem ∧ b.acts = [] ∧ b.tab = a.tab ∧ b.cfg = a.cfg)) ∧
    (s.starts r 0x14 d rest → s.hq.job = .paused → s.itg.rgWritten = false → ∃ t, exec (.restart r) s = .next t ∧ s.left t.toMach r rest ∧
      t.hq.restarting.isSome = true ∧ t.hq.jcBusy = true ∧ t.hq.job = .paused ∧ t.itg.phase = .barrier ∧ t.itg.attempt = 1 ∧ t.groups = [] ∧
      ∀ n, let a := s.tile n; let b := t.tile n
        (a.tsq.inJob = false → b = a) ∧
        (a.tsq.inJob = true → b.tsq.started = false ∧ b.tsq.main = { pc := a.tm.repc } ∧ b.tsq.sr = 0 ∧ b.lscs = [] ∧ b.slots = [] ∧ b.rng = [] ∧ b.engs = [] ∧ b.tfr = {} ∧
          b.mem = a.now.mem ∧ b.acts = [] ∧ b.tm.p = a.tm.p ∧ b.tm.step = a.tm.step ∧ b.tm.repc = a.tm.repc)) ∧
    (s.starts r 0x14 d rest → s.hq.job = .running → s.itg.phase = .idle → bit (s.reg 0x6_0010) 31 = true → s.itg.attempt ≠ 3 →
      ∃ t, exec (.restart r) s = .next t ∧ s.left t.toMach r rest ∧ t.hq.restarting.isSome = true ∧ t.itg.phase = .quiesce ∧ t.itg.trig = 2 ∧
        t.itg.epoch = (s.itg.epoch + 1) % 256 ∧ t.itg.attempt = s.itg.attempt + 1 ∧ t.flight = [] ∧ t.msgs = [] ∧
        ∀ n, (s.tile n).tsq.inJob = true → (t.tile n).tsq.started = false ∧ (t.tile n).mem = (s.tile n).mem)

/-- ABORT ends the job with every tile of it halted (R386); UNLOAD leaves the job IDLE, the tile domain at reset and PKGIDX at 0xFF (R493; PKGIDX is the model's reading, log entry 42);
it waits while an hb. command or an hx.move of the job's tiles cannot end (R298); a job whose tiles have all halted is PAUSED where the stop request was set and ENDED otherwise, and its queries are aborted (R59, R321, R386). -/
def Obligations.JobsEnd : Prop :=
  ∀ (s : State) (r : Nat) (d : List Word) (rest : List (List Word)),
    (s.starts r 0x13 d rest → ∃ t, exec (.abort r) s = .next t ∧ t.hq.job = .ended ∧ t.itg.phase = .idle ∧ t.groups = [] ∧ t.hq.queries = [] ∧
      ∀ n, (t.tile n).tsq.inJob = true → (t.tile n).tsq.halted = true) ∧
    (s.starts r 0x15 d rest → s.drainJob.inFlight = true → ∃ t, exec (.unload r) s = .next t ∧ t.toMach = s.drainJob) ∧
    (s.starts r 0x15 d rest → s.drainJob.inFlight = false → ∃ t, exec (.unload r) s = .next t ∧ t.hq.job = .idle ∧ t.groups = [] ∧ t.flight = [] ∧ t.msgs = [] ∧ t.hq.queries = [] ∧ t.qch = [] ∧
      t.pkgIdx = 0xFF ∧ ∀ n, (t.tile n).tsq = {} ∧ (t.tile n).engs = [] ∧ (t.tile n).tab = {} ∧ (t.tile n).lscs = [] ∧ (t.tile n).tfr = {}) ∧
    (s.jobHalted = true → ∃ t, exec .jobEnd s = .next t ∧ t.hq.job = (if s.hq.stopReq then .paused else .ended) ∧ t.hq.queries = [] ∧ t.tiles = s.tiles ∧
      t.itg = { s.itg with phase := .idle, pendTrig := none } ∧
      ∀ c, s.hq.starter = some c → c.ring < 16 → s.ringEn (s.cplRing c.ring) = true → (t.ring (s.cplRing c.ring)).waiting =
        (s.ring (s.cplRing c.ring)).waiting ++ [[mkWord [(16, c.cid), (8, 0), (0, 0x1F)], mkWord [(16, c.sqhead), (0, c.ring)], BitVec.ofNat 32 (b2n s.hq.stopReq),
          BitVec.ofNat 32 (SMap.get 0 s.trw.outcome 0 % 2 ^ 31)]])

/-- COPY starts a transfer on its mover (R388); SNAP starts a snapshot (R322); READREG writes the values read and both timestamps from the device address on (R388); FITTING that verifies
runs its groups and completes with OK where no test fails, and one that does not verify completes with VERIFY (R414, R440). -/
def Obligations.DataCommandsRun : Prop :=
  ∀ (s : State) (r : Nat) (d : List Word) (rest : List (List Word)),
    let m := fld (dv d 7) 4 0
    let m0 := { s.toMach with hq := { s.hq with rings := SMap.upd {} s.hq.rings r fun y => { y with fetched := rest, busy := true } } }
    (s.starts r 0x20 d rest → s.moverBusy m = false → ∃ t, exec (.copy r) s = .next t ∧ s.left t.toMach r rest ∧
      t.toMach = { s.toMach with hq := { s.hq with rings := t.hq.rings }, movers := t.movers } ∧ (∀ k, k ≠ m → t.mover k = s.mover k) ∧
      ∃ x c, (t.mover m).xfer = some x ∧ x.user = .copy c ∧ c.desc = d ∧ c.ring = r ∧ x.src = descAddr d 2 ∧ x.dst = descAddr d 4 ∧ x.n = fld (dv d 6) 27 0 + 1 ∧
        x.sigk = fld (dv d 7) 9 8 ∧ x.gsc = fld (dv d 8) 9 0 ∧ x.stile = fld (dv d 8) 12 0 ∧ x.ctr = fld (dv d 8) 19 16) ∧
    (s.starts r 0x21 d rest → s.trw.snap = none → ∃ t, exec (.snap r) s = .next t ∧ s.left t.toMach r rest ∧
      t.toMach = { s.toMach with hq := { s.hq with rings := t.hq.rings }, movers := t.movers, trw := { s.trw with snap := t.trw.snap }, free := t.free } ∧
      ∃ x, t.trw.snap = some x ∧ (∀ st, s.trw.lastCommit = some st → x.step = st ∧ t.free = s.free) ∧ x.dst = descAddr d 2 ∧ x.exts = s.snapExtents ∧ x.buf = none ∧ x.torn = none ∧ x.start = s.clk.tb.toNat) ∧
    (s.starts r 0x31 d rest → s.rangeWaits (descAddr d 4) (cdiv (fld (dv d 3) 11 0 + 5) 8) = false → let q := Mach.readRegs (fld (dv d 3) 11 0 + 1) (dw d 2) m0
      ∀ ws, q.1 = some ws → let tb := fun (x : Mach) => [x.clk.tb.setWidth 32, (x.clk.tb >>> 32).setWidth 32]
        let p := Mach.putLines (cutLines (ws ++ tb s.toMach ++ tb q.2)) (descAddr d 4) q.2
        p.2 = none → ws.length = fld (dv d 3) 11 0 + 1 ∧ ∃ t, exec (.readreg r) s = .next t ∧ t.toMach = { p.1 with hq := { p.1.hq with rings := t.hq.rings } } ∧
          (p.1.hq.rings = m0.hq.rings → p.1.regs = s.regs → s.answered t.toMach r d rest 0x31 0 0 0)) ∧
    (∀ f ws, s.starts r 0x30 d rest → s.pw.st < 3 → s.rangeWaits (descAddr d 2) (cdiv (dw d 4) 32) = false → s.readLines (cdiv (dw d 4) 32) (descAddr d 2) = .ok ws →
      let c := Mach.countRead (cdiv (dw d 4) 32) (descAddr d 2) s.toMach
      (f.code = 1 ∨ f.code = 2 → ∃ t, exec (.fitting r f) s = .next t ∧ s.answered t.toMach r d rest 0x30 0x20 f.code 0 ∧
        t.toMach = { c with hq := { s.hq with rings := t.hq.rings, jcOrder := s.hq.jcOrder.drop 1 } }) ∧
      (f.code = 0 → f.fails = [] → ∃ t, exec (.fitting r f) s = .next t ∧ s.answered t.toMach r d rest 0x30 0 0 0 ∧
        t.toMach = { c with hq := { s.hq with rings := t.hq.rings, jcOrder := s.hq.jcOrder.drop 1 }, sec := t.sec, itg := t.itg, evc := t.evc } ∧
        t.itg = { c.itg with fitBusy := false, fitSrc := 1, gfail := 0, fitRuns := min 0xFFFF (s.itg.fitRuns + 1) } ∧ s.told t.toMach 0x1A5))

/-- A window closes once the timebase has left it (R303). A query fetched from its ring waits for delivery, with the fields of its descriptor, one with a bad descriptor or past its deadline
ends at once, and one still waiting at its deadline expires (R319, R320, R392); its completion is written with the time of the answer, which decides whether it is late (R321, R392).
A snapshot that no commit mark has torn copies every line of its extents and ends as complete: the mover is free, its buffer is the last complete one, and the event is raised
(R323, R324); one that a commit mark has stopped ends as torn, and one that meets an error as failed, each with the event. -/
def Obligations.WindowsQueriesAndSnapshotsEnd : Prop :=
  (∀ (s : State),
    (∀ w, s.winLog = some w → let j := s.trw.winIdx
     j < s.clk.tb.toNat / 2 ^ w → ∃ t, exec .windowClose s = .next t ∧ s.told t.toMach 5 ∧
       t.toMach = { s.toMach with trw := { s.trw with winCnt := SMap.get [] s.trw.win j, win := s.trw.win.del j, winStart := j * 2 ^ w, winIdx := j + 1 }, evc := t.evc }) ∧
    (∀ r i, r < 4 → s.ringEn (32 + r) = true → (s.ring (32 + r)).stopped = false → (s.ring (32 + r)).head ≠ (s.ring (32 + r)).tail → bit (s.qtgt r) 31 = true →
      (s.ringFull (36 + r) = true → SMap.get [] s.hq.qcpl r = []) → s.hostUp = true → ((upTo 4096).find? fun i => !(s.qidUsed i)) = some i →
      let d := s.hostWords (s.ringBase (32 + r) + 32 * (s.ring (32 + r)).head) 8
      let q : Query := {
        qid := i, ring := r, tag := dv d 0, plen := fld (dv d 1) 10 0, cap := fld (dv d 1) 27 16 + 1, deadline := dw d 2 + dw d 3 * 2 ^ 32
        paddr := dw d 4 + fld (dv d 5) 15 0 * 2 ^ 32, aaddr := dw d 6 + fld (dv d 7) 15 0 * 2 ^ 32 }
      let good := fld (dv d 1) 15 11 = 0 ∧ fld (dv d 1) 31 28 = 0 ∧ fld (dv d 5) 31 16 = 0 ∧ fld (dv d 7) 31 16 = 0 ∧ q.plen ≠ 0 ∧ q.paddr % 32 = 0 ∧ q.aaddr % 32 = 0
      let ends := fun (st : Nat) (t : State) => t.hq.queries = (s.hq.queries.filter fun x => x.qid != i) ∧ SMap.get [] t.hq.qcpl r = SMap.get [] s.hq.qcpl r ++
        [{ qid := some i, tag := q.tag, lines := 0, status := st, deadline := q.deadline }]
      ∃ t, exec (.queryFetch r) s = .next t ∧ t.toMach = { s.toMach with hq := t.hq, trw := t.trw } ∧
        t.ring (32 + r) = { s.ring (32 + r) with head := ((s.ring (32 + r)).head + 1) % s.ringSize (32 + r) } ∧
        (good → s.clk.tb.toNat < q.deadline → t.hq.queries = s.hq.queries ++ [q] ∧ t.hq.qcpl = s.hq.qcpl) ∧
        (good → q.deadline ≤ s.clk.tb.toNat → ends 3 t) ∧ (¬ good → ends 5 t)) ∧
    (∀ r q, s.qHead r = some q → q.deadline ≤ s.clk.tb.toNat → ∃ t, exec (.queryExpiry r) s = .next t ∧ t.toMach = { s.toMach with hq := t.hq, trw := t.trw } ∧
      t.hq.queries = (s.hq.queries.filter fun x => x.qid != q.qid) ∧ SMap.get 0 t.trw.exp r = min 0xFFFF (SMap.get 0 s.trw.exp r + 1) ∧
      SMap.get [] t.hq.qcpl r = SMap.get [] s.hq.qcpl r ++ [{ qid := some q.qid, tag := q.tag, lines := 0, status := 3, deadline := q.deadline }]) ∧
    (∀ r c rest, r < 4 → SMap.get [] s.hq.qcpl r = c :: rest → s.ringTakes (36 + r) = true →
      let tb := s.clk.tb.toNat
      let late := c.status = 0 ∧ c.deadline ≤ tb
      let x := s.ring (36 + r)
      ∃ t, exec (.queryCompletionWrite r) s = .next t ∧ SMap.get [] t.hq.qcpl r = rest ∧ (t.ring (36 + r)).tail = (x.tail + 1) % s.ringSize (36 + r) ∧
        (late → t.hmem = s.hmem.setBytes (s.ringBase (36 + r) + 16 * x.tail) (bytesOfWords (withPhase x.phase
          [c.tag, mkWord [(16, c.lines), (0, 1)], BitVec.ofNat 32 tb, BitVec.ofNat 32 (tb / 2 ^ 32)])) ∧ SMap.get 0 t.trw.late r = min 0xFFFF (SMap.get 0 s.trw.late r + 1)) ∧
        (¬ late → t.trw = s.trw ∧ t.hmem = s.hmem.setBytes (s.ringBase (36 + r) + 16 * x.tail) (bytesOfWords (withPhase x.phase
          [c.tag, mkWord [(16, c.lines), (0, c.status)], BitVec.ofNat 32 tb, BitVec.ofNat 32 (tb / 2 ^ 32)])))) ∧
    (∀ q ls, s.qNext = some q → s.clk.tb.toNat < q.deadline → let r := q.ring
      let c : SendCh := s.qch.get {} r
      let need := 8 * (q.plen + 2)
      c.closed = false → c.place (s.qSize r) need = 1 → s.qPayload q.paddr false q.plen 0 = some ls →
      ∃ t, exec (.queryDelivery false) s = .next t ∧ SMap.get ({} : SendCh) t.qch r = { c with tail := (c.tail + need) % s.qSize r, credit := c.credit - need, seq := (c.seq + 1) % 2 ^ 16 } ∧
        t.hq.queries = (s.hq.queries.map fun x => if x.qid == q.qid then { x with delivered := true } else x) ∧
        ∃ m, m ∈ t.msgs ∧ m.kind = .record ∧ m.ch = r ∧ m.tag = q.qid ∧ m.dtile = fld (s.qtgt r) 12 0 ∧ m.lines.drop 1 = ls ∧ m.seq = c.seq)) ∧
  (∀ (s : State) (x : Snap), s.trw.snap = some x → (∀ y, (s.mover x.mover).xfer = some y → ∃ c, y.user = .snap c) → x.cmd = none → s.snapWaits x = false →
    (∀ y ∈ s.tiles, (y.2.eng 8).waiting = []) →
    let m := { s.toMach with free := s.free + 2 }
    let r := match x.torn with
      | none => Mach.snapCopy x.dst false x.srcs.length x.srcs 0 0 m
      | some p => (m, p)
    (r.2.2 = none → x.torn.isSome → ∃ t, exec (.snapshotEnd false) s = .next t ∧ t.trw.snap = none ∧ t.trw.result = 1 ∧ (t.mover x.mover).xfer = none ∧
      (t.mover x.mover).done = min 0xFFFF ((r.1.mover x.mover).done + 1) ∧ t.trw.good = r.1.trw.good ∧ s.told t.toMach 6) ∧
    (r.2.2 = none → x.torn = none → ∃ t, exec (.snapshotEnd false) s = .next t ∧ t.trw.snap = none ∧ t.trw.result = 0 ∧ (t.mover x.mover).xfer = none ∧
      (t.mover x.mover).done = min 0xFFFF ((r.1.mover x.mover).done + 1) ∧ (∀ b, x.buf = some b → t.trw.good = some b ∧ t.trw.buf = b) ∧ s.told t.toMach 6) ∧
    (∀ f, r.2.2 = some f → ∃ t, exec (.snapshotEnd false) s = .next t ∧ t.trw.snap = none ∧ t.trw.result = 2 ∧ (t.mover x.mover).xfer = none ∧ (t.mover x.mover).err = true ∧
      t.trw.good = r.1.trw.good ∧ s.told t.toMach 6))

/-- The link, IDE and the function's states (R370 to R373, R395, R396, R476, R478), with no transfer of the host window in flight: a link that goes down or an IDE failure stops host requests
and the job goes on, and a link that returns has the configuration that the host gives (the model's choice, log entry 88); FLR, D3hot and PERST# disable every ring and return the HQ_ registers to reset; D0 wakes the package; a poisoned write or read completion is
reported, a poisoned descriptor fetch stops its ring, and a TLP with an ECRC error alone counts only while ECRC checking is enabled. -/
def Obligations.FunctionStatesChange : Prop :=
  ∀ (s : State),
    let back := fun (t : State) => t.hq.rings = [] ∧ t.hq.queries = [] ∧ t.hq.job = .idle ∧ t.hq.err = 0 ∧ t.evc.hostQ = [] ∧ ∀ off, 0x1_0000 ≤ off → off < 0x2_0000 → t.reg off = regReset off
    (s.hostQuiet → s.hq.linkUp = true → ∃ t, exec .pcieLinkDown s = .next t ∧ t.toMach = { s.toMach with hq := { s.hq with linkUp := false } }) ∧
    (s.hostQuiet → s.hq.ideSecure = true → ∃ t, exec .ideIntegrityFailure s = .next t ∧ s.told t.toMach 0 ∧
      t.toMach = { s.toMach with hq := { s.hq with ideSecure := false, ideFailed := true, err := t.hq.err }, evc := t.evc }) ∧
    (s.sec.done = true → ∃ t, exec .pcieLinkUp s = .next t ∧
      t.toMach = { s.toMach with hq := { s.hq with linkUp := true, pci := { s.hq.host with rate := min s.hq.host.rate (6 - s.sec.rateCap) } } }) ∧
    (∃ t, exec .flr s = .next t ∧ back t ∧ (s.hq.job = .idle → s.itg.phase = .idle → t.tiles = s.tiles ∧ t.hmem = s.hmem ∧ t.hbms = s.hbms ∧ t.hq.linkUp = s.hq.linkUp ∧
      t.hq.pci = { rate := s.hq.pci.rate, width := s.hq.pci.width, flit := s.hq.pci.flit } ∧ t.hq.host = s.hq.host ∧ t.hq.d3 = s.hq.d3 ∧ ∀ off, ¬ (0x1_0000 ≤ off ∧ off < 0x2_0000) → t.reg off = s.reg off)) ∧
    (∃ t, exec .d3hotEntry s = .next t ∧ back t ∧ t.hq.d3 = true) ∧
    (∃ t, exec .perst s = .next t ∧ back t ∧ t.hq.linkUp = s.sec.done ∧ t.hq.ideSecure = false ∧ t.hq.d3 = false ∧ t.pw.l0p = 16) ∧
    (∃ t, exec .d0Transition s = .next t ∧ t.hq = { s.hq with d3 := false } ∧ t.pw.st = 0 ∧ t.tiles = s.tiles ∧
      (s.pw.st = 0 → t.toMach = { s.toMach with hq := { s.hq with d3 := false } }) ∧ (s.pw.st ≠ 0 → t.pw.wake = 7)) ∧
    (s.hq.pci.ecrcChk = true →
      (∃ t, exec (.poisonedTlp ⟨.write, true⟩) s = .next t ∧ s.told t.toMach 0 ∧ t.toMach = { s.toMach with hq := { s.hq with aer := s.hq.aer + 1, err := t.hq.err }, evc := t.evc })) ∧
    (∀ k, s.hq.pci.ecrcChk = false → ∃ t, exec (.poisonedTlp ⟨k, true⟩) s = .next t ∧ t = s) ∧
    (∃ t, exec (.poisonedTlp ⟨.write, false⟩) s = .next t ∧ s.told t.toMach 0 ∧ t.toMach = { s.toMach with hq := { s.hq with aer := s.hq.aer + 1, err := t.hq.err }, evc := t.evc }) ∧
    (∀ u, ∃ t, exec (.poisonedTlp ⟨.read u, false⟩) s = .next t ∧ s.told t.toMach 0 ∧ t.hq.aer = s.hq.aer + 1) ∧
    (∀ r, r < 16 → s.ringEn r = true → (s.ring r).stopped = false → (s.ring r).head ≠ (s.ring r).tail → (s.ring r).fetched.length < 4 → s.hostUp = true →
      (s.ringFull (s.cplRing r) = true → (s.ring (s.cplRing r)).waiting = []) → ∃ t, exec (.poisonedTlp ⟨.fetch r, false⟩) s = .next t ∧ s.told t.toMach 0 ∧
        t.hq.aer = s.hq.aer + 1 ∧ t.ring r = { s.ring r with stopped := true } ∧ ∀ k, k ≠ r → t.ring k = s.ring k) ∧
    (∀ r, r < 4 → s.queryFetches r = true → ∃ t, exec (.poisonedTlp ⟨.fetch (32 + r), false⟩) s = .next t ∧ s.told t.toMach 0 ∧ t.hq.aer = s.hq.aer + 1 ∧
      t.ring (32 + r) = { s.ring (32 + r) with stopped := true } ∧ t.hq.queries = s.hq.queries ∧ ∀ k, k ≠ 32 + r → t.ring k = s.ring k) ∧
    (∀ idx, s.hq.linkUp = true → ∃ t, exec (.doeDiscovery idx) s = .next t ∧ t.toMach = { s.toMach with hq := { s.hq with doe := t.hq.doe } } ∧
      (3 ≤ idx → t.hq.doe = 0xFFFF) ∧ (idx < 3 → fld t.hq.doe 15 0 = 1 ∧ fld t.hq.doe 23 16 = idx))

/-- A word read or written through BAR2, within its size, is the word at its device address (R375); an address that does not take it leaves memory as it was, is recorded in HQ_ERR, and reads
as ones; a word that cannot be corrected gives no data. A host window request that has its completion moves the next line of its hb. command (R282), where no other command waits for an HBM engine. -/
def Obligations.HostReachesDeviceMemory : Prop :=
  (∀ (s : State) (off : Nat), s.hq.linkUp = true → s.hq.d3 = false → off / 4 * 4 + 4 ≤ 2 ^ (30 + s.hq.pci.bar2Lg) →
    let a := fld (s.reg 0x1_0004) 17 0 * 2 ^ 30 + off / 4 * 4
    let m := { s.toMach with pw := { s.pw with l0p := 16 } }
    let refused := fun (t : State) => s.told t.toMach 0 ∧ t.toMach = { m with rdata := t.rdata, hq := { s.hq with err := t.hq.err }, evc := t.evc }
    s.rangeWaits (a / 32 * 32) 1 = false →
    (∀ ws, s.isHostAddr a = false → s.devRead a 1 true false = .ok ws → ∃ t, exec (.bar2Access { off := off }) s = .next t ∧
      t.toMach = { m.countSoft a 1 with rdata := some [ws.getD 0 0] }) ∧
    (s.isHostAddr a = false → s.devRead a 1 true false = .bad → ∃ t, exec (.bar2Access { off := off }) s = .next t ∧
      t.toMach = { m.countBad (a / 32 * 32) with rdata := none }) ∧
    (s.isHostAddr a = true ∨ (∃ c, c ≠ 4 ∧ s.devRead a 1 true false = .err c) → ∃ t, exec (.bar2Access { off := off }) s = .next t ∧ refused t ∧ t.rdata = some [0xFFFFFFFF]) ∧
    (∀ v, s.isHostAddr a = false → (m.devWrite a [v] true false).2 = none → ∃ t, exec (.bar2Access { off := off, wr := some [v] }) s = .next t ∧
      t.toMach = (m.devWrite a [v] true false).1 ∧
      (∀ n, s.devPlace a = .hub n → s.hub.wf = true → ∀ b, b < n ∨ n + 4 ≤ b → t.hub.byte b = s.hub.byte b)) ∧
    (∀ v, s.isHostAddr a = true ∨ (m.devWrite a [v] true false).2.isSome → ∃ t, exec (.bar2Access { off := off, wr := some [v] }) s = .next t ∧ refused t ∧ t.rdata = s.rdata)) ∧
  (∀ (s : State) (n k : Nat) (h : HbCmd), s.hbCmd n k = some h → s.isHostAddr (h.addr h.donelines) = true → h.donelines < h.n → (∀ x ∈ s.tiles, (x.2.eng 7).waiting = []) →
    let r := s.hbLine n h h.donelines false
    r.2 = (none, false) → ∃ t, exec (.hostWindowCompletion (.hb n k) true) s = .next t ∧ Mach.onlyTile n r.1 t.toMach ∧ t.hmem = r.1.hmem ∧
      (t.tile n).mem = (r.1.tile n).mem ∧ (t.tile n).hb = (s.tile n).hb.set k { h with donelines := h.donelines + 1 })

/-! ## Events and registers -/

/-- An arrival of an event source (R400): while EN = 1 it adds 1 to the counter, up to 255, and sets the pending bit; the first since the last claim records its stamp and data. While EN = 0 it does
nothing. -/
def Obligations.ArrivalsCountAndPend : Prop :=
  ∀ (s : Mach) (src : Nat) (d0 d1 : Word), let e : EvSrc := s.evc.srcs.get {} src
    let t := s.raise src d0 d1
    let r : EvSrc := t.evc.srcs.get {} src
    (bit (s.reg (srcCfg src)) 31 = false → t = s) ∧
    (bit (s.reg (srcCfg src)) 31 = true → t = { s with evc := { s.evc with srcs := t.evc.srcs } } ∧ r.count = min 255 (e.count + 1) ∧ r.pend = true ∧
      (e.count = 0 → r.stamp = s.clk.tb.toNat ∧ r.d0 = d0 ∧ r.d1 = d1) ∧ (e.count ≠ 0 → r.stamp = e.stamp ∧ r.d0 = e.d0 ∧ r.d1 = e.d1) ∧
      ∀ k, k ≠ src → SMap.get ({} : EvSrc) t.evc.srcs k = SMap.get {} s.evc.srcs k)

/-- A read of an unmapped or reserved offset returns 0 and has no side effect; a write there is dropped and raises the dropped-write event (R497). -/
def Obligations.UnmappedOffsetsReadZeroAndDropWrites : Prop :=
  ∀ (s : State) (off : Nat), off % 4 = 0 → s.regVal off = none → s.wakesFor off = false →
    (∃ t, exec (.readClearAccess off) s = .next t ∧ t.toMach = { s.toMach with rdata := some [0] }) ∧
    (∃ t, exec (.latchingLoRead off) s = .next t ∧ t.toMach = { s.toMach with rdata := some [0] }) ∧
    ∀ who v, ∃ t, exec (.registerWrite who off v 15) s = .next t ∧ t.toMach = { s.toMach with evc := t.evc } ∧ s.told t.toMach 2

/-- A claim takes the first pending source after the last one whose group has a target with room, and gives that target its record (R401 to R404); the staging queue writes its first record to the
event ring (R405); EVC_BQACK_c removes a Brim queue's head (R406); EVC_SWSET makes one arrival (R399); EN = 0 clears a source (R407). -/
def Obligations.EventsAreClaimedAndTaken : Prop :=
  ∀ (s : State),
    (∀ src tgt, ((upTo 512).map fun i => (s.evc.lastSrc + 1 + i) % 512).find? (fun x => (SMap.get ({} : EvSrc) s.evc.srcs x).pend && (s.claimTarget (s.groupOfSrc x)).isSome) = some src →
      s.claimTarget (s.groupOfSrc src) = some tgt → bit (s.reg (0x6_0110 + 4 * (src / 32))) (src % 32) = false →
      let e : EvSrc := s.evc.srcs.get {} src
      let w := claimRecord src (s.groupOfSrc src) tgt e
      ∃ t, exec .eventClaim s = .next t ∧ t.toMach = { s.toMach with evc := t.evc } ∧ SMap.get ({} : EvSrc) t.evc.srcs src = { e with count := 0, pend := false } ∧
        (∀ k, k ≠ src → SMap.get ({} : EvSrc) t.evc.srcs k = SMap.get {} s.evc.srcs k) ∧ t.evc.lastSrc = src ∧ SMap.get 4 t.evc.last (s.groupOfSrc src) = tgt ∧
        (tgt = 0 → t.evc.hostQ = s.evc.hostQ ++ [w] ∧ t.evc.brimQ = s.evc.brimQ) ∧
        (tgt ≠ 0 → t.evc.hostQ = s.evc.hostQ ∧ SMap.get [] t.evc.brimQ (tgt - 1) = SMap.get [] s.evc.brimQ (tgt - 1) ++ [w])) ∧
    (∀ e rest, s.evc.hostQ = e :: rest → s.ringTakes 40 = true → let x := s.ring 40
      ∃ t, exec .eventRingWrite s = .next t ∧ t.evc = { s.evc with hostQ := rest } ∧ (t.ring 40).tail = (x.tail + 1) % s.ringSize 40 ∧
        t.toMach = { s.toMach with evc := t.evc, hq := t.hq, hmem := s.hmem.setBytes (s.ringBase 40 + 32 * x.tail) (bytesOfWords (withPhase x.phase e)) }) ∧
    (∀ who c v, c < 4 → s.mayWrite who (0x2_1180 + 4 * c) → bit v 0 = true → ∃ t, exec (.evcBqack who c v) s = .next t ∧ t.toMach = { s.toMach with evc := t.evc } ∧
      SMap.get [] t.evc.brimQ c = (SMap.get [] s.evc.brimQ c).drop 1 ∧ (∀ k, k ≠ c → SMap.get [] t.evc.brimQ k = SMap.get [] s.evc.brimQ k) ∧
      t.evc.srcs = s.evc.srcs ∧ t.evc.hostQ = s.evc.hostQ) ∧
    (∀ who v, s.mayWrite who 0x2_1200 → let k := 0x1C0 + fld v 5 0
      bit (s.reg (srcCfg k)) 31 = true → let e : EvSrc := s.evc.srcs.get {} k
      ∃ t, exec (.evcSwset who v) s = .next t ∧ t.toMach = { s.toMach with evc := { s.evc with srcs := t.evc.srcs } } ∧
        (SMap.get ({} : EvSrc) t.evc.srcs k).pend = true ∧ (SMap.get ({} : EvSrc) t.evc.srcs k).count = (if e.count = 0 then 1 else min 255 (e.count + 1)) ∧
        (e.count = 0 → (SMap.get ({} : EvSrc) t.evc.srcs k).d0 = s.reg 0x2_1204 ∧ (SMap.get ({} : EvSrc) t.evc.srcs k).stamp = s.clk.tb.toNat) ∧
        ∀ j, j ≠ k → SMap.get ({} : EvSrc) t.evc.srcs j = SMap.get {} s.evc.srcs j) ∧
    (∀ who k v, k < 512 → s.mayWrite who (srcCfg k) → bit v 31 = false → ∃ t, exec (.evcSourceDisable who k v) s = .next t ∧
      t.toMach = { s.toMach with evc := { s.evc with srcs := t.evc.srcs }, regs := t.regs } ∧ bit (t.reg (srcCfg k)) 31 = false ∧
      SMap.get ({} : EvSrc) t.evc.srcs k = { SMap.get ({} : EvSrc) s.evc.srcs k with count := 0, pend := false } ∧
      ∀ j, j ≠ k → SMap.get ({} : EvSrc) t.evc.srcs j = SMap.get {} s.evc.srcs j)

/-- Register accesses (R10, R394, R497 to R500, R506): a read of a clearing register clears its counts alone; a read of a latching _LO word latches its _HI word; a write by a writer that does not own the
register changes nothing but HQ_OWNDROP and its event; a plain register stores the bits of the word that it holds; the aperture writes the memory of the selected tile, here one in which no command
acts and which has nothing left to report. -/
def Obligations.RegisterAccessesAct : Prop :=
  ∀ (s : State),
    (s.shadow.find? (fun x => x.1 == 0x2_1208) = none → ∃ t, exec (.readClearAccess 0x2_1208) s = .next t ∧ t.toMach = { s.toMach with evc := { s.evc with spurn := 0 }, rdata := some [BitVec.ofNat 32 s.evc.spurn] }) ∧
    (∀ off hi v, latchHi off = some hi → s.regVal off = some v → s.wakesFor off = false → off % 4 = 0 → s.shadow.find? (fun x => x.1 == off) = none →
      ∃ t, exec (.latchingLoRead off) s = .next t ∧ t.rdata = some [v] ∧ t.toMach = { s.toMach with shadow := t.shadow, rdata := t.rdata } ∧
        SMap.get 0 t.shadow hi = (s.regVal hi).getD 0) ∧
    (∀ who off v, off % 4 = 0 → s.wakesFor off = false → (s.regVal off).isSome = true → s.ownerOk who off = false → let w := mkWord [(30, writerCls who), (0, off % 2 ^ 26)]
      ∃ t, exec (.registerWrite who off v 15) s = .next t ∧ t.toMach = { s.toMach with hq := { s.hq with ownDrop := w }, evc := t.evc } ∧ s.told t.toMach 1) ∧
    (∀ who off v be, be ≠ 15 ∨ off % 4 ≠ 0 → ∃ t, exec (.registerWrite who off v be) s = .next t ∧ t.toMach = { s.toMach with evc := t.evc } ∧ s.told t.toMach 2) ∧
    (∀ who v, s.mayWrite who 0x1_0004 → ∃ t, exec (.registerWrite who 0x1_0004 v 15) s = .next t ∧ t.toMach = { s.toMach with regs := t.regs } ∧
      fld (t.reg 0x1_0004) 17 0 = fld v 17 0 ∧ fld (t.reg 0x1_0004) 31 18 = fld (s.reg 0x1_0004) 31 18 ∧ ∀ k, k ≠ 0x1_0004 → t.reg k = s.reg k) ∧
    (∀ who i v, i < 0x4_0000 → let n := s.tdbTile
      s.mayWrite who (0x210_0000 + 4 * i) → s.tdbValid = true → (s.tile n).segOn i = true → (s.tile n).settled = s.tile n → (s.tile n).calm → (s.tile n).pipe = [] →
      ∃ t, exec (.tdbApertureAccess who (0x210_0000 + 4 * i) (some v)) s = .next t ∧ (∀ k, k ≠ n → t.tile k = s.tile k) ∧
        t.toMach = { s.toMach with tiles := t.tiles } ∧ (t.tile n).mem = (s.tile n).mem.setWord i v)

/-! ## Integrity: replay, comparison, Hatbox, fittings -/

/-- A replay goes through its phases (R418 to R421, R424): the trigger that waits stops the job's tiles and opens a new epoch, or pauses the job where no attempt is left; once all is quiet every tile is
restored; the barrier releases each at its REPC; a barrier held too long is reported. -/
def Obligations.ReplayGoesThroughItsPhases : Prop :=
  ∀ (s : State),
    (∀ k, s.itg.pendTrig = some k → s.hq.job = .running → s.itg.phase = .idle →
      (bit (s.reg 0x6_0010) 31 = true → s.itg.attempt ≠ 3 → ∃ t, exec .replayTrigger s = .next t ∧ t.itg.phase = .quiesce ∧ t.itg.trig = k ∧ t.itg.pendTrig = none ∧
        t.itg.epoch = (s.itg.epoch + 1) % 256 ∧ t.itg.attempt = s.itg.attempt + 1 ∧ t.itg.nreplay = min 0xFFFF (s.itg.nreplay + 1) ∧ t.flight = [] ∧ t.msgs = [] ∧
        t.hq = s.hq ∧ s.told t.toMach 0x1A1 ∧ t.hbx.seq = s.hbx.seq + 1 ∧
        ∀ n, (t.tile n).mem = (s.tile n).mem ∧ ((s.tile n).tsq.inJob = true → (t.tile n).tsq.started = false) ∧ ((s.tile n).tsq.inJob = false → t.tile n = s.tile n)) ∧
      (bit (s.reg 0x6_0010) 31 = false ∨ s.itg.attempt = 3 → ∃ t, exec .replayTrigger s = .next t ∧ t.hq.job = .paused ∧ t.itg.phase = .idle ∧
        ∀ n, (t.tile n).tsq.inJob = true → (t.tile n).tsq.halted = true)) ∧
    (s.itg.phase = .quiesce → s.quiet = true → s.itg.rgWritten = false → ∃ t, exec .quiesceDone s = .next t ∧ t.itg.phase = .barrier ∧ t.itg.forming = false ∧ t.groups = [] ∧
      t.hq = s.hq ∧ ∀ n, let a := s.tile n; let b := t.tile n
        (a.tsq.inJob = false → b = a) ∧ (a.tsq.inJob = true → b.tsq.started = false ∧ b.tsq.main = { pc := a.tm.repc } ∧ b.tsq.sr = 0 ∧ b.lscs = [] ∧ b.slots = [] ∧ b.rng = [] ∧
          b.tfr = {} ∧ b.mem = a.now.mem ∧ b.acts = [] ∧ b.tm.step = a.tm.step ∧ b.tm.p = a.tm.p)) ∧
    (s.barrierIn = true → ∃ t, exec .restartBarrierRelease s = .next t ∧ t.itg.phase = .idle ∧ t.hq.job = .running ∧ t.hq.restarting = none ∧
      ∀ n, let a := s.tile n; let b := t.tile n
        (a.tsq.inJob = false → b = a) ∧ (a.tsq.inJob = true → b.tsq.started = true ∧ b.tsq.halted = false ∧ b.tsq.main = { pc := a.tm.repc } ∧ b.tsq.sr = 0 ∧
          b.tm.relAt = some s.clk.aclk ∧ b.mem = a.mem ∧ b.tm.step = a.tm.step ∧ b.lscs = a.lscs)) ∧
    (s.itg.phase = .barrier → fld (s.reg 0x6_0010) 19 16 ≠ 0 → ∃ t, exec .barrierTimeout s = .next t ∧ t.toMach = { s.toMach with evc := t.evc } ∧ s.told t.toMach 0x1A3)

/-- ITG_ALARMSET sets alarm cause SW (R412); ITG_HBXPUSH appends a record of its KIND with the twelve data words (R432); a complete flash copy leaves the ring in its slot (R433). -/
def Obligations.AlarmsAndHatboxRecords : Prop :=
  ∀ (s : State) (who : Writer) (v : Word),
    (s.mayWrite who 0x6_0004 → bit v 0 = true → ∃ t, exec (.itgAlarmset who v) s = .next t ∧ t.toMach = { s.toMach with regs := t.regs, evc := t.evc } ∧
      t.reg 0x6_0000 = s.reg 0x6_0000 ||| 0x20 ∧ (∀ off, off ≠ 0x6_0000 → t.reg off = s.reg off) ∧ (bit (s.reg 0x6_0000) 5 = false → s.told t.toMach 0x1A0)) ∧
    (s.mayWrite who 0x6_01C0 → 64 ≤ fld v 6 0 → let q := s.hbx.seq + 1
      let r : List Word := [mkWord [(31, 1), (16, fld v 6 0), (0, q.toNat % 2 ^ 16)], BitVec.ofNat 32 s.clk.tb.toNat, BitVec.ofNat 32 (s.clk.tb.toNat / 2 ^ 32), mkWord [(16, s.boots % 2 ^ 16), (0, s.stepNo.toNat % 2 ^ 16)]] ++
        (upTo 12).map fun i => s.reg (0x6_0180 + 4 * i)
      ∃ t, exec (.hatboxPush who v) s = .next t ∧ t.toMach = { s.toMach with hbx := t.hbx, free := t.free } ∧
        t.hbx = { s.hbx with recs := s.hbx.recs.put s.hbx.next r, next := (s.hbx.next + 1) % 1024, wrap := s.hbx.wrap || s.hbx.next == 1023, seq := q }) ∧
    (s.hbx.copying = true → s.pins.supStop = none → s.pins.resetWait = false →
      (∃ t, exec (.hatboxFlashCopyEnd true) s = .next t ∧ t.toMach = { s.toMach with hbx := t.hbx, evc := t.evc } ∧ s.told t.toMach 0x1A7 ∧
        t.hbx = { s.hbx with copying := false, fcopy := 1, flash := s.hbx.flash.put s.hbx.fslot s.hbx.recs, fcrc := s.hbx.fcrc.put s.hbx.fslot (Config.crc32 s.hbx.image) }) ∧
      (∃ t, exec (.hatboxFlashCopyEnd false) s = .next t ∧ t.toMach = { s.toMach with hbx := t.hbx, evc := t.evc } ∧ t.hbx.copying = false ∧ t.hbx.fcopy = 2 ∧ t.hbx.recs = s.hbx.recs))

/-- Replica comparison (R427, R428): the root keeps the reports it receives, one of each package and STEP; where every live rank's digests of the earliest STEP are in and their sums agree the verdict is 0, where a rank is incomplete it is 4, and
the package records it; another package records the verdict that reaches it, and one other than 0 raises the event and asks a running job to stop. -/
def Obligations.ReplicaComparisonRecordsVerdicts : Prop :=
  ∀ (s : State),
    (∀ r : DigRep, s.isRoot = true → ∃ t, exec (.digestReport r) s = .next t ∧
      t.toMach = { s.toMach with itg := { s.itg with reports := (s.itg.reports.filter fun x => !(x.pkg == r.pkg && x.step == r.step)) ++ [{ rank := r.rank, step := r.step, pkg := r.pkg, dig := r.dig, lines := 0 }] } }) ∧
    (∀ r0 rs, s.isRoot = true → s.itg.reports = r0 :: rs → 2 ≤ s.liveRanks.length →
      let of := fun (k : Nat) => s.itg.reports.filter fun r => r.step == r0.step && r.rank == k
      let complete := fun (k : Nat) => fld (s.reg 0x6_8030) 7 0 ≤ (of k).length
      let recorded := fun (t : State) (v : Nat) => t.itg.cmpValid = true ∧ t.itg.verdict = v ∧ t.itg.cmpStep = BitVec.ofNat 32 r0.step ∧ t.itg.ncmp = min 0xFFFF (s.itg.ncmp + 1) ∧
        t.itg.reports = s.itg.reports.filter (fun r => r.step != r0.step) ∧ t.tiles = s.tiles
      (∀ g : BitVec 64, (∀ k ∈ s.liveRanks, complete k ∧ (of k).foldl (fun a r => a + r.dig) 0 = g) → ∃ t, exec .comparisonVerdict s = .next t ∧ recorded t 0 ∧
        t.itg.cmpMis = 0 ∧ t.hq = s.hq ∧ t.evc = s.evc) ∧
      ((∃ k ∈ s.liveRanks, ¬ complete k) → ∃ t, exec .comparisonVerdict s = .next t ∧ recorded t 4 ∧ (s.hq.job = .running → t.hq.stopReq = true) ∧ s.told t.toMach 0x1A4)) ∧
    (∀ v : Verdict, s.cmpOn = true → s.isRoot = false → v.v ≤ 4 → ∃ t, exec (.verdictReceive v) s = .next t ∧
      t.itg = { s.itg with cmpValid := true, verdict := v.v, ncmp := min 0xFFFF (s.itg.ncmp + 1), cmpStep := BitVec.ofNat 32 v.step, cmpMis := v.mis } ∧
      (v.v = 0 → t.toMach = { s.toMach with itg := t.itg }) ∧ (v.v ≠ 0 → s.told t.toMach 0x1A4 ∧ t.hbx.seq = s.hbx.seq + 1 ∧ (s.hq.job = .running → t.hq.stopReq = true)))

/-- Fittings and die-to-die lanes (R20, R26, R414, R415): a background fitting takes tiles outside the job, with their segments on, and at its end they hold nothing, its failing positions fenced in flash; a failed D2D lane
within the spares is spared on both ends. -/
def Obligations.FittingsAndD2DLanes : Prop :=
  ∀ (s : State),
    (∀ tiles g, s.hq.job ≠ .idle → s.itg.fitBusy = false → s.hq.jcBusy = false → g < 16 → (∀ n ∈ tiles, s.tileExists n = true ∧ (s.tile n).tsq.inJob = false) →
      ∃ t, exec (.backgroundFitting tiles g) s = .next t ∧ t.toMach = { s.toMach with tiles := t.tiles, itg := { s.itg with fitBusy := true, fitTiles := tiles, fitSrc := 2, gfail := 0, fitSel := g } } ∧
        ∀ n, (n ∈ tiles → t.tile n = (s.tile n).allSegs 2) ∧ (n ∉ tiles → t.tile n = s.tile n)) ∧
    (s.itg.fitBusy = true →
      (∃ t, exec (.backgroundFittingEnd {}) s = .next t ∧ t.toMach = { s.toMach with tiles := t.tiles, itg := t.itg, evc := t.evc } ∧ s.told t.toMach 0x1A5 ∧
        t.itg = { s.itg with fitBusy := false, fitTiles := [], fitSel := 0, fitSrc := 2, gfail := 0, fitRuns := min 0xFFFF (s.itg.fitRuns + 1) } ∧
        ∀ n, ((s.tile n).tsq.inJob = true ∨ n ∉ s.itg.fitTiles → t.tile n = s.tile n) ∧ ((s.tile n).tsq.inJob = false → n ∈ s.itg.fitTiles → (t.tile n).mem = [])) ∧
      (∀ f : FitFail, f.group ≤ 4 → s.itg.fitSel.testBit f.group = true → let x : Fence := { die := f.die, half := f.half, row := f.row, col := f.col, router := f.group == 4 }
        (∀ y ∈ s.fuseFences ++ s.flashFences, y.at x = false) →
        ∃ t, exec (.backgroundFittingEnd { fails := [f] }) s = .next t ∧ t.itg.fitBusy = false ∧ t.itg.gfail = 2 ^ f.group ∧ t.flashFences = s.flashFences ++ [x] ∧
          t.fuseFences = s.fuseFences ∧ t.itg.fenced = min 0xFFFF (s.itg.fenced + 1) ∧ s.told t.toMach 0x1A6)) ∧
    (∀ d k l, s.d2dExists d k = true → l < 68 → l ∉ SMap.get [] (s.die d).lanes k → (SMap.get [] (s.die d).lanes k).length < 4 →
      ∃ t, exec (.d2dLaneFailure d k l) s = .next t ∧ t.toMach = { s.toMach with dies := t.dies, evc := t.evc } ∧ s.told t.toMach (0x094 + 0x40 * d) ∧
        l ∈ SMap.get [] (t.die d).lanes k ∧ (∀ e, s.d2dPeer d k = some e → l ∈ SMap.get [] (t.die e.1).lanes e.2) ∧ t.hq.stopReq = s.hq.stopReq)

/-! ## Interchip links -/

/-- A port (R351, R352, R366, R369): a flit with a bad CRC is refused, one that is not the refused flit again is discarded, and the port retrains at the 16th refusal; the next flit in order is taken, its acknowledgement and credits with it, and a message for this package
arrives; a retrain that succeeds replays the retry buffer; a failed lane is spared, degrades the port to x4 or takes it down; EN = 0 takes it down. -/
def Obligations.PortsReceiveRetrainAndDegrade : Prop :=
  ∀ (s : State) (p : Nat), p < 12 →
    let q := s.port p
    let others := fun (t : State) => ∀ k, k ≠ p → t.port k = s.port k
    (∀ f : Flit, q.up = true → q.retrain = false → (∀ x ∈ s.msgs, x.kind ≠ .refuse ∧ ∀ j, x.kind ≠ .reject j) →
      let c := fld f.hdr 9 8
      let next := fld f.hdr 28 20 = (q.rxSeq + 1) % 512
      (f.crcOk = false → ∃ t, exec (.dilFlitReceive p f) s = .next t ∧ t.toMach = { s.toMach with dil := t.dil } ∧ others t ∧
        let counted := { q with corrn := min 0xFFFFFFFF (q.corrn + f.corr), uncwn := min 0xFFFF (q.uncwn + f.uncw), serr := (t.port p).serr }
        let again := q.nak = false ∨ (fld f.hdr 31 30 ≠ 3 ∧ next)
        (again → t.port p = { counted with nak := true, refused := q.refused + 1, retryn := min 0xFFFF (q.retryn + 1), retrain := decide (15 ≤ q.refused) }) ∧
        (¬ again → t.port p = counted)) ∧
      (f.crcOk = true → fld f.hdr 31 30 ≠ 3 → next → f.load = .none → ∃ t, exec (.dilFlitReceive p f) s = .next t ∧ t.toMach = { s.toMach with dil := t.dil } ∧ others t ∧
        (t.port p).rxSeq = fld f.hdr 28 20 ∧ (t.port p).nak = false ∧ (t.port p).refused = 0 ∧ (t.port p).unacked = ackFlits q.unacked (fld f.hdr 19 11) ∧
        SMap.get 0 (t.port p).credits c = SMap.get 0 q.credits c + fld f.hdr 7 0 ∧ (t.port p).txq = q.txq) ∧
      (f.crcOk = true → fld f.hdr 31 30 ≠ 3 → ¬ next → ∃ t, exec (.dilFlitReceive p f) s = .next t ∧ t.toMach = { s.toMach with dil := t.dil } ∧ others t ∧ (t.port p).rxSeq = q.rxSeq) ∧
      (∀ m, f.crcOk = true → fld f.hdr 31 30 ≠ 3 → next → f.load = .msg m → m.kind = .record → m.dpkg = s.pkgIdx → ∃ t, exec (.dilFlitReceive p f) s = .next t ∧
        (m.epoch = s.itg.epoch → t.msgs = s.msgs ++ [m] ∧ t.itg = s.itg) ∧
        (m.epoch ≠ s.itg.epoch → t.msgs = s.msgs ∧ t.itg = { s.itg with stale := min 0xFFFFFFFF (s.itg.stale + 1) }))) ∧
    (∀ b, q.present = true → q.up = true → q.retrain = true → ∃ t, exec (.dilRetrain p true b) s = .next t ∧ t.toMach = { s.toMach with dil := t.dil } ∧ others t ∧
      t.port p = { q with retrain := false, refused := 0, replay := q.unacked }) ∧
    (∀ l, q.present = true → l < 9 → l ∉ q.failed → (∃ x ∈ q.pos, x.1 = l) →
      let work := (upTo 9).filter fun i => !((insSorted l q.failed).contains i)
      let spare := ∃ i ∈ work, ∀ x ∈ q.pos, x.1 ≠ i
      ∃ t, exec (.dilLaneFailure p l) s = .next t ∧ (t.port p).failed = insSorted l q.failed ∧
        (spare → q.width = 2 → (t.port p).spared = true ∧ (t.port p).up = q.up ∧ (t.port p).width = 2 ∧ s.told t.toMach (0x020 + 4 * p) ∧ t.hq = s.hq) ∧
        (¬ (spare ∧ q.width = 2) → 4 ≤ work.length → (t.port p).width = 1 ∧ (t.port p).up = q.up ∧ s.told t.toMach (0x021 + 4 * p) ∧
          (s.slack = false → s.hq.job = .running → t.hq.stopReq = true)) ∧
        (¬ (spare ∧ q.width = 2) → work.length < 4 → (t.port p).up = false ∧ (t.port p).down = 3 ∧ (t.port p).width = 0)) ∧
    (∀ who v, s.mayWrite who (dilCtl p) →
      (bit v 31 = true → bit v 0 = true → ∃ t, exec (.dilCtlRetrain who p v) s = .next t ∧ t.toMach = { s.toMach with dil := t.dil, regs := t.regs, evc := t.evc } ∧ others t ∧
        t.port p = (if q.up then { q with retrain := true } else q)) ∧
      (bit (s.reg (dilCtl p)) 31 = true → bit v 31 = false → ∃ t, exec (.dilPortDisable who p v) s = .next t ∧ (t.port p).up = false ∧
        (q.up = true → (t.port p).down = 1 ∧ (t.port p).width = 0) ∧ (q.up = false → t.port p = q) ∧ bit (t.reg (dilCtl p)) 31 = false ∧ t.tiles = s.tiles))

/-- Sync trees (R361, R362, R364): an attach or decline is recorded, or kept where it comes before this package forms its wait set, and the set has formed when every live child port has answered; wait sets that miss their time end the start with TREE; a child's arrival joins the pending
sequence, or is held until the tiles of this package are released, and one of another sequence is a tree error; a release from the parent gives every arrived member its SR, opens the next sequence and takes a package in a lower state back to A0 (R476, R477).
The time tree (R365): the root is locked with its own time; another package that is not locked and behind its parent jumps to it, one more than 5 ns ahead slews, and otherwise the exchange trims it by the offset; each
exchange sends this package's time to its parent. -/
def Obligations.SyncTreesAndTheTimeTreeAct : Prop :=
  (∀ (s : State) (g : Nat), g < 16 → bit (s.reg (sgt0 g)) 31 = true →
    let x := s.tree g
    let others := fun (t : State) => ∀ k, k ≠ g → t.tree k = s.tree k
    (∀ p attach, s.hq.starting = none → s.itg.phase ≠ .barrier → p ∈ bitsSet 12 (fld (s.reg (sgt0 g)) 11 0 ||| fld (s.reg (sgt1 g)) 11 0) →
      ∃ t, exec (.syncTreeAttachMsg p g attach) s = .next t ∧ t.toMach = { s.toMach with dil := t.dil } ∧ others t ∧
        (x.forming = false → t.tree g = { x with early := x.early.put p attach }) ∧ (x.forming = true → x.formed = true → t.tree g = x) ∧
        (x.forming = true → x.formed = false → t.tree g = { x with answered := insSorted p x.answered, waitset := if attach then insSorted p x.waitset else x.waitset, formed := (s.childPorts g).all fun k => (insSorted p x.answered).contains k })) ∧
    (∀ c, s.treesFormed = false → s.hq.starting = some c → c.ring < 16 → s.ringEn (s.cplRing c.ring) = true → ∃ t, exec .syncTreeTimeout s = .next t ∧
      t.toMach = { s.toMach with hq := { s.hq with starting := none, jcBusy := false, rings := t.hq.rings }, dil := t.dil, evc := t.evc } ∧ (t.tree s.badTree).err = true ∧
      (t.ring (s.cplRing c.ring)).waiting = (s.ring (s.cplRing c.ring)).waiting ++ [[mkWord [(16, c.cid), (8, 0x18), (0, c.op)], mkWord [(16, c.sqhead), (0, c.ring)], BitVec.ofNat 32 s.badTree, 0]]) ∧
    (∀ p (m : TreeMsg), m.g = g → m.ok = true → m.bar = false → s.treeHolds g = true → ∃ t, exec (.syncTreeArrivalMsg p m) s = .next t ∧
      t.toMach = { s.toMach with dil := t.dil } ∧ others t ∧ t.tree g = { x with held := x.held ++ [(p, m)] }) ∧
    (∀ p (m : TreeMsg), m.g = g → m.ok = true → m.bar = false → s.treeHolds g = false → p ∈ x.waitset →
      (m.seq = x.seq → (∀ y ∈ x.arr, y.1 ≠ p) → s.localMsg g = none → ∃ t, exec (.syncTreeArrivalMsg p m) s = .next t ∧ t.toMach = { s.toMach with dil := t.dil } ∧ others t ∧
        t.tree g = { x with arr := x.arr ++ [(p, m)] }) ∧
      (m.seq ≠ x.seq → ∃ t, exec (.syncTreeArrivalMsg p m) s = .next t ∧ t.toMach = { s.toMach with dil := t.dil, evc := t.evc } ∧ t.tree g = { x with err := true } ∧ s.told t.toMach 0xB)) ∧
    (∀ p (m : TreeMsg), m.g = g → m.ok = true → m.bar = false → x.formed = true → x.effpar = p → m.seq = x.seq → x.sent = true → (s.group g).early = [] →
      (∃ d ∈ s.part.dies, s.members d g ≠ 0) → ∃ t, exec (.syncTreeReleaseMsg p m) s = .next t ∧ (t.tree g).seq = (x.seq + 1) % 2 ^ 16 ∧ (t.tree g).arr = [] ∧ (t.tree g).sent = false ∧
        t.pw.st = 0 ∧ (s.pw.st ≠ 0 → t.pw.wake = 3) ∧ (t.group g).arr = [] ∧ ∀ a ∈ (s.group g).arr, (t.tile a.tile).tsq.sr = BitVec.ofNat 19 (srWord (if m.pmis ∨ m.empty then 0 else m.payload) m.pmis (m.fault || (s.group g).mark) m.stop) ∧
          (t.tile a.tile).tm.relAt = some (max (s.group g).lastArr s.clk.aclk))) ∧
  (∀ (s : State) (pt rtt hops : Nat), let c := s.reg 0xB_0400
    let port := fld c 3 0
    let off : Int := ((pt + rtt / 2 : Nat) : Int) - (s.clk.tb.toNat : Int)
    let so := clampI (-32767) 32767 off
    bit c 31 = true →
    (bit c 30 = true → ∃ t, exec (.timebaseExchange pt rtt hops) s = .next t ∧
      t.toMach = { s.toMach with dil := { s.dil with locked := true, slew := false, hops := 0, offset := 0, trim := 0 }, evc := t.evc }) ∧
    (bit c 30 = false → port < 12 → (s.port port).up = true →
      let sent := fun (t : State) => t.port port = { s.port port with txq := (s.port port).txq ++ [{ vl := 1, cls := 0, load := .time s.clk.tb.toNat }] } ∧ ∀ k, k ≠ port → t.port k = s.port k
      (0 < off → s.dil.locked = false → ∃ t, exec (.timebaseExchange pt rtt hops) s = .next t ∧ sent t ∧
        t.toMach = { s.toMach with clk := { s.clk with tb := BitVec.ofNat 64 (pt + rtt / 2) }, dil := { s.dil with ports := t.dil.ports, locked := true, slew := false, hops := hops + 1, offset := so, trim := 0 }, evc := t.evc }) ∧
      (off < -5 → ∃ t, exec (.timebaseExchange pt rtt hops) s = .next t ∧ sent t ∧
        t.toMach = { s.toMach with dil := { s.dil with ports := t.dil.ports, slew := true, hops := hops + 1, offset := so, trim := -250 }, evc := t.evc }) ∧
      (-5 ≤ off → off ≤ 0 ∨ s.dil.locked = true → ∃ t, exec (.timebaseExchange pt rtt hops) s = .next t ∧ sent t ∧
        t.toMach = { s.toMach with dil := { s.dil with ports := t.dil.ports, slew := false, locked := true, hops := hops + 1, offset := so, trim := clampI (-250) 250 off }, evc := t.evc })))

/-! ## Loading, boot, the mailbox, attestation, balls -/

/-- LOAD (R490 to R492): a binary whose signatures do not verify is refused with nothing loaded; one that passes every check and every write makes exactly the tiles of its placement part of the job, LOADED. -/
def Obligations.LoadsTakeOrRefuse : Prop :=
  ∀ (s : State) (r : Nat) (d : List Word) (rest : List (List Word)) (img : Image), s.starts r 0x10 d rest → s.pw.st < 3 → s.rangeWaits (descAddr d 2) (cdiv (dw d 4) 32) = false →
    let m0 := { s.toMach with hq := { s.hq with rings := SMap.upd {} s.hq.rings r (fun y => { y with fetched := rest, busy := true }), jcOrder := s.hq.jcOrder.drop 1 } }
    let c := Mach.countRead (cdiv (dw d 4) 32) (descAddr d 2) m0
    (∀ e, m0.loadSig (descAddr d 2) (dw d 4) img = .error e → ∃ t, exec (.load r img) s = .next t ∧ s.answered t.toMach r d rest 0x10 e.1 e.2 0 ∧ t.hq.job = .idle ∧
      t.toMach = { c with hq := t.hq } ∧ t.sec = s.sec ∧ t.hmem = s.hmem) ∧
    (∀ h p, m0.loadSig (descAddr d 2) (dw d 4) img = .ok h → let m1 := { c with sec := { s.sec with meas := s.sec.meas.put 5 h } }
      m1.loadPlan d img = .ok p → img.writeErr = none →
      let puts := img.puts.filter fun q => putFits p.1 q
      (Mach.putMems p.2 puts ((m1.applyRepair.loadTiles img p.2 puts).writeRegs d img (regPuts p.2 puts))).2 = none →
      ∃ t, exec (.load r img) s = .next t ∧ s.left t.toMach r rest ∧ t.hq.job = .loaded ∧ t.sec = m1.sec ∧ ∀ n, (t.tile n).tsq.inJob = true ↔ ∃ x ∈ img.tiles, x.num = n)

/-- Boot (R451 to R454, R463): a stage that succeeds opens the next, and S11 ends the boot with the host link up, as the host configures it (the model's choice, log entry 88); one whose watchdog expires is journalled, and resets the hub to S1 where its alternate form has not
failed yet. -/
def Obligations.BootGoesThroughItsStages : Prop :=
  ∀ (s : State), s.sec.done = false → s.sec.parked = false →
    (∀ rep : StageReport, rep.ok = true → (s.sec.stage = 0 → s.pins.testmode = false ∧ s.pins.pgood % 64 = 63) → (s.sec.stage = 2 → s.sec.lc ≠ 3 ∧ s.bootSlot.isSome = true) → s.unitsFailing rep = [] →
      (s.sec.stage ≤ 10 → ∃ t, exec (.bootStageAdvance rep) s = .next t ∧ t.sec.stage = s.sec.stage + 1 ∧ t.sec.done = false ∧ t.sec.parked = false ∧ t.sec.lcFuse = s.sec.lcFuse ∧
        t.hmem = s.hmem ∧ t.clk.tb = s.clk.tb ∧ (s.sec.stage = 1 → t.sec.lc = s.sec.lcFuse ∧ t.boots = s.boots + 1) ∧ (s.sec.stage = 5 → t.part.dies = s.diesUp)) ∧
      (s.sec.stage = 11 → ∃ t, exec (.bootStageAdvance rep) s = .next t ∧ t.sec.done = true ∧ t.hq = { s.hq with linkUp := true, host := rep.pci, pci := { rep.pci with rate := min rep.pci.rate (6 - s.sec.rateCap) } } ∧ t.pw = { s.pw with ppll := true } ∧ s.told t.toMach 0x182)) ∧
    (∀ u, ∃ t, exec (.stageWatchdogExpiry u) s = .next t ∧ t.sec.jflash.getLast? = some { boot := s.boots, stage := s.sec.stage, cause := 1, unit := u } ∧
      (1 ≤ s.sec.stage → s.sec.alt.testBit s.sec.stage = false → (s.sec.stage = 4 → u < 4) → t.sec.stage = 1 ∧ t.sec.lcValid = false ∧ t.pw.cause = 6 ∧ t.clk.tb = s.clk.tb ∧ t.hmem = s.hmem ∧ t.tiles = []) ∧
      (s.sec.stage = 0 → (s.sec.journal.any fun e => !e.clr && e.stage == 0) = true → t.sec.parked = true ∧ t.sec.stage = 0))

/-- The mailbox (R438, R440, R443, R448, R449, R453, R455): Bonnet serves each operation of the slot that waits with the response words and the effect that the rules give it. -/
def Obligations.MailboxOperationsAreServed : Prop :=
  ∀ (s : State),
    let big := fun (x : Nat) => wordsOf 12 x
    (∀ bs, s.serves 1 0x01 = true → s.mbBuffer 1 = some bs → let ty := (s.mbArg 1 3).toNat
      ty ∈ [1, 2, 3, 4, 6, 7] → let code := s.verifyObj bs ty (rootSlots ty) (if ty = 6 then s.sec.cert else none)
      ∃ t, exec .verify s = .next t ∧ (code = 0 → t.mailed 1 0 (0 :: big (hdrNat bs 16 48)) ∧ (ty = 3 → SMap.get 0 t.sec.booted 2 = hdrNat bs 6 2)) ∧
        (code ≠ 0 → t.mailed 1 5 (BitVec.ofNat 32 code :: big (hdrNat bs 16 48)) ∧ s.told t.toMach 0x187 ∧ { t.sec with boxes := [], lastServed := 0 } = { s.sec with boxes := [], lastServed := 0 })) ∧
    (s.serves 1 0x02 = true → s.noIdentity = false → 3 ≤ s.sec.stage → s.mbArg 1 13 = 0 → let ws := wordsOf 24 (Config.aliasSign s.boots (s.mbArg 1 12).toNat
        (BitVec.ofNat 384 ((upTo 12).foldl (fun a i => a + (s.mbArg 1 i).toNat * 2 ^ (32 * i)) 0))).toNat
      ∃ t, exec .sign s = .next t ∧ t.mailed 1 0 (ws.take 16) ∧ t.sec.sigRest = ws.drop 16) ∧
    (s.serves 1 0x02 = true → s.noIdentity = false → 3 ≤ s.sec.stage → s.mbArg 1 13 = 1 → s.sec.sigRest ≠ [] → ∃ t, exec .sign s = .next t ∧ t.mailed 1 0 s.sec.sigRest ∧ t.sec.sigRest = []) ∧
    (∀ c, s.serves c 0x03 = true → 1 ≤ (s.mbArg c 0).toNat → (s.mbArg c 0).toNat ≤ 8 → ∃ t, exec (.measure c) s = .next t ∧ t.mailed c 0 (big (s.measurement (s.mbArg c 0).toNat).toNat)) ∧
    (∀ c, s.serves c 0x04 = true → (s.mbArg c 0).toNat ≤ 1 → s.noIdentity = false →
      ∃ t, exec (.cert c) s = .next t ∧ t.mailed c 0 [BitVec.ofNat 32 (Config.certLen (s.mbArg c 0).toNat s.boots)] ∧ ∀ j, j < 15 → (s.mbArg c 1).toNat + 4 * j + 4 ≤ Config.certLen (s.mbArg c 0).toNat s.boots →
        SMap.get 0 (t.mbx c).rsp (1 + j) = BitVec.ofNat 32 (natOfBytes ((upTo 4).map fun i => Config.certByte (s.mbArg c 0).toNat s.boots ((s.mbArg c 1).toNat + 4 * j + i)))) ∧
    (∀ c, s.serves c 0x05 = true → ∃ t, exec (.fuseread c) s = .next t ∧ t.mailed c 0 [Config.fuseRow (s.mbArg c 0).toNat]) ∧
    (∀ c bs, s.serves c 0x06 = true → s.mbBuffer c = some bs → let ty := hdrNat bs 4 2
      let code := s.verifyObj bs (if ty = 2 then 2 else 1) (upTo 4) none
      let slot := 1 - s.sec.slot
      ∃ t, exec (.update c true) s = .next t ∧ t.sec.svn = s.sec.svn ∧
        (code = 0 → t.mailed c 0 [0, BitVec.ofNat 32 slot] ∧ s.told t.toMach 0x188 ∧
          t.sec.flash = s.sec.flash.put (2 * slot + (if ty = 2 then 1 else 0)) { svn := hdrNat bs 6 2, flags := hdrNat bs 12 4, signer := BitVec.ofNat 384 (hdrNat bs 64 48), hash := BitVec.ofNat 384 (hdrNat bs 16 48) }) ∧
        (code ≠ 0 → t.mailed c 5 [BitVec.ofNat 32 code, BitVec.ofNat 32 slot] ∧ s.told t.toMach 0x187 ∧ t.sec.flash = s.sec.flash)) ∧
    (s.serves 0 0x07 = true → s.sec.done = true → (s.mbArg 0 0).toNat ≤ 2 → let k := (s.mbArg 0 0).toNat
      let v := max (s.fuseSvn k) (SMap.get 0 s.sec.booted k)
      ∃ t, exec (.svnadv true) s = .next t ∧ t.mailed 0 0 [BitVec.ofNat 32 v] ∧ t.fuseSvn k = v ∧ (∀ j, j ≠ k → t.fuseSvn j = s.fuseSvn j) ∧ s.told t.toMach 0x189) ∧
    (∀ bs, s.serves 0 0x08 = true → s.mbBuffer 0 = some bs → s.hq.job = .idle → let tgt := hdrNat bs 160 1
      let code := s.verifyObj bs 7 (if tgt = 3 then upTo 8 else upTo 4) none
      ∃ t, exec (.lcadv true) s = .next t ∧ (code ≠ 0 → t.mailed 0 5 [BitVec.ofNat 32 code] ∧ s.told t.toMach 0x187 ∧ t.sec.lcFuse = s.sec.lcFuse) ∧
        (code = 0 → BitVec.ofNat 384 (hdrNat bs 112 48) = Config.deviceKeyHash →
          ((s.sec.lcFuse = 0 ∧ tgt = 1) ∨ (s.sec.lcFuse = 1 ∧ tgt = 2) ∨ (s.sec.lcFuse ≠ 3 ∧ tgt = 3) → t.mailed 0 0 [0] ∧ t.sec.lcFuse = tgt ∧ (2 ≤ tgt → t.sec.kill = true)) ∧
          (tgt ≠ 3 → tgt ≠ s.sec.lcFuse + 1 → t.mailed 0 4 [] ∧ t.sec.lcFuse = s.sec.lcFuse))) ∧
    (∀ c, s.serves c 0x09 = true → ∃ t, exec (.jrnlclr c) s = .next t ∧ (t.mbx c).done = true ∧ (t.mbx c).err = 0 ∧ t.sec.jflash.length = s.sec.jflash.length ∧
      (∀ e ∈ t.sec.jaon ++ t.sec.jflash, e.stage < 12 → bit (s.mbArg c 0) e.stage = true → e.clr = true) ∧
      ∀ e ∈ s.sec.jflash, bit (s.mbArg c 0) e.stage = false → e ∈ t.sec.jflash) ∧
    (s.serves 1 0x0A = true → (s.mbArg 1 0).toNat ≤ 1 → (s.mbArg 1 1).toNat ≤ 1 → s.noIdentity = false → let k := (s.mbArg 1 0).toNat
      let dir := (s.mbArg 1 1).toNat
      ∃ t, exec .idekey s = .next t ∧ t.mailed 1 0 [] ∧ SMap.get 0 t.sec.ide (2 * k + dir) = Config.ideKey k dir s.boots ∧
        ((s.sec.ide.any fun x => x.1 == 2 * k + (1 - dir)) = true → t.hq.ideSecure = true) ∧ ((s.sec.ide.any fun x => x.1 == 2 * k + (1 - dir)) = false → t.hq = s.hq))

/-- The SPDM responder (R447, R450, R452): each of its thirteen requests, on a transport that is open and in a lifecycle state that allows it, is answered where it is well formed, for
certificate slot 0 and in order, and the connection moves on as the message says (its order is the model's, log entry 40); one that is not is answered with an error and moves nothing; one
that does not reach the responder changes nothing. -/
def Obligations.SpdmRequestsAreAnswered : Prop :=
  ∀ (s : State) (q : SpdmReq), let p := s.sec.spdm
    let served := fun (c : Instr) (op : SpdmOp) =>
      let good := q.ok = true ∧ (op = .getCertificate ∨ op = .challenge → q.slot = 0) ∧ p.inOrder op = true
      (s.spdmReach op q = true → good → ∃ t, exec c s = .next t ∧
        t.toMach = { s.toMach with sec := { s.sec with spdm := { p.after op with answers := p.answers + 1 } }, pins := { s.pins with alert := s.pins.alert || (q.mctp && s.pins.dynAddr.isNone) } }) ∧
      (s.spdmReach op q = true → ¬ good → ∃ t, exec c s = .next t ∧ t.toMach = { s.toMach with sec := { s.sec with spdm := { p with errs := p.errs + 1 } } }) ∧
      (s.spdmReach op q = false → ∃ t, exec c s = .next t ∧ t = s)
    served (.getVersion q) .getVersion ∧ served (.getCapabilities q) .getCapabilities ∧ served (.negotiateAlgorithms q) .negotiateAlgorithms ∧ served (.getDigests q) .getDigests ∧
      served (.getCertificate q) .getCertificate ∧ served (.challenge q) .challenge ∧ served (.getMeasurements q) .getMeasurements ∧ served (.keyExchange q) .keyExchange ∧
      served (.finish q) .finish ∧ served (.heartbeat q) .heartbeat ∧ served (.keyUpdate q) .keyUpdate ∧ served (.endSession q) .endSession ∧
      served (.vendorDefinedRequest q) .vendorDefined

/-- Balls (R514, R517, R521, R522): a falling supply alarm leaves a Hatbox record, starts the flash copy and raises its event; a supply group that fails, where it is one that the E9 watches, stops
the clock and drops every enable, ends a running job, and leaves its record, the copy and the event in the same way; a JTAG instruction acts where the lifecycle state allows it; a dynamic address
replaces the static one from S3 on, by SETDASA where it names the static address. -/
def Obligations.BallsMoveTheirState : Prop :=
  ∀ (s : State),
    let recorded := fun (t : State) (w : Word) => t.hbx.seq = s.hbx.seq + 1 ∧ t.hbx.copying = true ∧ s.told t.toMach 0x194 ∧
      (∀ k, k ≠ s.hbx.next → SMap.get [] t.hbx.recs k = SMap.get [] s.hbx.recs k) ∧
      let r : List Word := t.hbx.recs.get [] s.hbx.next
      r.length = 16 ∧ fld (r.getD 0 0) 23 16 = 11 ∧ r.getD 4 0 = w
    let watched := fun (g : Nat) => (2 ≤ g ∧ g < 6) ∨ (6 ≤ g ∧ g < 18 ∧ s.pins.pwrEn.testBit g = true)
    let lc := if s.sec.lcValid then s.sec.lc else s.sec.lcFuse
    (∃ t, exec .supfltNFall s = .next t ∧ recorded t 0xFF ∧ t.toMach = { s.toMach with pins := { s.pins with supflt := true }, hbx := t.hbx, evc := t.evc, free := t.free }) ∧
    (∀ g, watched g → ∃ t, exec (.pgoodFall g) s = .next t ∧ recorded t (BitVec.ofNat 32 g) ∧ t.pins = { s.pins with pwrEn := 0, pgood := s.pins.pgood &&& (0x3FFFF - 2 ^ g), supStop := some g } ∧
      t.clk = { s.clk with aclkOn := false } ∧ (s.hq.job = .running → t.hq.job = .ended) ∧ (s.hq.job ≠ .running → t.hq.job = s.hq.job)) ∧
    (∀ g, ¬ watched g → ∃ t, exec (.pgoodFall g) s = .next t ∧ t = s) ∧
    (∃ t, exec (.jtagInstruction .idcode) s = .next t ∧ t.toMach = { s.toMach with pins := { s.pins with jtag := 1, idcode := s.idcode } }) ∧
    (lc ≠ 3 → ∃ t, exec (.jtagInstruction .boundary) s = .next t ∧ t.toMach = { s.toMach with pins := { s.pins with jtag := 2 } }) ∧
    (lc = 3 → ∃ t, exec (.jtagInstruction .boundary) s = .next t ∧ t = s) ∧
    (lc ≠ 1 → lc ≠ 3 → ∃ t, exec (.jtagInstruction .other) s = .next t ∧ t.toMach = { s.toMach with pins := { s.pins with jtag := 3 } }) ∧
    (lc = 1 ∨ lc = 3 → ∃ t, exec (.jtagInstruction .other) s = .next t ∧ t = s) ∧
    (∀ b st a, 3 ≤ s.sec.stage → (b = true → st = 0x48 + s.pins.sbaddr) → ∃ t, exec (.dynamicAddressAssignment b st a) s = .next t ∧
      t.toMach = { s.toMach with pins := { s.pins with dynAddr := some (a % 128), alert := false } }) ∧
    (∀ b st a, s.sec.stage < 3 ∨ (b = true ∧ st ≠ 0x48 + s.pins.sbaddr) → ∃ t, exec (.dynamicAddressAssignment b st a) s = .next t ∧ t = s)

/-! ## The whole machine -/

/-- Reset: the queue is empty, every memory is in its canonical form with nothing listed, ACLK is off, and the boot stands in S0. -/
def Obligations.ResetIsCanonical : Prop :=
  State.reset.pending = [] ∧ State.reset.toMach.memoriesOk = true ∧ State.reset.hmem = [] ∧ State.reset.hub = [] ∧ State.reset.clk.aclkOn = false ∧ State.reset.clk.tb = 0 ∧
    State.reset.sec.stage = 0 ∧ State.reset.sec.done = false ∧ State.reset.hq.job = .idle

/-- An invariant of every step of the machine, whatever its state and its command: where the one-time fuses hold at least what they held in `b`, they do so after
the step (R438, R443, R449): SVNs, blown leaf blocks, the identity kill, revoked roots. -/
def Obligations.StepsKeepOneTimeFuses : Prop :=
  ∀ (b : Sec) (s t : State), Sec.fusesKept b s.sec → step s = .next t → Sec.fusesKept b t.sec
end

