-- ==== Sys2Proof/Laws/Memory.lean ====
section
/-! SUPPORT. Memories: a byte read after a write, and every memory operation keeps the canonical form. -/

namespace Sys2Proof.Machine

/-! ## One byte -/

@[simp] theorem Mem.byte_setByte (m : Mem) (a : Nat) (v : Byte) (h : m.wf = true) : (m.setByte a v).byte a = v := by
  induction m with
  | nil => by_cases hv : v = unwritten <;> simp [Mem.setByte, Mem.byte, hv]
  | cons x r ih =>
    obtain ⟨k, w⟩ := x
    have low : ∀ (r : Mem) (k : Nat) (w : Byte), Mem.wf ((k, w) :: r) = true → ∀ b, b ≤ k → Mem.byte r b = unwritten := by
      intro r
      induction r with
      | nil => intros; rfl
      | cons y q jh =>
        intro k w hw b hb
        obtain ⟨j, u⟩ := y
        simp only [Mem.wf, Bool.and_eq_true, decide_eq_true_eq] at hw
        obtain ⟨⟨-, hk⟩, hq⟩ := hw
        simp only [Mem.byte]
        rw [if_neg (by omega)]
        exact jh j u hq b (by omega)
    have hr : Mem.wf r = true := by
      cases r with
      | nil => rfl
      | cons y q => simp only [Mem.wf, Bool.and_eq_true] at h; exact h.2
    unfold Mem.setByte
    split
    · rename_i hlt
      split
      · rename_i hv
        simp only [Mem.byte]
        rw [if_neg (by omega), hv]
        exact low r k w h a (by omega)
      · simp [Mem.byte]
    · split
      · rename_i he
        split
        · rename_i hv
          rw [hv]
          exact low r k w h a (by omega)
        · simp [Mem.byte]
      · rename_i h1 h2
        simp only [Mem.byte]
        rw [if_neg (fun e => h2 e.symm)]
        exact ih hr

theorem Mem.byte_setByte_ne (m : Mem) {a b : Nat} (v : Byte) (h : b ≠ a) (hm : m.wf = true) : (m.setByte a v).byte b = m.byte b := by
  induction m with
  | nil => by_cases hv : v = unwritten <;> simp [Mem.setByte, Mem.byte, hv, Ne.symm h]
  | cons x r ih =>
    obtain ⟨k, w⟩ := x
    have hr : Mem.wf r = true := by
      cases r with
      | nil => rfl
      | cons y q => simp only [Mem.wf, Bool.and_eq_true] at hm; exact hm.2
    unfold Mem.setByte
    split
    · split
      · rfl
      · simp [Mem.byte, Ne.symm h]
    · split
      · rename_i he
        subst he
        split <;> simp [Mem.byte, Ne.symm h]
      · simp only [Mem.byte]
        rw [ih hr]

/-- A memory whose first address, if any, lies above k. -/
theorem Mem.wf_cons (k : Nat) (v : Byte) (r : Mem) :
    Mem.wf ((k, v) :: r) = true ↔ v ≠ unwritten ∧ (∀ x ∈ r.head?, k < x.1) ∧ Mem.wf r = true := by
  cases r with
  | nil => simp [Mem.wf]
  | cons y q =>
    obtain ⟨j, u⟩ := y
    simp [Mem.wf, and_assoc]

theorem Mem.setByte_head (m : Mem) (a k : Nat) (v : Byte) (h : ∀ x ∈ m.head?, k < x.1) (hm : m.wf = true) (hk : k < a) :
    ∀ x ∈ (m.setByte a v).head?, k < x.1 := by
  cases m with
  | nil => by_cases hv : v = unwritten <;> simp [Mem.setByte, hv, hk]
  | cons y q =>
    obtain ⟨j, u⟩ := y
    have hj : k < j := h (j, u) (by simp)
    obtain ⟨-, hh, -⟩ := (Mem.wf_cons j u q).mp hm
    unfold Mem.setByte
    split
    · split <;> simp [hj, hk]
    · split
      · split
        · intro x hx
          exact Nat.lt_trans hj (hh x hx)
        · simp [hk]
      · simp [hj]

/-- Storing a byte keeps the canonical form. -/
theorem Mem.setByte_wf (m : Mem) (a : Nat) (v : Byte) (h : m.wf = true) : (m.setByte a v).wf = true := by
  induction m with
  | nil => by_cases hv : v = unwritten <;> simp [Mem.setByte, Mem.wf, hv]
  | cons x r ih =>
    obtain ⟨k, w⟩ := x
    obtain ⟨hw, hh, hr⟩ := (Mem.wf_cons k w r).mp h
    unfold Mem.setByte
    split
    · rename_i hlt
      split
      · exact h
      · rename_i hv
        exact (Mem.wf_cons _ _ _).mpr ⟨hv, by simpa using hlt, h⟩
    · split
      · rename_i he
        split
        · exact hr
        · rename_i hv
          subst he
          exact (Mem.wf_cons _ _ _).mpr ⟨hv, hh, hr⟩
      · exact (Mem.wf_cons _ _ _).mpr ⟨hw, Mem.setByte_head r a k v hh hr (by omega), ih hr⟩

/-! ## Runs of bytes and words -/

theorem Mem.setBytes_wf (m : Mem) (a : Nat) (bs : List Byte) (h : m.wf = true) : (m.setBytes a bs).wf = true := by
  induction bs generalizing m a with
  | nil => exact h
  | cons b r ih => exact ih _ _ (Mem.setByte_wf m a b h)

theorem Mem.setWord_wf (m : Mem) (w : Nat) (v : Word) (h : m.wf = true) : (m.setWord w v).wf = true := Mem.setBytes_wf m _ _ h

theorem Mem.setWords_wf (m : Mem) (w : Nat) (vs : List Word) (h : m.wf = true) : (m.setWords w vs).wf = true := by
  induction vs generalizing m w with
  | nil => exact h
  | cons v r ih => exact ih _ _ (Mem.setWord_wf m w v h)

theorem Mem.filter_wf (m : Mem) (p : Host.Cell → Bool) (h : m.wf = true) : Mem.wf (m.filter p) = true := by
  have key : ∀ (m : Mem) (k : Nat), m.wf = true → (∀ x ∈ m.head?, k < x.1) → ∀ x ∈ (m.filter p).head?, k < x.1 := by
    intro m
    induction m with
    | nil => intro k _ _ x hx; simp at hx
    | cons y q ih =>
      intro k hw hh x hx
      obtain ⟨j, u⟩ := y
      have hj : k < j := hh (j, u) (by simp)
      obtain ⟨-, hq, hqw⟩ := (Mem.wf_cons j u q).mp hw
      rw [List.filter_cons] at hx
      split at hx
      · simp at hx
        rw [← hx]
        exact hj
      · exact ih k hqw (fun z hz => Nat.lt_trans hj (hq z hz)) x hx
  induction m with
  | nil => rfl
  | cons y q ih =>
    obtain ⟨j, u⟩ := y
    obtain ⟨hu, hq, hqw⟩ := (Mem.wf_cons j u q).mp h
    rw [List.filter_cons]
    split
    · exact (Mem.wf_cons _ _ _).mpr ⟨hu, key q j hqw hq, ih hqw⟩
    · exact ih hqw

theorem Mem.clear_wf (m : Mem) (a n : Nat) (h : m.wf = true) : (m.clear a n).wf = true := Mem.filter_wf m _ h

theorem Mem.byte_setBytes_ne (m : Mem) (a : Nat) (bs : List Byte) (b : Nat) (hm : m.wf = true) (h : b < a ∨ a + bs.length ≤ b) :
    (m.setBytes a bs).byte b = m.byte b := by
  induction bs generalizing m a with
  | nil => rfl
  | cons x r ih =>
    simp only [List.length_cons] at h
    rw [Mem.setBytes, ih _ _ (Mem.setByte_wf m a x hm) (by omega), Mem.byte_setByte_ne m x (by omega) hm]

@[simp] theorem bytesOfNat_length (n x : Nat) : (bytesOfNat n x).length = n := by
  induction n generalizing x with
  | zero => rfl
  | succ n ih => simp [bytesOfNat, ih]

theorem Mem.byte_setWords_ne (m : Mem) (w : Nat) (vs : List Word) (b : Nat) (hm : m.wf = true) (h : b < 4 * w ∨ 4 * (w + vs.length) ≤ b) :
    (m.setWords w vs).byte b = m.byte b := by
  induction vs generalizing m w with
  | nil => rfl
  | cons x r ih =>
    simp only [List.length_cons] at h
    rw [Mem.setWords, ih _ _ (Mem.setWord_wf m w x hm) (by omega)]
    exact Mem.byte_setBytes_ne m _ _ b hm (by simp; omega)

/-- The bytes of a tile's memory outside a store keep what they held. -/
theorem Tile.poke_byte_ne (t : Tile) (a : Nat) (ws : List Word) (b : Nat) (hm : t.mem.wf = true) (h : b < 4 * a ∨ 4 * (a + ws.length) ≤ b) :
    (t.poke a ws).mem.byte b = t.mem.byte b := Mem.byte_setWords_ne t.mem a ws b hm h

theorem Tile.poke_wf (t : Tile) (a : Nat) (ws : List Word) (hm : t.mem.wf = true) : (t.poke a ws).mem.wf = true := Mem.setWords_wf t.mem a ws hm

end Sys2Proof.Machine
end

