-- ==== Sys2Proof/Laws/State.lean ====
section
/-! SUPPORT. The state's updates: a table looked up after a change, and for each shared operation what it leaves alone, field by field. -/

namespace Sys2Proof.Machine

/-! ## Tables -/

@[simp] theorem SMap.get_put {α : Type} (d : α) (m : SMap α) (n : Nat) (v : α) : SMap.get d (SMap.put m n v) n = v := by
  induction m with
  | nil => simp [SMap.put, SMap.get]
  | cons x r ih =>
    obtain ⟨k, w⟩ := x
    unfold SMap.put
    split
    · simp [SMap.get]
    · split
      · simp [SMap.get]
      · rename_i h1 h2
        simp only [SMap.get]
        rw [if_neg (fun h => h2 h.symm), ih]

theorem SMap.get_put_ne {α : Type} (d : α) (m : SMap α) {n k : Nat} (v : α) (h : k ≠ n) : SMap.get d (SMap.put m n v) k = SMap.get d m k := by
  induction m with
  | nil => simp [SMap.put, SMap.get, Ne.symm h]
  | cons x r ih =>
    obtain ⟨j, w⟩ := x
    unfold SMap.put
    split
    · simp [SMap.get, Ne.symm h]
    · split
      · rename_i h2
        subst h2
        simp [SMap.get, Ne.symm h]
      · simp only [SMap.get]
        rw [ih]

@[simp] theorem SMap.get_upd {α : Type} (d : α) (m : SMap α) (n : Nat) (f : α → α) : SMap.get d (SMap.upd d m n f) n = f (SMap.get d m n) := by
  simp [SMap.upd]

theorem SMap.get_upd_ne {α : Type} (d : α) (m : SMap α) {n k : Nat} (f : α → α) (h : k ≠ n) : SMap.get d (SMap.upd d m n f) k = SMap.get d m k :=
  SMap.get_put_ne d m _ h

theorem SMap.get_set {α : Type} [DecidableEq α] (d : α) (m : SMap α) (n : Nat) (v : α) : SMap.get d (SMap.set d m n v) n = v := by
  unfold SMap.set
  split
  · rename_i h
    subst h
    induction m with
    | nil => rfl
    | cons x r ih =>
      obtain ⟨k, w⟩ := x
      rw [List.filter_cons]
      split
      · rename_i hk
        simp only [SMap.get]
        rw [if_neg (by simpa using hk)]
        exact ih
      · exact ih
  · exact SMap.get_put d m n v

theorem SMap.get_set_ne {α : Type} [DecidableEq α] (d : α) (m : SMap α) {n k : Nat} (v : α) (h : k ≠ n) : SMap.get d (SMap.set d m n v) k = SMap.get d m k := by
  unfold SMap.set
  split
  · induction m with
    | nil => rfl
    | cons x r ih =>
      obtain ⟨j, w⟩ := x
      rw [List.filter_cons]
      split
      · simp only [SMap.get]
        rw [ih]
      · rename_i hj
        simp at hj
        subst hj
        simp only [SMap.get]
        rw [if_neg (Ne.symm h)]
        exact ih
  · exact SMap.get_put_ne d m v h

/-! ## The state -/

@[simp] theorem State.act_eq (s : State) (f : Mach → Mach) : s.act f = .next { s with toMach := f s.toMach } := rfl

/-- A command answers a next state: what its effect on the machine is, with the queue kept. -/
theorem State.act_next {s : State} {f : Mach → Mach} {P : State → Prop} (m : Mach) (h : f s.toMach = m) (hp : P { s with toMach := m }) :
    ∃ t, s.act f = .next t ∧ P t := ⟨_, by rw [State.act_eq, h], hp⟩

/-! ## Shared operations: what each may change, and every field that it leaves alone -/

theorem Mach.setReg_frame (s : Mach) (o : Nat) (v : Word) : s.setReg o v = { s with regs := (s.setReg o v).regs, lows := (s.setReg o v).lows } := rfl

@[simp] theorem Mach.setReg_clk (s : Mach) (o : Nat) (v : Word) : (s.setReg o v).clk = s.clk := rfl
@[simp] theorem Mach.setReg_part (s : Mach) (o : Nat) (v : Word) : (s.setReg o v).part = s.part := rfl
@[simp] theorem Mach.setReg_tiles (s : Mach) (o : Nat) (v : Word) : (s.setReg o v).tiles = s.tiles := rfl
@[simp] theorem Mach.setReg_dies (s : Mach) (o : Nat) (v : Word) : (s.setReg o v).dies = s.dies := rfl
@[simp] theorem Mach.setReg_groups (s : Mach) (o : Nat) (v : Word) : (s.setReg o v).groups = s.groups := rfl
@[simp] theorem Mach.setReg_flight (s : Mach) (o : Nat) (v : Word) : (s.setReg o v).flight = s.flight := rfl
@[simp] theorem Mach.setReg_msgs (s : Mach) (o : Nat) (v : Word) : (s.setReg o v).msgs = s.msgs := rfl
@[simp] theorem Mach.setReg_dil (s : Mach) (o : Nat) (v : Word) : (s.setReg o v).dil = s.dil := rfl
@[simp] theorem Mach.setReg_itg (s : Mach) (o : Nat) (v : Word) : (s.setReg o v).itg = s.itg := rfl
@[simp] theorem Mach.setReg_hq (s : Mach) (o : Nat) (v : Word) : (s.setReg o v).hq = s.hq := rfl
@[simp] theorem Mach.setReg_trw (s : Mach) (o : Nat) (v : Word) : (s.setReg o v).trw = s.trw := rfl
@[simp] theorem Mach.setReg_dig (s : Mach) (o : Nat) (v : Word) : (s.setReg o v).dig = s.dig := rfl
@[simp] theorem Mach.setReg_gscs (s : Mach) (o : Nat) (v : Word) : (s.setReg o v).gscs = s.gscs := rfl
@[simp] theorem Mach.setReg_hbms (s : Mach) (o : Nat) (v : Word) : (s.setReg o v).hbms = s.hbms := rfl
@[simp] theorem Mach.setReg_ot (s : Mach) (o : Nat) (v : Word) : (s.setReg o v).ot = s.ot := rfl
@[simp] theorem Mach.setReg_movers (s : Mach) (o : Nat) (v : Word) : (s.setReg o v).movers = s.movers := rfl
@[simp] theorem Mach.setReg_shadow (s : Mach) (o : Nat) (v : Word) : (s.setReg o v).shadow = s.shadow := rfl
@[simp] theorem Mach.setReg_rdata (s : Mach) (o : Nat) (v : Word) : (s.setReg o v).rdata = s.rdata := rfl
@[simp] theorem Mach.setReg_hub (s : Mach) (o : Nat) (v : Word) : (s.setReg o v).hub = s.hub := rfl
@[simp] theorem Mach.setReg_hubBad (s : Mach) (o : Nat) (v : Word) : (s.setReg o v).hubBad = s.hubBad := rfl
@[simp] theorem Mach.setReg_hubSoft (s : Mach) (o : Nat) (v : Word) : (s.setReg o v).hubSoft = s.hubSoft := rfl
@[simp] theorem Mach.setReg_hmem (s : Mach) (o : Nat) (v : Word) : (s.setReg o v).hmem = s.hmem := rfl
@[simp] theorem Mach.setReg_qch (s : Mach) (o : Nat) (v : Word) : (s.setReg o v).qch = s.qch := rfl
@[simp] theorem Mach.setReg_hbx (s : Mach) (o : Nat) (v : Word) : (s.setReg o v).hbx = s.hbx := rfl
@[simp] theorem Mach.setReg_boots (s : Mach) (o : Nat) (v : Word) : (s.setReg o v).boots = s.boots := rfl
@[simp] theorem Mach.setReg_evc (s : Mach) (o : Nat) (v : Word) : (s.setReg o v).evc = s.evc := rfl
@[simp] theorem Mach.setReg_pw (s : Mach) (o : Nat) (v : Word) : (s.setReg o v).pw = s.pw := rfl
@[simp] theorem Mach.setReg_sec (s : Mach) (o : Nat) (v : Word) : (s.setReg o v).sec = s.sec := rfl
@[simp] theorem Mach.setReg_pins (s : Mach) (o : Nat) (v : Word) : (s.setReg o v).pins = s.pins := rfl
@[simp] theorem Mach.setReg_fuseFences (s : Mach) (o : Nat) (v : Word) : (s.setReg o v).fuseFences = s.fuseFences := rfl
@[simp] theorem Mach.setReg_flashFences (s : Mach) (o : Nat) (v : Word) : (s.setReg o v).flashFences = s.flashFences := rfl
@[simp] theorem Mach.setReg_free (s : Mach) (o : Nat) (v : Word) : (s.setReg o v).free = s.free := rfl

theorem Mach.raise_frame (s : Mach) (n : Nat) (a b : Word) : s.raise n a b = { s with evc := (s.raise n a b).evc } := by unfold Mach.raise; split <;> rfl

@[simp] theorem Mach.raise_clk (s : Mach) (n : Nat) (a b : Word) : (s.raise n a b).clk = s.clk := (congrArg Mach.clk (Mach.raise_frame s n a b) :)
@[simp] theorem Mach.raise_part (s : Mach) (n : Nat) (a b : Word) : (s.raise n a b).part = s.part := (congrArg Mach.part (Mach.raise_frame s n a b) :)
@[simp] theorem Mach.raise_regs (s : Mach) (n : Nat) (a b : Word) : (s.raise n a b).regs = s.regs := (congrArg Mach.regs (Mach.raise_frame s n a b) :)
@[simp] theorem Mach.raise_tiles (s : Mach) (n : Nat) (a b : Word) : (s.raise n a b).tiles = s.tiles := (congrArg Mach.tiles (Mach.raise_frame s n a b) :)
@[simp] theorem Mach.raise_dies (s : Mach) (n : Nat) (a b : Word) : (s.raise n a b).dies = s.dies := (congrArg Mach.dies (Mach.raise_frame s n a b) :)
@[simp] theorem Mach.raise_groups (s : Mach) (n : Nat) (a b : Word) : (s.raise n a b).groups = s.groups := (congrArg Mach.groups (Mach.raise_frame s n a b) :)
@[simp] theorem Mach.raise_flight (s : Mach) (n : Nat) (a b : Word) : (s.raise n a b).flight = s.flight := (congrArg Mach.flight (Mach.raise_frame s n a b) :)
@[simp] theorem Mach.raise_msgs (s : Mach) (n : Nat) (a b : Word) : (s.raise n a b).msgs = s.msgs := (congrArg Mach.msgs (Mach.raise_frame s n a b) :)
@[simp] theorem Mach.raise_dil (s : Mach) (n : Nat) (a b : Word) : (s.raise n a b).dil = s.dil := (congrArg Mach.dil (Mach.raise_frame s n a b) :)
@[simp] theorem Mach.raise_itg (s : Mach) (n : Nat) (a b : Word) : (s.raise n a b).itg = s.itg := (congrArg Mach.itg (Mach.raise_frame s n a b) :)
@[simp] theorem Mach.raise_hq (s : Mach) (n : Nat) (a b : Word) : (s.raise n a b).hq = s.hq := (congrArg Mach.hq (Mach.raise_frame s n a b) :)
@[simp] theorem Mach.raise_trw (s : Mach) (n : Nat) (a b : Word) : (s.raise n a b).trw = s.trw := (congrArg Mach.trw (Mach.raise_frame s n a b) :)
@[simp] theorem Mach.raise_dig (s : Mach) (n : Nat) (a b : Word) : (s.raise n a b).dig = s.dig := (congrArg Mach.dig (Mach.raise_frame s n a b) :)
@[simp] theorem Mach.raise_gscs (s : Mach) (n : Nat) (a b : Word) : (s.raise n a b).gscs = s.gscs := (congrArg Mach.gscs (Mach.raise_frame s n a b) :)
@[simp] theorem Mach.raise_hbms (s : Mach) (n : Nat) (a b : Word) : (s.raise n a b).hbms = s.hbms := (congrArg Mach.hbms (Mach.raise_frame s n a b) :)
@[simp] theorem Mach.raise_ot (s : Mach) (n : Nat) (a b : Word) : (s.raise n a b).ot = s.ot := (congrArg Mach.ot (Mach.raise_frame s n a b) :)
@[simp] theorem Mach.raise_movers (s : Mach) (n : Nat) (a b : Word) : (s.raise n a b).movers = s.movers := (congrArg Mach.movers (Mach.raise_frame s n a b) :)
@[simp] theorem Mach.raise_shadow (s : Mach) (n : Nat) (a b : Word) : (s.raise n a b).shadow = s.shadow := (congrArg Mach.shadow (Mach.raise_frame s n a b) :)
@[simp] theorem Mach.raise_lows (s : Mach) (n : Nat) (a b : Word) : (s.raise n a b).lows = s.lows := (congrArg Mach.lows (Mach.raise_frame s n a b) :)
@[simp] theorem Mach.raise_rdata (s : Mach) (n : Nat) (a b : Word) : (s.raise n a b).rdata = s.rdata := (congrArg Mach.rdata (Mach.raise_frame s n a b) :)
@[simp] theorem Mach.raise_hub (s : Mach) (n : Nat) (a b : Word) : (s.raise n a b).hub = s.hub := (congrArg Mach.hub (Mach.raise_frame s n a b) :)
@[simp] theorem Mach.raise_hubBad (s : Mach) (n : Nat) (a b : Word) : (s.raise n a b).hubBad = s.hubBad := (congrArg Mach.hubBad (Mach.raise_frame s n a b) :)
@[simp] theorem Mach.raise_hubSoft (s : Mach) (n : Nat) (a b : Word) : (s.raise n a b).hubSoft = s.hubSoft := (congrArg Mach.hubSoft (Mach.raise_frame s n a b) :)
@[simp] theorem Mach.raise_hmem (s : Mach) (n : Nat) (a b : Word) : (s.raise n a b).hmem = s.hmem := (congrArg Mach.hmem (Mach.raise_frame s n a b) :)
@[simp] theorem Mach.raise_qch (s : Mach) (n : Nat) (a b : Word) : (s.raise n a b).qch = s.qch := (congrArg Mach.qch (Mach.raise_frame s n a b) :)
@[simp] theorem Mach.raise_hbx (s : Mach) (n : Nat) (a b : Word) : (s.raise n a b).hbx = s.hbx := (congrArg Mach.hbx (Mach.raise_frame s n a b) :)
@[simp] theorem Mach.raise_boots (s : Mach) (n : Nat) (a b : Word) : (s.raise n a b).boots = s.boots := (congrArg Mach.boots (Mach.raise_frame s n a b) :)
@[simp] theorem Mach.raise_pw (s : Mach) (n : Nat) (a b : Word) : (s.raise n a b).pw = s.pw := (congrArg Mach.pw (Mach.raise_frame s n a b) :)
@[simp] theorem Mach.raise_sec (s : Mach) (n : Nat) (a b : Word) : (s.raise n a b).sec = s.sec := (congrArg Mach.sec (Mach.raise_frame s n a b) :)
@[simp] theorem Mach.raise_pins (s : Mach) (n : Nat) (a b : Word) : (s.raise n a b).pins = s.pins := (congrArg Mach.pins (Mach.raise_frame s n a b) :)
@[simp] theorem Mach.raise_fuseFences (s : Mach) (n : Nat) (a b : Word) : (s.raise n a b).fuseFences = s.fuseFences := (congrArg Mach.fuseFences (Mach.raise_frame s n a b) :)
@[simp] theorem Mach.raise_flashFences (s : Mach) (n : Nat) (a b : Word) : (s.raise n a b).flashFences = s.flashFences := (congrArg Mach.flashFences (Mach.raise_frame s n a b) :)
@[simp] theorem Mach.raise_free (s : Mach) (n : Nat) (a b : Word) : (s.raise n a b).free = s.free := (congrArg Mach.free (Mach.raise_frame s n a b) :)

theorem Mach.level_frame (s : Mach) (n : Nat) (on : Bool) (a b : Word) : s.level n on a b = { s with evc := (s.level n on a b).evc } := by unfold Mach.level; simp only; split <;> (apply Mach.ext <;> simp)

@[simp] theorem Mach.level_clk (s : Mach) (n : Nat) (on : Bool) (a b : Word) : (s.level n on a b).clk = s.clk := (congrArg Mach.clk (Mach.level_frame s n on a b) :)
@[simp] theorem Mach.level_part (s : Mach) (n : Nat) (on : Bool) (a b : Word) : (s.level n on a b).part = s.part := (congrArg Mach.part (Mach.level_frame s n on a b) :)
@[simp] theorem Mach.level_regs (s : Mach) (n : Nat) (on : Bool) (a b : Word) : (s.level n on a b).regs = s.regs := (congrArg Mach.regs (Mach.level_frame s n on a b) :)
@[simp] theorem Mach.level_tiles (s : Mach) (n : Nat) (on : Bool) (a b : Word) : (s.level n on a b).tiles = s.tiles := (congrArg Mach.tiles (Mach.level_frame s n on a b) :)
@[simp] theorem Mach.level_dies (s : Mach) (n : Nat) (on : Bool) (a b : Word) : (s.level n on a b).dies = s.dies := (congrArg Mach.dies (Mach.level_frame s n on a b) :)
@[simp] theorem Mach.level_groups (s : Mach) (n : Nat) (on : Bool) (a b : Word) : (s.level n on a b).groups = s.groups := (congrArg Mach.groups (Mach.level_frame s n on a b) :)
@[simp] theorem Mach.level_flight (s : Mach) (n : Nat) (on : Bool) (a b : Word) : (s.level n on a b).flight = s.flight := (congrArg Mach.flight (Mach.level_frame s n on a b) :)
@[simp] theorem Mach.level_msgs (s : Mach) (n : Nat) (on : Bool) (a b : Word) : (s.level n on a b).msgs = s.msgs := (congrArg Mach.msgs (Mach.level_frame s n on a b) :)
@[simp] theorem Mach.level_dil (s : Mach) (n : Nat) (on : Bool) (a b : Word) : (s.level n on a b).dil = s.dil := (congrArg Mach.dil (Mach.level_frame s n on a b) :)
@[simp] theorem Mach.level_itg (s : Mach) (n : Nat) (on : Bool) (a b : Word) : (s.level n on a b).itg = s.itg := (congrArg Mach.itg (Mach.level_frame s n on a b) :)
@[simp] theorem Mach.level_hq (s : Mach) (n : Nat) (on : Bool) (a b : Word) : (s.level n on a b).hq = s.hq := (congrArg Mach.hq (Mach.level_frame s n on a b) :)
@[simp] theorem Mach.level_trw (s : Mach) (n : Nat) (on : Bool) (a b : Word) : (s.level n on a b).trw = s.trw := (congrArg Mach.trw (Mach.level_frame s n on a b) :)
@[simp] theorem Mach.level_dig (s : Mach) (n : Nat) (on : Bool) (a b : Word) : (s.level n on a b).dig = s.dig := (congrArg Mach.dig (Mach.level_frame s n on a b) :)
@[simp] theorem Mach.level_gscs (s : Mach) (n : Nat) (on : Bool) (a b : Word) : (s.level n on a b).gscs = s.gscs := (congrArg Mach.gscs (Mach.level_frame s n on a b) :)
@[simp] theorem Mach.level_hbms (s : Mach) (n : Nat) (on : Bool) (a b : Word) : (s.level n on a b).hbms = s.hbms := (congrArg Mach.hbms (Mach.level_frame s n on a b) :)
@[simp] theorem Mach.level_ot (s : Mach) (n : Nat) (on : Bool) (a b : Word) : (s.level n on a b).ot = s.ot := (congrArg Mach.ot (Mach.level_frame s n on a b) :)
@[simp] theorem Mach.level_movers (s : Mach) (n : Nat) (on : Bool) (a b : Word) : (s.level n on a b).movers = s.movers := (congrArg Mach.movers (Mach.level_frame s n on a b) :)
@[simp] theorem Mach.level_shadow (s : Mach) (n : Nat) (on : Bool) (a b : Word) : (s.level n on a b).shadow = s.shadow := (congrArg Mach.shadow (Mach.level_frame s n on a b) :)
@[simp] theorem Mach.level_lows (s : Mach) (n : Nat) (on : Bool) (a b : Word) : (s.level n on a b).lows = s.lows := (congrArg Mach.lows (Mach.level_frame s n on a b) :)
@[simp] theorem Mach.level_rdata (s : Mach) (n : Nat) (on : Bool) (a b : Word) : (s.level n on a b).rdata = s.rdata := (congrArg Mach.rdata (Mach.level_frame s n on a b) :)
@[simp] theorem Mach.level_hub (s : Mach) (n : Nat) (on : Bool) (a b : Word) : (s.level n on a b).hub = s.hub := (congrArg Mach.hub (Mach.level_frame s n on a b) :)
@[simp] theorem Mach.level_hubBad (s : Mach) (n : Nat) (on : Bool) (a b : Word) : (s.level n on a b).hubBad = s.hubBad := (congrArg Mach.hubBad (Mach.level_frame s n on a b) :)
@[simp] theorem Mach.level_hubSoft (s : Mach) (n : Nat) (on : Bool) (a b : Word) : (s.level n on a b).hubSoft = s.hubSoft := (congrArg Mach.hubSoft (Mach.level_frame s n on a b) :)
@[simp] theorem Mach.level_hmem (s : Mach) (n : Nat) (on : Bool) (a b : Word) : (s.level n on a b).hmem = s.hmem := (congrArg Mach.hmem (Mach.level_frame s n on a b) :)
@[simp] theorem Mach.level_qch (s : Mach) (n : Nat) (on : Bool) (a b : Word) : (s.level n on a b).qch = s.qch := (congrArg Mach.qch (Mach.level_frame s n on a b) :)
@[simp] theorem Mach.level_hbx (s : Mach) (n : Nat) (on : Bool) (a b : Word) : (s.level n on a b).hbx = s.hbx := (congrArg Mach.hbx (Mach.level_frame s n on a b) :)
@[simp] theorem Mach.level_boots (s : Mach) (n : Nat) (on : Bool) (a b : Word) : (s.level n on a b).boots = s.boots := (congrArg Mach.boots (Mach.level_frame s n on a b) :)
@[simp] theorem Mach.level_pw (s : Mach) (n : Nat) (on : Bool) (a b : Word) : (s.level n on a b).pw = s.pw := (congrArg Mach.pw (Mach.level_frame s n on a b) :)
@[simp] theorem Mach.level_sec (s : Mach) (n : Nat) (on : Bool) (a b : Word) : (s.level n on a b).sec = s.sec := (congrArg Mach.sec (Mach.level_frame s n on a b) :)
@[simp] theorem Mach.level_pins (s : Mach) (n : Nat) (on : Bool) (a b : Word) : (s.level n on a b).pins = s.pins := (congrArg Mach.pins (Mach.level_frame s n on a b) :)
@[simp] theorem Mach.level_fuseFences (s : Mach) (n : Nat) (on : Bool) (a b : Word) : (s.level n on a b).fuseFences = s.fuseFences := (congrArg Mach.fuseFences (Mach.level_frame s n on a b) :)
@[simp] theorem Mach.level_flashFences (s : Mach) (n : Nat) (on : Bool) (a b : Word) : (s.level n on a b).flashFences = s.flashFences := (congrArg Mach.flashFences (Mach.level_frame s n on a b) :)
@[simp] theorem Mach.level_free (s : Mach) (n : Nat) (on : Bool) (a b : Word) : (s.level n on a b).free = s.free := (congrArg Mach.free (Mach.level_frame s n on a b) :)

theorem Mach.dropped_frame (s : Mach) (o c : Nat) (v : Word) : s.dropped o c v = { s with evc := (s.dropped o c v).evc } := Mach.raise_frame s 2 _ v

@[simp] theorem Mach.dropped_clk (s : Mach) (o c : Nat) (v : Word) : (s.dropped o c v).clk = s.clk := (congrArg Mach.clk (Mach.dropped_frame s o c v) :)
@[simp] theorem Mach.dropped_part (s : Mach) (o c : Nat) (v : Word) : (s.dropped o c v).part = s.part := (congrArg Mach.part (Mach.dropped_frame s o c v) :)
@[simp] theorem Mach.dropped_regs (s : Mach) (o c : Nat) (v : Word) : (s.dropped o c v).regs = s.regs := (congrArg Mach.regs (Mach.dropped_frame s o c v) :)
@[simp] theorem Mach.dropped_tiles (s : Mach) (o c : Nat) (v : Word) : (s.dropped o c v).tiles = s.tiles := (congrArg Mach.tiles (Mach.dropped_frame s o c v) :)
@[simp] theorem Mach.dropped_dies (s : Mach) (o c : Nat) (v : Word) : (s.dropped o c v).dies = s.dies := (congrArg Mach.dies (Mach.dropped_frame s o c v) :)
@[simp] theorem Mach.dropped_groups (s : Mach) (o c : Nat) (v : Word) : (s.dropped o c v).groups = s.groups := (congrArg Mach.groups (Mach.dropped_frame s o c v) :)
@[simp] theorem Mach.dropped_flight (s : Mach) (o c : Nat) (v : Word) : (s.dropped o c v).flight = s.flight := (congrArg Mach.flight (Mach.dropped_frame s o c v) :)
@[simp] theorem Mach.dropped_msgs (s : Mach) (o c : Nat) (v : Word) : (s.dropped o c v).msgs = s.msgs := (congrArg Mach.msgs (Mach.dropped_frame s o c v) :)
@[simp] theorem Mach.dropped_dil (s : Mach) (o c : Nat) (v : Word) : (s.dropped o c v).dil = s.dil := (congrArg Mach.dil (Mach.dropped_frame s o c v) :)
@[simp] theorem Mach.dropped_itg (s : Mach) (o c : Nat) (v : Word) : (s.dropped o c v).itg = s.itg := (congrArg Mach.itg (Mach.dropped_frame s o c v) :)
@[simp] theorem Mach.dropped_hq (s : Mach) (o c : Nat) (v : Word) : (s.dropped o c v).hq = s.hq := (congrArg Mach.hq (Mach.dropped_frame s o c v) :)
@[simp] theorem Mach.dropped_trw (s : Mach) (o c : Nat) (v : Word) : (s.dropped o c v).trw = s.trw := (congrArg Mach.trw (Mach.dropped_frame s o c v) :)
@[simp] theorem Mach.dropped_dig (s : Mach) (o c : Nat) (v : Word) : (s.dropped o c v).dig = s.dig := (congrArg Mach.dig (Mach.dropped_frame s o c v) :)
@[simp] theorem Mach.dropped_gscs (s : Mach) (o c : Nat) (v : Word) : (s.dropped o c v).gscs = s.gscs := (congrArg Mach.gscs (Mach.dropped_frame s o c v) :)
@[simp] theorem Mach.dropped_hbms (s : Mach) (o c : Nat) (v : Word) : (s.dropped o c v).hbms = s.hbms := (congrArg Mach.hbms (Mach.dropped_frame s o c v) :)
@[simp] theorem Mach.dropped_ot (s : Mach) (o c : Nat) (v : Word) : (s.dropped o c v).ot = s.ot := (congrArg Mach.ot (Mach.dropped_frame s o c v) :)
@[simp] theorem Mach.dropped_movers (s : Mach) (o c : Nat) (v : Word) : (s.dropped o c v).movers = s.movers := (congrArg Mach.movers (Mach.dropped_frame s o c v) :)
@[simp] theorem Mach.dropped_shadow (s : Mach) (o c : Nat) (v : Word) : (s.dropped o c v).shadow = s.shadow := (congrArg Mach.shadow (Mach.dropped_frame s o c v) :)
@[simp] theorem Mach.dropped_lows (s : Mach) (o c : Nat) (v : Word) : (s.dropped o c v).lows = s.lows := (congrArg Mach.lows (Mach.dropped_frame s o c v) :)
@[simp] theorem Mach.dropped_rdata (s : Mach) (o c : Nat) (v : Word) : (s.dropped o c v).rdata = s.rdata := (congrArg Mach.rdata (Mach.dropped_frame s o c v) :)
@[simp] theorem Mach.dropped_hub (s : Mach) (o c : Nat) (v : Word) : (s.dropped o c v).hub = s.hub := (congrArg Mach.hub (Mach.dropped_frame s o c v) :)
@[simp] theorem Mach.dropped_hubBad (s : Mach) (o c : Nat) (v : Word) : (s.dropped o c v).hubBad = s.hubBad := (congrArg Mach.hubBad (Mach.dropped_frame s o c v) :)
@[simp] theorem Mach.dropped_hubSoft (s : Mach) (o c : Nat) (v : Word) : (s.dropped o c v).hubSoft = s.hubSoft := (congrArg Mach.hubSoft (Mach.dropped_frame s o c v) :)
@[simp] theorem Mach.dropped_hmem (s : Mach) (o c : Nat) (v : Word) : (s.dropped o c v).hmem = s.hmem := (congrArg Mach.hmem (Mach.dropped_frame s o c v) :)
@[simp] theorem Mach.dropped_qch (s : Mach) (o c : Nat) (v : Word) : (s.dropped o c v).qch = s.qch := (congrArg Mach.qch (Mach.dropped_frame s o c v) :)
@[simp] theorem Mach.dropped_hbx (s : Mach) (o c : Nat) (v : Word) : (s.dropped o c v).hbx = s.hbx := (congrArg Mach.hbx (Mach.dropped_frame s o c v) :)
@[simp] theorem Mach.dropped_boots (s : Mach) (o c : Nat) (v : Word) : (s.dropped o c v).boots = s.boots := (congrArg Mach.boots (Mach.dropped_frame s o c v) :)
@[simp] theorem Mach.dropped_pw (s : Mach) (o c : Nat) (v : Word) : (s.dropped o c v).pw = s.pw := (congrArg Mach.pw (Mach.dropped_frame s o c v) :)
@[simp] theorem Mach.dropped_sec (s : Mach) (o c : Nat) (v : Word) : (s.dropped o c v).sec = s.sec := (congrArg Mach.sec (Mach.dropped_frame s o c v) :)
@[simp] theorem Mach.dropped_pins (s : Mach) (o c : Nat) (v : Word) : (s.dropped o c v).pins = s.pins := (congrArg Mach.pins (Mach.dropped_frame s o c v) :)
@[simp] theorem Mach.dropped_fuseFences (s : Mach) (o c : Nat) (v : Word) : (s.dropped o c v).fuseFences = s.fuseFences := (congrArg Mach.fuseFences (Mach.dropped_frame s o c v) :)
@[simp] theorem Mach.dropped_flashFences (s : Mach) (o c : Nat) (v : Word) : (s.dropped o c v).flashFences = s.flashFences := (congrArg Mach.flashFences (Mach.dropped_frame s o c v) :)
@[simp] theorem Mach.dropped_free (s : Mach) (o c : Nat) (v : Word) : (s.dropped o c v).free = s.free := (congrArg Mach.free (Mach.dropped_frame s o c v) :)

theorem Mach.alarm_frame (s : Mach) (b : Nat) : s.alarm b = { s with regs := (s.alarm b).regs, evc := (s.alarm b).evc } := by unfold Mach.alarm; simp only; split <;> (apply Mach.ext <;> simp [Mach.setReg, isHighWord])

@[simp] theorem Mach.alarm_clk (s : Mach) (b : Nat) : (s.alarm b).clk = s.clk := (congrArg Mach.clk (Mach.alarm_frame s b) :)
@[simp] theorem Mach.alarm_part (s : Mach) (b : Nat) : (s.alarm b).part = s.part := (congrArg Mach.part (Mach.alarm_frame s b) :)
@[simp] theorem Mach.alarm_tiles (s : Mach) (b : Nat) : (s.alarm b).tiles = s.tiles := (congrArg Mach.tiles (Mach.alarm_frame s b) :)
@[simp] theorem Mach.alarm_dies (s : Mach) (b : Nat) : (s.alarm b).dies = s.dies := (congrArg Mach.dies (Mach.alarm_frame s b) :)
@[simp] theorem Mach.alarm_groups (s : Mach) (b : Nat) : (s.alarm b).groups = s.groups := (congrArg Mach.groups (Mach.alarm_frame s b) :)
@[simp] theorem Mach.alarm_flight (s : Mach) (b : Nat) : (s.alarm b).flight = s.flight := (congrArg Mach.flight (Mach.alarm_frame s b) :)
@[simp] theorem Mach.alarm_msgs (s : Mach) (b : Nat) : (s.alarm b).msgs = s.msgs := (congrArg Mach.msgs (Mach.alarm_frame s b) :)
@[simp] theorem Mach.alarm_dil (s : Mach) (b : Nat) : (s.alarm b).dil = s.dil := (congrArg Mach.dil (Mach.alarm_frame s b) :)
@[simp] theorem Mach.alarm_itg (s : Mach) (b : Nat) : (s.alarm b).itg = s.itg := (congrArg Mach.itg (Mach.alarm_frame s b) :)
@[simp] theorem Mach.alarm_hq (s : Mach) (b : Nat) : (s.alarm b).hq = s.hq := (congrArg Mach.hq (Mach.alarm_frame s b) :)
@[simp] theorem Mach.alarm_trw (s : Mach) (b : Nat) : (s.alarm b).trw = s.trw := (congrArg Mach.trw (Mach.alarm_frame s b) :)
@[simp] theorem Mach.alarm_dig (s : Mach) (b : Nat) : (s.alarm b).dig = s.dig := (congrArg Mach.dig (Mach.alarm_frame s b) :)
@[simp] theorem Mach.alarm_gscs (s : Mach) (b : Nat) : (s.alarm b).gscs = s.gscs := (congrArg Mach.gscs (Mach.alarm_frame s b) :)
@[simp] theorem Mach.alarm_hbms (s : Mach) (b : Nat) : (s.alarm b).hbms = s.hbms := (congrArg Mach.hbms (Mach.alarm_frame s b) :)
@[simp] theorem Mach.alarm_ot (s : Mach) (b : Nat) : (s.alarm b).ot = s.ot := (congrArg Mach.ot (Mach.alarm_frame s b) :)
@[simp] theorem Mach.alarm_movers (s : Mach) (b : Nat) : (s.alarm b).movers = s.movers := (congrArg Mach.movers (Mach.alarm_frame s b) :)
@[simp] theorem Mach.alarm_shadow (s : Mach) (b : Nat) : (s.alarm b).shadow = s.shadow := (congrArg Mach.shadow (Mach.alarm_frame s b) :)
@[simp] theorem Mach.alarm_lows (s : Mach) (b : Nat) : (s.alarm b).lows = s.lows := (congrArg Mach.lows (Mach.alarm_frame s b) :)
@[simp] theorem Mach.alarm_rdata (s : Mach) (b : Nat) : (s.alarm b).rdata = s.rdata := (congrArg Mach.rdata (Mach.alarm_frame s b) :)
@[simp] theorem Mach.alarm_hub (s : Mach) (b : Nat) : (s.alarm b).hub = s.hub := (congrArg Mach.hub (Mach.alarm_frame s b) :)
@[simp] theorem Mach.alarm_hubBad (s : Mach) (b : Nat) : (s.alarm b).hubBad = s.hubBad := (congrArg Mach.hubBad (Mach.alarm_frame s b) :)
@[simp] theorem Mach.alarm_hubSoft (s : Mach) (b : Nat) : (s.alarm b).hubSoft = s.hubSoft := (congrArg Mach.hubSoft (Mach.alarm_frame s b) :)
@[simp] theorem Mach.alarm_hmem (s : Mach) (b : Nat) : (s.alarm b).hmem = s.hmem := (congrArg Mach.hmem (Mach.alarm_frame s b) :)
@[simp] theorem Mach.alarm_qch (s : Mach) (b : Nat) : (s.alarm b).qch = s.qch := (congrArg Mach.qch (Mach.alarm_frame s b) :)
@[simp] theorem Mach.alarm_hbx (s : Mach) (b : Nat) : (s.alarm b).hbx = s.hbx := (congrArg Mach.hbx (Mach.alarm_frame s b) :)
@[simp] theorem Mach.alarm_boots (s : Mach) (b : Nat) : (s.alarm b).boots = s.boots := (congrArg Mach.boots (Mach.alarm_frame s b) :)
@[simp] theorem Mach.alarm_pw (s : Mach) (b : Nat) : (s.alarm b).pw = s.pw := (congrArg Mach.pw (Mach.alarm_frame s b) :)
@[simp] theorem Mach.alarm_sec (s : Mach) (b : Nat) : (s.alarm b).sec = s.sec := (congrArg Mach.sec (Mach.alarm_frame s b) :)
@[simp] theorem Mach.alarm_pins (s : Mach) (b : Nat) : (s.alarm b).pins = s.pins := (congrArg Mach.pins (Mach.alarm_frame s b) :)
@[simp] theorem Mach.alarm_fuseFences (s : Mach) (b : Nat) : (s.alarm b).fuseFences = s.fuseFences := (congrArg Mach.fuseFences (Mach.alarm_frame s b) :)
@[simp] theorem Mach.alarm_flashFences (s : Mach) (b : Nat) : (s.alarm b).flashFences = s.flashFences := (congrArg Mach.flashFences (Mach.alarm_frame s b) :)
@[simp] theorem Mach.alarm_free (s : Mach) (b : Nat) : (s.alarm b).free = s.free := (congrArg Mach.free (Mach.alarm_frame s b) :)

theorem Mach.alarmTbl_frame (s : Mach) (n : Nat) : s.alarmTbl n = { s with regs := (s.alarmTbl n).regs, evc := (s.alarmTbl n).evc, itg := (s.alarmTbl n).itg } := by unfold Mach.alarmTbl; simp only; split <;> (apply Mach.ext <;> simp [Mach.setReg, isHighWord])

@[simp] theorem Mach.alarmTbl_clk (s : Mach) (n : Nat) : (s.alarmTbl n).clk = s.clk := (congrArg Mach.clk (Mach.alarmTbl_frame s n) :)
@[simp] theorem Mach.alarmTbl_part (s : Mach) (n : Nat) : (s.alarmTbl n).part = s.part := (congrArg Mach.part (Mach.alarmTbl_frame s n) :)
@[simp] theorem Mach.alarmTbl_tiles (s : Mach) (n : Nat) : (s.alarmTbl n).tiles = s.tiles := (congrArg Mach.tiles (Mach.alarmTbl_frame s n) :)
@[simp] theorem Mach.alarmTbl_dies (s : Mach) (n : Nat) : (s.alarmTbl n).dies = s.dies := (congrArg Mach.dies (Mach.alarmTbl_frame s n) :)
@[simp] theorem Mach.alarmTbl_groups (s : Mach) (n : Nat) : (s.alarmTbl n).groups = s.groups := (congrArg Mach.groups (Mach.alarmTbl_frame s n) :)
@[simp] theorem Mach.alarmTbl_flight (s : Mach) (n : Nat) : (s.alarmTbl n).flight = s.flight := (congrArg Mach.flight (Mach.alarmTbl_frame s n) :)
@[simp] theorem Mach.alarmTbl_msgs (s : Mach) (n : Nat) : (s.alarmTbl n).msgs = s.msgs := (congrArg Mach.msgs (Mach.alarmTbl_frame s n) :)
@[simp] theorem Mach.alarmTbl_dil (s : Mach) (n : Nat) : (s.alarmTbl n).dil = s.dil := (congrArg Mach.dil (Mach.alarmTbl_frame s n) :)
@[simp] theorem Mach.alarmTbl_hq (s : Mach) (n : Nat) : (s.alarmTbl n).hq = s.hq := (congrArg Mach.hq (Mach.alarmTbl_frame s n) :)
@[simp] theorem Mach.alarmTbl_trw (s : Mach) (n : Nat) : (s.alarmTbl n).trw = s.trw := (congrArg Mach.trw (Mach.alarmTbl_frame s n) :)
@[simp] theorem Mach.alarmTbl_dig (s : Mach) (n : Nat) : (s.alarmTbl n).dig = s.dig := (congrArg Mach.dig (Mach.alarmTbl_frame s n) :)
@[simp] theorem Mach.alarmTbl_gscs (s : Mach) (n : Nat) : (s.alarmTbl n).gscs = s.gscs := (congrArg Mach.gscs (Mach.alarmTbl_frame s n) :)
@[simp] theorem Mach.alarmTbl_hbms (s : Mach) (n : Nat) : (s.alarmTbl n).hbms = s.hbms := (congrArg Mach.hbms (Mach.alarmTbl_frame s n) :)
@[simp] theorem Mach.alarmTbl_ot (s : Mach) (n : Nat) : (s.alarmTbl n).ot = s.ot := (congrArg Mach.ot (Mach.alarmTbl_frame s n) :)
@[simp] theorem Mach.alarmTbl_movers (s : Mach) (n : Nat) : (s.alarmTbl n).movers = s.movers := (congrArg Mach.movers (Mach.alarmTbl_frame s n) :)
@[simp] theorem Mach.alarmTbl_shadow (s : Mach) (n : Nat) : (s.alarmTbl n).shadow = s.shadow := (congrArg Mach.shadow (Mach.alarmTbl_frame s n) :)
@[simp] theorem Mach.alarmTbl_lows (s : Mach) (n : Nat) : (s.alarmTbl n).lows = s.lows := (congrArg Mach.lows (Mach.alarmTbl_frame s n) :)
@[simp] theorem Mach.alarmTbl_rdata (s : Mach) (n : Nat) : (s.alarmTbl n).rdata = s.rdata := (congrArg Mach.rdata (Mach.alarmTbl_frame s n) :)
@[simp] theorem Mach.alarmTbl_hub (s : Mach) (n : Nat) : (s.alarmTbl n).hub = s.hub := (congrArg Mach.hub (Mach.alarmTbl_frame s n) :)
@[simp] theorem Mach.alarmTbl_hubBad (s : Mach) (n : Nat) : (s.alarmTbl n).hubBad = s.hubBad := (congrArg Mach.hubBad (Mach.alarmTbl_frame s n) :)
@[simp] theorem Mach.alarmTbl_hubSoft (s : Mach) (n : Nat) : (s.alarmTbl n).hubSoft = s.hubSoft := (congrArg Mach.hubSoft (Mach.alarmTbl_frame s n) :)
@[simp] theorem Mach.alarmTbl_hmem (s : Mach) (n : Nat) : (s.alarmTbl n).hmem = s.hmem := (congrArg Mach.hmem (Mach.alarmTbl_frame s n) :)
@[simp] theorem Mach.alarmTbl_qch (s : Mach) (n : Nat) : (s.alarmTbl n).qch = s.qch := (congrArg Mach.qch (Mach.alarmTbl_frame s n) :)
@[simp] theorem Mach.alarmTbl_hbx (s : Mach) (n : Nat) : (s.alarmTbl n).hbx = s.hbx := (congrArg Mach.hbx (Mach.alarmTbl_frame s n) :)
@[simp] theorem Mach.alarmTbl_boots (s : Mach) (n : Nat) : (s.alarmTbl n).boots = s.boots := (congrArg Mach.boots (Mach.alarmTbl_frame s n) :)
@[simp] theorem Mach.alarmTbl_pw (s : Mach) (n : Nat) : (s.alarmTbl n).pw = s.pw := (congrArg Mach.pw (Mach.alarmTbl_frame s n) :)
@[simp] theorem Mach.alarmTbl_sec (s : Mach) (n : Nat) : (s.alarmTbl n).sec = s.sec := (congrArg Mach.sec (Mach.alarmTbl_frame s n) :)
@[simp] theorem Mach.alarmTbl_pins (s : Mach) (n : Nat) : (s.alarmTbl n).pins = s.pins := (congrArg Mach.pins (Mach.alarmTbl_frame s n) :)
@[simp] theorem Mach.alarmTbl_fuseFences (s : Mach) (n : Nat) : (s.alarmTbl n).fuseFences = s.fuseFences := (congrArg Mach.fuseFences (Mach.alarmTbl_frame s n) :)
@[simp] theorem Mach.alarmTbl_flashFences (s : Mach) (n : Nat) : (s.alarmTbl n).flashFences = s.flashFences := (congrArg Mach.flashFences (Mach.alarmTbl_frame s n) :)
@[simp] theorem Mach.alarmTbl_free (s : Mach) (n : Nat) : (s.alarmTbl n).free = s.free := (congrArg Mach.free (Mach.alarmTbl_frame s n) :)

theorem Mach.freeWords_frame (s : Mach) (n : Nat) : (s.freeWords n).2 = { s with free := ((s.freeWords n).2).free } := rfl

@[simp] theorem Mach.freeWords_clk (s : Mach) (n : Nat) : ((s.freeWords n).2).clk = s.clk := rfl
@[simp] theorem Mach.freeWords_part (s : Mach) (n : Nat) : ((s.freeWords n).2).part = s.part := rfl
@[simp] theorem Mach.freeWords_regs (s : Mach) (n : Nat) : ((s.freeWords n).2).regs = s.regs := rfl
@[simp] theorem Mach.freeWords_tiles (s : Mach) (n : Nat) : ((s.freeWords n).2).tiles = s.tiles := rfl
@[simp] theorem Mach.freeWords_dies (s : Mach) (n : Nat) : ((s.freeWords n).2).dies = s.dies := rfl
@[simp] theorem Mach.freeWords_groups (s : Mach) (n : Nat) : ((s.freeWords n).2).groups = s.groups := rfl
@[simp] theorem Mach.freeWords_flight (s : Mach) (n : Nat) : ((s.freeWords n).2).flight = s.flight := rfl
@[simp] theorem Mach.freeWords_msgs (s : Mach) (n : Nat) : ((s.freeWords n).2).msgs = s.msgs := rfl
@[simp] theorem Mach.freeWords_dil (s : Mach) (n : Nat) : ((s.freeWords n).2).dil = s.dil := rfl
@[simp] theorem Mach.freeWords_itg (s : Mach) (n : Nat) : ((s.freeWords n).2).itg = s.itg := rfl
@[simp] theorem Mach.freeWords_hq (s : Mach) (n : Nat) : ((s.freeWords n).2).hq = s.hq := rfl
@[simp] theorem Mach.freeWords_trw (s : Mach) (n : Nat) : ((s.freeWords n).2).trw = s.trw := rfl
@[simp] theorem Mach.freeWords_dig (s : Mach) (n : Nat) : ((s.freeWords n).2).dig = s.dig := rfl
@[simp] theorem Mach.freeWords_gscs (s : Mach) (n : Nat) : ((s.freeWords n).2).gscs = s.gscs := rfl
@[simp] theorem Mach.freeWords_hbms (s : Mach) (n : Nat) : ((s.freeWords n).2).hbms = s.hbms := rfl
@[simp] theorem Mach.freeWords_ot (s : Mach) (n : Nat) : ((s.freeWords n).2).ot = s.ot := rfl
@[simp] theorem Mach.freeWords_movers (s : Mach) (n : Nat) : ((s.freeWords n).2).movers = s.movers := rfl
@[simp] theorem Mach.freeWords_shadow (s : Mach) (n : Nat) : ((s.freeWords n).2).shadow = s.shadow := rfl
@[simp] theorem Mach.freeWords_lows (s : Mach) (n : Nat) : ((s.freeWords n).2).lows = s.lows := rfl
@[simp] theorem Mach.freeWords_rdata (s : Mach) (n : Nat) : ((s.freeWords n).2).rdata = s.rdata := rfl
@[simp] theorem Mach.freeWords_hub (s : Mach) (n : Nat) : ((s.freeWords n).2).hub = s.hub := rfl
@[simp] theorem Mach.freeWords_hubBad (s : Mach) (n : Nat) : ((s.freeWords n).2).hubBad = s.hubBad := rfl
@[simp] theorem Mach.freeWords_hubSoft (s : Mach) (n : Nat) : ((s.freeWords n).2).hubSoft = s.hubSoft := rfl
@[simp] theorem Mach.freeWords_hmem (s : Mach) (n : Nat) : ((s.freeWords n).2).hmem = s.hmem := rfl
@[simp] theorem Mach.freeWords_qch (s : Mach) (n : Nat) : ((s.freeWords n).2).qch = s.qch := rfl
@[simp] theorem Mach.freeWords_hbx (s : Mach) (n : Nat) : ((s.freeWords n).2).hbx = s.hbx := rfl
@[simp] theorem Mach.freeWords_boots (s : Mach) (n : Nat) : ((s.freeWords n).2).boots = s.boots := rfl
@[simp] theorem Mach.freeWords_evc (s : Mach) (n : Nat) : ((s.freeWords n).2).evc = s.evc := rfl
@[simp] theorem Mach.freeWords_pw (s : Mach) (n : Nat) : ((s.freeWords n).2).pw = s.pw := rfl
@[simp] theorem Mach.freeWords_sec (s : Mach) (n : Nat) : ((s.freeWords n).2).sec = s.sec := rfl
@[simp] theorem Mach.freeWords_pins (s : Mach) (n : Nat) : ((s.freeWords n).2).pins = s.pins := rfl
@[simp] theorem Mach.freeWords_fuseFences (s : Mach) (n : Nat) : ((s.freeWords n).2).fuseFences = s.fuseFences := rfl
@[simp] theorem Mach.freeWords_flashFences (s : Mach) (n : Nat) : ((s.freeWords n).2).flashFences = s.flashFences := rfl

theorem Mach.hatbox_frame (s : Mach) (k : Nat) (l : List (Nat × Word)) : s.hatbox k l = { s with free := (s.hatbox k l).free, hbx := (s.hatbox k l).hbx } := rfl

@[simp] theorem Mach.hatbox_clk (s : Mach) (k : Nat) (l : List (Nat × Word)) : (s.hatbox k l).clk = s.clk := rfl
@[simp] theorem Mach.hatbox_part (s : Mach) (k : Nat) (l : List (Nat × Word)) : (s.hatbox k l).part = s.part := rfl
@[simp] theorem Mach.hatbox_regs (s : Mach) (k : Nat) (l : List (Nat × Word)) : (s.hatbox k l).regs = s.regs := rfl
@[simp] theorem Mach.hatbox_tiles (s : Mach) (k : Nat) (l : List (Nat × Word)) : (s.hatbox k l).tiles = s.tiles := rfl
@[simp] theorem Mach.hatbox_dies (s : Mach) (k : Nat) (l : List (Nat × Word)) : (s.hatbox k l).dies = s.dies := rfl
@[simp] theorem Mach.hatbox_groups (s : Mach) (k : Nat) (l : List (Nat × Word)) : (s.hatbox k l).groups = s.groups := rfl
@[simp] theorem Mach.hatbox_flight (s : Mach) (k : Nat) (l : List (Nat × Word)) : (s.hatbox k l).flight = s.flight := rfl
@[simp] theorem Mach.hatbox_msgs (s : Mach) (k : Nat) (l : List (Nat × Word)) : (s.hatbox k l).msgs = s.msgs := rfl
@[simp] theorem Mach.hatbox_dil (s : Mach) (k : Nat) (l : List (Nat × Word)) : (s.hatbox k l).dil = s.dil := rfl
@[simp] theorem Mach.hatbox_itg (s : Mach) (k : Nat) (l : List (Nat × Word)) : (s.hatbox k l).itg = s.itg := rfl
@[simp] theorem Mach.hatbox_hq (s : Mach) (k : Nat) (l : List (Nat × Word)) : (s.hatbox k l).hq = s.hq := rfl
@[simp] theorem Mach.hatbox_trw (s : Mach) (k : Nat) (l : List (Nat × Word)) : (s.hatbox k l).trw = s.trw := rfl
@[simp] theorem Mach.hatbox_dig (s : Mach) (k : Nat) (l : List (Nat × Word)) : (s.hatbox k l).dig = s.dig := rfl
@[simp] theorem Mach.hatbox_gscs (s : Mach) (k : Nat) (l : List (Nat × Word)) : (s.hatbox k l).gscs = s.gscs := rfl
@[simp] theorem Mach.hatbox_hbms (s : Mach) (k : Nat) (l : List (Nat × Word)) : (s.hatbox k l).hbms = s.hbms := rfl
@[simp] theorem Mach.hatbox_ot (s : Mach) (k : Nat) (l : List (Nat × Word)) : (s.hatbox k l).ot = s.ot := rfl
@[simp] theorem Mach.hatbox_movers (s : Mach) (k : Nat) (l : List (Nat × Word)) : (s.hatbox k l).movers = s.movers := rfl
@[simp] theorem Mach.hatbox_shadow (s : Mach) (k : Nat) (l : List (Nat × Word)) : (s.hatbox k l).shadow = s.shadow := rfl
@[simp] theorem Mach.hatbox_lows (s : Mach) (k : Nat) (l : List (Nat × Word)) : (s.hatbox k l).lows = s.lows := rfl
@[simp] theorem Mach.hatbox_rdata (s : Mach) (k : Nat) (l : List (Nat × Word)) : (s.hatbox k l).rdata = s.rdata := rfl
@[simp] theorem Mach.hatbox_hub (s : Mach) (k : Nat) (l : List (Nat × Word)) : (s.hatbox k l).hub = s.hub := rfl
@[simp] theorem Mach.hatbox_hubBad (s : Mach) (k : Nat) (l : List (Nat × Word)) : (s.hatbox k l).hubBad = s.hubBad := rfl
@[simp] theorem Mach.hatbox_hubSoft (s : Mach) (k : Nat) (l : List (Nat × Word)) : (s.hatbox k l).hubSoft = s.hubSoft := rfl
@[simp] theorem Mach.hatbox_hmem (s : Mach) (k : Nat) (l : List (Nat × Word)) : (s.hatbox k l).hmem = s.hmem := rfl
@[simp] theorem Mach.hatbox_qch (s : Mach) (k : Nat) (l : List (Nat × Word)) : (s.hatbox k l).qch = s.qch := rfl
@[simp] theorem Mach.hatbox_boots (s : Mach) (k : Nat) (l : List (Nat × Word)) : (s.hatbox k l).boots = s.boots := rfl
@[simp] theorem Mach.hatbox_evc (s : Mach) (k : Nat) (l : List (Nat × Word)) : (s.hatbox k l).evc = s.evc := rfl
@[simp] theorem Mach.hatbox_pw (s : Mach) (k : Nat) (l : List (Nat × Word)) : (s.hatbox k l).pw = s.pw := rfl
@[simp] theorem Mach.hatbox_sec (s : Mach) (k : Nat) (l : List (Nat × Word)) : (s.hatbox k l).sec = s.sec := rfl
@[simp] theorem Mach.hatbox_pins (s : Mach) (k : Nat) (l : List (Nat × Word)) : (s.hatbox k l).pins = s.pins := rfl
@[simp] theorem Mach.hatbox_fuseFences (s : Mach) (k : Nat) (l : List (Nat × Word)) : (s.hatbox k l).fuseFences = s.fuseFences := rfl
@[simp] theorem Mach.hatbox_flashFences (s : Mach) (k : Nat) (l : List (Nat × Word)) : (s.hatbox k l).flashFences = s.flashFences := rfl

theorem Mach.flashCopy_frame (s : Mach) : s.flashCopy = { s with hbx := (s.flashCopy).hbx } := rfl

@[simp] theorem Mach.flashCopy_clk (s : Mach) : (s.flashCopy).clk = s.clk := rfl
@[simp] theorem Mach.flashCopy_part (s : Mach) : (s.flashCopy).part = s.part := rfl
@[simp] theorem Mach.flashCopy_regs (s : Mach) : (s.flashCopy).regs = s.regs := rfl
@[simp] theorem Mach.flashCopy_tiles (s : Mach) : (s.flashCopy).tiles = s.tiles := rfl
@[simp] theorem Mach.flashCopy_dies (s : Mach) : (s.flashCopy).dies = s.dies := rfl
@[simp] theorem Mach.flashCopy_groups (s : Mach) : (s.flashCopy).groups = s.groups := rfl
@[simp] theorem Mach.flashCopy_flight (s : Mach) : (s.flashCopy).flight = s.flight := rfl
@[simp] theorem Mach.flashCopy_msgs (s : Mach) : (s.flashCopy).msgs = s.msgs := rfl
@[simp] theorem Mach.flashCopy_dil (s : Mach) : (s.flashCopy).dil = s.dil := rfl
@[simp] theorem Mach.flashCopy_itg (s : Mach) : (s.flashCopy).itg = s.itg := rfl
@[simp] theorem Mach.flashCopy_hq (s : Mach) : (s.flashCopy).hq = s.hq := rfl
@[simp] theorem Mach.flashCopy_trw (s : Mach) : (s.flashCopy).trw = s.trw := rfl
@[simp] theorem Mach.flashCopy_dig (s : Mach) : (s.flashCopy).dig = s.dig := rfl
@[simp] theorem Mach.flashCopy_gscs (s : Mach) : (s.flashCopy).gscs = s.gscs := rfl
@[simp] theorem Mach.flashCopy_hbms (s : Mach) : (s.flashCopy).hbms = s.hbms := rfl
@[simp] theorem Mach.flashCopy_ot (s : Mach) : (s.flashCopy).ot = s.ot := rfl
@[simp] theorem Mach.flashCopy_movers (s : Mach) : (s.flashCopy).movers = s.movers := rfl
@[simp] theorem Mach.flashCopy_shadow (s : Mach) : (s.flashCopy).shadow = s.shadow := rfl
@[simp] theorem Mach.flashCopy_lows (s : Mach) : (s.flashCopy).lows = s.lows := rfl
@[simp] theorem Mach.flashCopy_rdata (s : Mach) : (s.flashCopy).rdata = s.rdata := rfl
@[simp] theorem Mach.flashCopy_hub (s : Mach) : (s.flashCopy).hub = s.hub := rfl
@[simp] theorem Mach.flashCopy_hubBad (s : Mach) : (s.flashCopy).hubBad = s.hubBad := rfl
@[simp] theorem Mach.flashCopy_hubSoft (s : Mach) : (s.flashCopy).hubSoft = s.hubSoft := rfl
@[simp] theorem Mach.flashCopy_hmem (s : Mach) : (s.flashCopy).hmem = s.hmem := rfl
@[simp] theorem Mach.flashCopy_qch (s : Mach) : (s.flashCopy).qch = s.qch := rfl
@[simp] theorem Mach.flashCopy_boots (s : Mach) : (s.flashCopy).boots = s.boots := rfl
@[simp] theorem Mach.flashCopy_evc (s : Mach) : (s.flashCopy).evc = s.evc := rfl
@[simp] theorem Mach.flashCopy_pw (s : Mach) : (s.flashCopy).pw = s.pw := rfl
@[simp] theorem Mach.flashCopy_sec (s : Mach) : (s.flashCopy).sec = s.sec := rfl
@[simp] theorem Mach.flashCopy_pins (s : Mach) : (s.flashCopy).pins = s.pins := rfl
@[simp] theorem Mach.flashCopy_fuseFences (s : Mach) : (s.flashCopy).fuseFences = s.fuseFences := rfl
@[simp] theorem Mach.flashCopy_flashFences (s : Mach) : (s.flashCopy).flashFences = s.flashFences := rfl
@[simp] theorem Mach.flashCopy_free (s : Mach) : (s.flashCopy).free = s.free := rfl

theorem Mach.updDie_frame (s : Mach) (d : Nat) (f : Die → Die) : s.updDie d f = { s with dies := (s.updDie d f).dies } := rfl

@[simp] theorem Mach.updDie_clk (s : Mach) (d : Nat) (f : Die → Die) : (s.updDie d f).clk = s.clk := rfl
@[simp] theorem Mach.updDie_part (s : Mach) (d : Nat) (f : Die → Die) : (s.updDie d f).part = s.part := rfl
@[simp] theorem Mach.updDie_regs (s : Mach) (d : Nat) (f : Die → Die) : (s.updDie d f).regs = s.regs := rfl
@[simp] theorem Mach.updDie_tiles (s : Mach) (d : Nat) (f : Die → Die) : (s.updDie d f).tiles = s.tiles := rfl
@[simp] theorem Mach.updDie_groups (s : Mach) (d : Nat) (f : Die → Die) : (s.updDie d f).groups = s.groups := rfl
@[simp] theorem Mach.updDie_flight (s : Mach) (d : Nat) (f : Die → Die) : (s.updDie d f).flight = s.flight := rfl
@[simp] theorem Mach.updDie_msgs (s : Mach) (d : Nat) (f : Die → Die) : (s.updDie d f).msgs = s.msgs := rfl
@[simp] theorem Mach.updDie_dil (s : Mach) (d : Nat) (f : Die → Die) : (s.updDie d f).dil = s.dil := rfl
@[simp] theorem Mach.updDie_itg (s : Mach) (d : Nat) (f : Die → Die) : (s.updDie d f).itg = s.itg := rfl
@[simp] theorem Mach.updDie_hq (s : Mach) (d : Nat) (f : Die → Die) : (s.updDie d f).hq = s.hq := rfl
@[simp] theorem Mach.updDie_trw (s : Mach) (d : Nat) (f : Die → Die) : (s.updDie d f).trw = s.trw := rfl
@[simp] theorem Mach.updDie_dig (s : Mach) (d : Nat) (f : Die → Die) : (s.updDie d f).dig = s.dig := rfl
@[simp] theorem Mach.updDie_gscs (s : Mach) (d : Nat) (f : Die → Die) : (s.updDie d f).gscs = s.gscs := rfl
@[simp] theorem Mach.updDie_hbms (s : Mach) (d : Nat) (f : Die → Die) : (s.updDie d f).hbms = s.hbms := rfl
@[simp] theorem Mach.updDie_ot (s : Mach) (d : Nat) (f : Die → Die) : (s.updDie d f).ot = s.ot := rfl
@[simp] theorem Mach.updDie_movers (s : Mach) (d : Nat) (f : Die → Die) : (s.updDie d f).movers = s.movers := rfl
@[simp] theorem Mach.updDie_shadow (s : Mach) (d : Nat) (f : Die → Die) : (s.updDie d f).shadow = s.shadow := rfl
@[simp] theorem Mach.updDie_lows (s : Mach) (d : Nat) (f : Die → Die) : (s.updDie d f).lows = s.lows := rfl
@[simp] theorem Mach.updDie_rdata (s : Mach) (d : Nat) (f : Die → Die) : (s.updDie d f).rdata = s.rdata := rfl
@[simp] theorem Mach.updDie_hub (s : Mach) (d : Nat) (f : Die → Die) : (s.updDie d f).hub = s.hub := rfl
@[simp] theorem Mach.updDie_hubBad (s : Mach) (d : Nat) (f : Die → Die) : (s.updDie d f).hubBad = s.hubBad := rfl
@[simp] theorem Mach.updDie_hubSoft (s : Mach) (d : Nat) (f : Die → Die) : (s.updDie d f).hubSoft = s.hubSoft := rfl
@[simp] theorem Mach.updDie_hmem (s : Mach) (d : Nat) (f : Die → Die) : (s.updDie d f).hmem = s.hmem := rfl
@[simp] theorem Mach.updDie_qch (s : Mach) (d : Nat) (f : Die → Die) : (s.updDie d f).qch = s.qch := rfl
@[simp] theorem Mach.updDie_hbx (s : Mach) (d : Nat) (f : Die → Die) : (s.updDie d f).hbx = s.hbx := rfl
@[simp] theorem Mach.updDie_boots (s : Mach) (d : Nat) (f : Die → Die) : (s.updDie d f).boots = s.boots := rfl
@[simp] theorem Mach.updDie_evc (s : Mach) (d : Nat) (f : Die → Die) : (s.updDie d f).evc = s.evc := rfl
@[simp] theorem Mach.updDie_pw (s : Mach) (d : Nat) (f : Die → Die) : (s.updDie d f).pw = s.pw := rfl
@[simp] theorem Mach.updDie_sec (s : Mach) (d : Nat) (f : Die → Die) : (s.updDie d f).sec = s.sec := rfl
@[simp] theorem Mach.updDie_pins (s : Mach) (d : Nat) (f : Die → Die) : (s.updDie d f).pins = s.pins := rfl
@[simp] theorem Mach.updDie_fuseFences (s : Mach) (d : Nat) (f : Die → Die) : (s.updDie d f).fuseFences = s.fuseFences := rfl
@[simp] theorem Mach.updDie_flashFences (s : Mach) (d : Nat) (f : Die → Die) : (s.updDie d f).flashFences = s.flashFences := rfl
@[simp] theorem Mach.updDie_free (s : Mach) (d : Nat) (f : Die → Die) : (s.updDie d f).free = s.free := rfl

theorem Mach.updGsc_frame (s : Mach) (n : Nat) (f : Gsc → Gsc) : s.updGsc n f = { s with gscs := (s.updGsc n f).gscs } := rfl

@[simp] theorem Mach.updGsc_clk (s : Mach) (n : Nat) (f : Gsc → Gsc) : (s.updGsc n f).clk = s.clk := rfl
@[simp] theorem Mach.updGsc_part (s : Mach) (n : Nat) (f : Gsc → Gsc) : (s.updGsc n f).part = s.part := rfl
@[simp] theorem Mach.updGsc_regs (s : Mach) (n : Nat) (f : Gsc → Gsc) : (s.updGsc n f).regs = s.regs := rfl
@[simp] theorem Mach.updGsc_tiles (s : Mach) (n : Nat) (f : Gsc → Gsc) : (s.updGsc n f).tiles = s.tiles := rfl
@[simp] theorem Mach.updGsc_dies (s : Mach) (n : Nat) (f : Gsc → Gsc) : (s.updGsc n f).dies = s.dies := rfl
@[simp] theorem Mach.updGsc_groups (s : Mach) (n : Nat) (f : Gsc → Gsc) : (s.updGsc n f).groups = s.groups := rfl
@[simp] theorem Mach.updGsc_flight (s : Mach) (n : Nat) (f : Gsc → Gsc) : (s.updGsc n f).flight = s.flight := rfl
@[simp] theorem Mach.updGsc_msgs (s : Mach) (n : Nat) (f : Gsc → Gsc) : (s.updGsc n f).msgs = s.msgs := rfl
@[simp] theorem Mach.updGsc_dil (s : Mach) (n : Nat) (f : Gsc → Gsc) : (s.updGsc n f).dil = s.dil := rfl
@[simp] theorem Mach.updGsc_itg (s : Mach) (n : Nat) (f : Gsc → Gsc) : (s.updGsc n f).itg = s.itg := rfl
@[simp] theorem Mach.updGsc_hq (s : Mach) (n : Nat) (f : Gsc → Gsc) : (s.updGsc n f).hq = s.hq := rfl
@[simp] theorem Mach.updGsc_trw (s : Mach) (n : Nat) (f : Gsc → Gsc) : (s.updGsc n f).trw = s.trw := rfl
@[simp] theorem Mach.updGsc_dig (s : Mach) (n : Nat) (f : Gsc → Gsc) : (s.updGsc n f).dig = s.dig := rfl
@[simp] theorem Mach.updGsc_hbms (s : Mach) (n : Nat) (f : Gsc → Gsc) : (s.updGsc n f).hbms = s.hbms := rfl
@[simp] theorem Mach.updGsc_ot (s : Mach) (n : Nat) (f : Gsc → Gsc) : (s.updGsc n f).ot = s.ot := rfl
@[simp] theorem Mach.updGsc_movers (s : Mach) (n : Nat) (f : Gsc → Gsc) : (s.updGsc n f).movers = s.movers := rfl
@[simp] theorem Mach.updGsc_shadow (s : Mach) (n : Nat) (f : Gsc → Gsc) : (s.updGsc n f).shadow = s.shadow := rfl
@[simp] theorem Mach.updGsc_lows (s : Mach) (n : Nat) (f : Gsc → Gsc) : (s.updGsc n f).lows = s.lows := rfl
@[simp] theorem Mach.updGsc_rdata (s : Mach) (n : Nat) (f : Gsc → Gsc) : (s.updGsc n f).rdata = s.rdata := rfl
@[simp] theorem Mach.updGsc_hub (s : Mach) (n : Nat) (f : Gsc → Gsc) : (s.updGsc n f).hub = s.hub := rfl
@[simp] theorem Mach.updGsc_hubBad (s : Mach) (n : Nat) (f : Gsc → Gsc) : (s.updGsc n f).hubBad = s.hubBad := rfl
@[simp] theorem Mach.updGsc_hubSoft (s : Mach) (n : Nat) (f : Gsc → Gsc) : (s.updGsc n f).hubSoft = s.hubSoft := rfl
@[simp] theorem Mach.updGsc_hmem (s : Mach) (n : Nat) (f : Gsc → Gsc) : (s.updGsc n f).hmem = s.hmem := rfl
@[simp] theorem Mach.updGsc_qch (s : Mach) (n : Nat) (f : Gsc → Gsc) : (s.updGsc n f).qch = s.qch := rfl
@[simp] theorem Mach.updGsc_hbx (s : Mach) (n : Nat) (f : Gsc → Gsc) : (s.updGsc n f).hbx = s.hbx := rfl
@[simp] theorem Mach.updGsc_boots (s : Mach) (n : Nat) (f : Gsc → Gsc) : (s.updGsc n f).boots = s.boots := rfl
@[simp] theorem Mach.updGsc_evc (s : Mach) (n : Nat) (f : Gsc → Gsc) : (s.updGsc n f).evc = s.evc := rfl
@[simp] theorem Mach.updGsc_pw (s : Mach) (n : Nat) (f : Gsc → Gsc) : (s.updGsc n f).pw = s.pw := rfl
@[simp] theorem Mach.updGsc_sec (s : Mach) (n : Nat) (f : Gsc → Gsc) : (s.updGsc n f).sec = s.sec := rfl
@[simp] theorem Mach.updGsc_pins (s : Mach) (n : Nat) (f : Gsc → Gsc) : (s.updGsc n f).pins = s.pins := rfl
@[simp] theorem Mach.updGsc_fuseFences (s : Mach) (n : Nat) (f : Gsc → Gsc) : (s.updGsc n f).fuseFences = s.fuseFences := rfl
@[simp] theorem Mach.updGsc_flashFences (s : Mach) (n : Nat) (f : Gsc → Gsc) : (s.updGsc n f).flashFences = s.flashFences := rfl
@[simp] theorem Mach.updGsc_free (s : Mach) (n : Nat) (f : Gsc → Gsc) : (s.updGsc n f).free = s.free := rfl

theorem Mach.gscEvent_frame (s : Mach) (n : Nat) (a b c : Bool) : s.gscEvent n a b c = { s with evc := (s.gscEvent n a b c).evc } := by unfold Mach.gscEvent; split <;> (apply Mach.ext <;> simp)

@[simp] theorem Mach.gscEvent_clk (s : Mach) (n : Nat) (a b c : Bool) : (s.gscEvent n a b c).clk = s.clk := (congrArg Mach.clk (Mach.gscEvent_frame s n a b c) :)
@[simp] theorem Mach.gscEvent_part (s : Mach) (n : Nat) (a b c : Bool) : (s.gscEvent n a b c).part = s.part := (congrArg Mach.part (Mach.gscEvent_frame s n a b c) :)
@[simp] theorem Mach.gscEvent_regs (s : Mach) (n : Nat) (a b c : Bool) : (s.gscEvent n a b c).regs = s.regs := (congrArg Mach.regs (Mach.gscEvent_frame s n a b c) :)
@[simp] theorem Mach.gscEvent_tiles (s : Mach) (n : Nat) (a b c : Bool) : (s.gscEvent n a b c).tiles = s.tiles := (congrArg Mach.tiles (Mach.gscEvent_frame s n a b c) :)
@[simp] theorem Mach.gscEvent_dies (s : Mach) (n : Nat) (a b c : Bool) : (s.gscEvent n a b c).dies = s.dies := (congrArg Mach.dies (Mach.gscEvent_frame s n a b c) :)
@[simp] theorem Mach.gscEvent_groups (s : Mach) (n : Nat) (a b c : Bool) : (s.gscEvent n a b c).groups = s.groups := (congrArg Mach.groups (Mach.gscEvent_frame s n a b c) :)
@[simp] theorem Mach.gscEvent_flight (s : Mach) (n : Nat) (a b c : Bool) : (s.gscEvent n a b c).flight = s.flight := (congrArg Mach.flight (Mach.gscEvent_frame s n a b c) :)
@[simp] theorem Mach.gscEvent_msgs (s : Mach) (n : Nat) (a b c : Bool) : (s.gscEvent n a b c).msgs = s.msgs := (congrArg Mach.msgs (Mach.gscEvent_frame s n a b c) :)
@[simp] theorem Mach.gscEvent_dil (s : Mach) (n : Nat) (a b c : Bool) : (s.gscEvent n a b c).dil = s.dil := (congrArg Mach.dil (Mach.gscEvent_frame s n a b c) :)
@[simp] theorem Mach.gscEvent_itg (s : Mach) (n : Nat) (a b c : Bool) : (s.gscEvent n a b c).itg = s.itg := (congrArg Mach.itg (Mach.gscEvent_frame s n a b c) :)
@[simp] theorem Mach.gscEvent_hq (s : Mach) (n : Nat) (a b c : Bool) : (s.gscEvent n a b c).hq = s.hq := (congrArg Mach.hq (Mach.gscEvent_frame s n a b c) :)
@[simp] theorem Mach.gscEvent_trw (s : Mach) (n : Nat) (a b c : Bool) : (s.gscEvent n a b c).trw = s.trw := (congrArg Mach.trw (Mach.gscEvent_frame s n a b c) :)
@[simp] theorem Mach.gscEvent_dig (s : Mach) (n : Nat) (a b c : Bool) : (s.gscEvent n a b c).dig = s.dig := (congrArg Mach.dig (Mach.gscEvent_frame s n a b c) :)
@[simp] theorem Mach.gscEvent_gscs (s : Mach) (n : Nat) (a b c : Bool) : (s.gscEvent n a b c).gscs = s.gscs := (congrArg Mach.gscs (Mach.gscEvent_frame s n a b c) :)
@[simp] theorem Mach.gscEvent_hbms (s : Mach) (n : Nat) (a b c : Bool) : (s.gscEvent n a b c).hbms = s.hbms := (congrArg Mach.hbms (Mach.gscEvent_frame s n a b c) :)
@[simp] theorem Mach.gscEvent_ot (s : Mach) (n : Nat) (a b c : Bool) : (s.gscEvent n a b c).ot = s.ot := (congrArg Mach.ot (Mach.gscEvent_frame s n a b c) :)
@[simp] theorem Mach.gscEvent_movers (s : Mach) (n : Nat) (a b c : Bool) : (s.gscEvent n a b c).movers = s.movers := (congrArg Mach.movers (Mach.gscEvent_frame s n a b c) :)
@[simp] theorem Mach.gscEvent_shadow (s : Mach) (n : Nat) (a b c : Bool) : (s.gscEvent n a b c).shadow = s.shadow := (congrArg Mach.shadow (Mach.gscEvent_frame s n a b c) :)
@[simp] theorem Mach.gscEvent_lows (s : Mach) (n : Nat) (a b c : Bool) : (s.gscEvent n a b c).lows = s.lows := (congrArg Mach.lows (Mach.gscEvent_frame s n a b c) :)
@[simp] theorem Mach.gscEvent_rdata (s : Mach) (n : Nat) (a b c : Bool) : (s.gscEvent n a b c).rdata = s.rdata := (congrArg Mach.rdata (Mach.gscEvent_frame s n a b c) :)
@[simp] theorem Mach.gscEvent_hub (s : Mach) (n : Nat) (a b c : Bool) : (s.gscEvent n a b c).hub = s.hub := (congrArg Mach.hub (Mach.gscEvent_frame s n a b c) :)
@[simp] theorem Mach.gscEvent_hubBad (s : Mach) (n : Nat) (a b c : Bool) : (s.gscEvent n a b c).hubBad = s.hubBad := (congrArg Mach.hubBad (Mach.gscEvent_frame s n a b c) :)
@[simp] theorem Mach.gscEvent_hubSoft (s : Mach) (n : Nat) (a b c : Bool) : (s.gscEvent n a b c).hubSoft = s.hubSoft := (congrArg Mach.hubSoft (Mach.gscEvent_frame s n a b c) :)
@[simp] theorem Mach.gscEvent_hmem (s : Mach) (n : Nat) (a b c : Bool) : (s.gscEvent n a b c).hmem = s.hmem := (congrArg Mach.hmem (Mach.gscEvent_frame s n a b c) :)
@[simp] theorem Mach.gscEvent_qch (s : Mach) (n : Nat) (a b c : Bool) : (s.gscEvent n a b c).qch = s.qch := (congrArg Mach.qch (Mach.gscEvent_frame s n a b c) :)
@[simp] theorem Mach.gscEvent_hbx (s : Mach) (n : Nat) (a b c : Bool) : (s.gscEvent n a b c).hbx = s.hbx := (congrArg Mach.hbx (Mach.gscEvent_frame s n a b c) :)
@[simp] theorem Mach.gscEvent_boots (s : Mach) (n : Nat) (a b c : Bool) : (s.gscEvent n a b c).boots = s.boots := (congrArg Mach.boots (Mach.gscEvent_frame s n a b c) :)
@[simp] theorem Mach.gscEvent_pw (s : Mach) (n : Nat) (a b c : Bool) : (s.gscEvent n a b c).pw = s.pw := (congrArg Mach.pw (Mach.gscEvent_frame s n a b c) :)
@[simp] theorem Mach.gscEvent_sec (s : Mach) (n : Nat) (a b c : Bool) : (s.gscEvent n a b c).sec = s.sec := (congrArg Mach.sec (Mach.gscEvent_frame s n a b c) :)
@[simp] theorem Mach.gscEvent_pins (s : Mach) (n : Nat) (a b c : Bool) : (s.gscEvent n a b c).pins = s.pins := (congrArg Mach.pins (Mach.gscEvent_frame s n a b c) :)
@[simp] theorem Mach.gscEvent_fuseFences (s : Mach) (n : Nat) (a b c : Bool) : (s.gscEvent n a b c).fuseFences = s.fuseFences := (congrArg Mach.fuseFences (Mach.gscEvent_frame s n a b c) :)
@[simp] theorem Mach.gscEvent_flashFences (s : Mach) (n : Nat) (a b c : Bool) : (s.gscEvent n a b c).flashFences = s.flashFences := (congrArg Mach.flashFences (Mach.gscEvent_frame s n a b c) :)
@[simp] theorem Mach.gscEvent_free (s : Mach) (n : Nat) (a b c : Bool) : (s.gscEvent n a b c).free = s.free := (congrArg Mach.free (Mach.gscEvent_frame s n a b c) :)

theorem Mach.gscSignal_frame (s : Mach) (n a : Nat) : s.gscSignal n a = { s with gscs := (s.gscSignal n a).gscs, evc := (s.gscSignal n a).evc } := by unfold Mach.gscSignal; apply Mach.ext <;> simp

@[simp] theorem Mach.gscSignal_clk (s : Mach) (n a : Nat) : (s.gscSignal n a).clk = s.clk := (congrArg Mach.clk (Mach.gscSignal_frame s n a) :)
@[simp] theorem Mach.gscSignal_part (s : Mach) (n a : Nat) : (s.gscSignal n a).part = s.part := (congrArg Mach.part (Mach.gscSignal_frame s n a) :)
@[simp] theorem Mach.gscSignal_regs (s : Mach) (n a : Nat) : (s.gscSignal n a).regs = s.regs := (congrArg Mach.regs (Mach.gscSignal_frame s n a) :)
@[simp] theorem Mach.gscSignal_tiles (s : Mach) (n a : Nat) : (s.gscSignal n a).tiles = s.tiles := (congrArg Mach.tiles (Mach.gscSignal_frame s n a) :)
@[simp] theorem Mach.gscSignal_dies (s : Mach) (n a : Nat) : (s.gscSignal n a).dies = s.dies := (congrArg Mach.dies (Mach.gscSignal_frame s n a) :)
@[simp] theorem Mach.gscSignal_groups (s : Mach) (n a : Nat) : (s.gscSignal n a).groups = s.groups := (congrArg Mach.groups (Mach.gscSignal_frame s n a) :)
@[simp] theorem Mach.gscSignal_flight (s : Mach) (n a : Nat) : (s.gscSignal n a).flight = s.flight := (congrArg Mach.flight (Mach.gscSignal_frame s n a) :)
@[simp] theorem Mach.gscSignal_msgs (s : Mach) (n a : Nat) : (s.gscSignal n a).msgs = s.msgs := (congrArg Mach.msgs (Mach.gscSignal_frame s n a) :)
@[simp] theorem Mach.gscSignal_dil (s : Mach) (n a : Nat) : (s.gscSignal n a).dil = s.dil := (congrArg Mach.dil (Mach.gscSignal_frame s n a) :)
@[simp] theorem Mach.gscSignal_itg (s : Mach) (n a : Nat) : (s.gscSignal n a).itg = s.itg := (congrArg Mach.itg (Mach.gscSignal_frame s n a) :)
@[simp] theorem Mach.gscSignal_hq (s : Mach) (n a : Nat) : (s.gscSignal n a).hq = s.hq := (congrArg Mach.hq (Mach.gscSignal_frame s n a) :)
@[simp] theorem Mach.gscSignal_trw (s : Mach) (n a : Nat) : (s.gscSignal n a).trw = s.trw := (congrArg Mach.trw (Mach.gscSignal_frame s n a) :)
@[simp] theorem Mach.gscSignal_dig (s : Mach) (n a : Nat) : (s.gscSignal n a).dig = s.dig := (congrArg Mach.dig (Mach.gscSignal_frame s n a) :)
@[simp] theorem Mach.gscSignal_hbms (s : Mach) (n a : Nat) : (s.gscSignal n a).hbms = s.hbms := (congrArg Mach.hbms (Mach.gscSignal_frame s n a) :)
@[simp] theorem Mach.gscSignal_ot (s : Mach) (n a : Nat) : (s.gscSignal n a).ot = s.ot := (congrArg Mach.ot (Mach.gscSignal_frame s n a) :)
@[simp] theorem Mach.gscSignal_movers (s : Mach) (n a : Nat) : (s.gscSignal n a).movers = s.movers := (congrArg Mach.movers (Mach.gscSignal_frame s n a) :)
@[simp] theorem Mach.gscSignal_shadow (s : Mach) (n a : Nat) : (s.gscSignal n a).shadow = s.shadow := (congrArg Mach.shadow (Mach.gscSignal_frame s n a) :)
@[simp] theorem Mach.gscSignal_lows (s : Mach) (n a : Nat) : (s.gscSignal n a).lows = s.lows := (congrArg Mach.lows (Mach.gscSignal_frame s n a) :)
@[simp] theorem Mach.gscSignal_rdata (s : Mach) (n a : Nat) : (s.gscSignal n a).rdata = s.rdata := (congrArg Mach.rdata (Mach.gscSignal_frame s n a) :)
@[simp] theorem Mach.gscSignal_hub (s : Mach) (n a : Nat) : (s.gscSignal n a).hub = s.hub := (congrArg Mach.hub (Mach.gscSignal_frame s n a) :)
@[simp] theorem Mach.gscSignal_hubBad (s : Mach) (n a : Nat) : (s.gscSignal n a).hubBad = s.hubBad := (congrArg Mach.hubBad (Mach.gscSignal_frame s n a) :)
@[simp] theorem Mach.gscSignal_hubSoft (s : Mach) (n a : Nat) : (s.gscSignal n a).hubSoft = s.hubSoft := (congrArg Mach.hubSoft (Mach.gscSignal_frame s n a) :)
@[simp] theorem Mach.gscSignal_hmem (s : Mach) (n a : Nat) : (s.gscSignal n a).hmem = s.hmem := (congrArg Mach.hmem (Mach.gscSignal_frame s n a) :)
@[simp] theorem Mach.gscSignal_qch (s : Mach) (n a : Nat) : (s.gscSignal n a).qch = s.qch := (congrArg Mach.qch (Mach.gscSignal_frame s n a) :)
@[simp] theorem Mach.gscSignal_hbx (s : Mach) (n a : Nat) : (s.gscSignal n a).hbx = s.hbx := (congrArg Mach.hbx (Mach.gscSignal_frame s n a) :)
@[simp] theorem Mach.gscSignal_boots (s : Mach) (n a : Nat) : (s.gscSignal n a).boots = s.boots := (congrArg Mach.boots (Mach.gscSignal_frame s n a) :)
@[simp] theorem Mach.gscSignal_pw (s : Mach) (n a : Nat) : (s.gscSignal n a).pw = s.pw := (congrArg Mach.pw (Mach.gscSignal_frame s n a) :)
@[simp] theorem Mach.gscSignal_sec (s : Mach) (n a : Nat) : (s.gscSignal n a).sec = s.sec := (congrArg Mach.sec (Mach.gscSignal_frame s n a) :)
@[simp] theorem Mach.gscSignal_pins (s : Mach) (n a : Nat) : (s.gscSignal n a).pins = s.pins := (congrArg Mach.pins (Mach.gscSignal_frame s n a) :)
@[simp] theorem Mach.gscSignal_fuseFences (s : Mach) (n a : Nat) : (s.gscSignal n a).fuseFences = s.fuseFences := (congrArg Mach.fuseFences (Mach.gscSignal_frame s n a) :)
@[simp] theorem Mach.gscSignal_flashFences (s : Mach) (n a : Nat) : (s.gscSignal n a).flashFences = s.flashFences := (congrArg Mach.flashFences (Mach.gscSignal_frame s n a) :)
@[simp] theorem Mach.gscSignal_free (s : Mach) (n a : Nat) : (s.gscSignal n a).free = s.free := (congrArg Mach.free (Mach.gscSignal_frame s n a) :)

theorem Mach.gscDebit_frame (s : Mach) (n : Nat) : (s.gscDebit n).1 = { s with gscs := ((s.gscDebit n).1).gscs, evc := ((s.gscDebit n).1).evc } := by unfold Mach.gscDebit; simp only; split <;> (apply Mach.ext <;> simp)

@[simp] theorem Mach.gscDebit_clk (s : Mach) (n : Nat) : ((s.gscDebit n).1).clk = s.clk := (congrArg Mach.clk (Mach.gscDebit_frame s n) :)
@[simp] theorem Mach.gscDebit_part (s : Mach) (n : Nat) : ((s.gscDebit n).1).part = s.part := (congrArg Mach.part (Mach.gscDebit_frame s n) :)
@[simp] theorem Mach.gscDebit_regs (s : Mach) (n : Nat) : ((s.gscDebit n).1).regs = s.regs := (congrArg Mach.regs (Mach.gscDebit_frame s n) :)
@[simp] theorem Mach.gscDebit_tiles (s : Mach) (n : Nat) : ((s.gscDebit n).1).tiles = s.tiles := (congrArg Mach.tiles (Mach.gscDebit_frame s n) :)
@[simp] theorem Mach.gscDebit_dies (s : Mach) (n : Nat) : ((s.gscDebit n).1).dies = s.dies := (congrArg Mach.dies (Mach.gscDebit_frame s n) :)
@[simp] theorem Mach.gscDebit_groups (s : Mach) (n : Nat) : ((s.gscDebit n).1).groups = s.groups := (congrArg Mach.groups (Mach.gscDebit_frame s n) :)
@[simp] theorem Mach.gscDebit_flight (s : Mach) (n : Nat) : ((s.gscDebit n).1).flight = s.flight := (congrArg Mach.flight (Mach.gscDebit_frame s n) :)
@[simp] theorem Mach.gscDebit_msgs (s : Mach) (n : Nat) : ((s.gscDebit n).1).msgs = s.msgs := (congrArg Mach.msgs (Mach.gscDebit_frame s n) :)
@[simp] theorem Mach.gscDebit_dil (s : Mach) (n : Nat) : ((s.gscDebit n).1).dil = s.dil := (congrArg Mach.dil (Mach.gscDebit_frame s n) :)
@[simp] theorem Mach.gscDebit_itg (s : Mach) (n : Nat) : ((s.gscDebit n).1).itg = s.itg := (congrArg Mach.itg (Mach.gscDebit_frame s n) :)
@[simp] theorem Mach.gscDebit_hq (s : Mach) (n : Nat) : ((s.gscDebit n).1).hq = s.hq := (congrArg Mach.hq (Mach.gscDebit_frame s n) :)
@[simp] theorem Mach.gscDebit_trw (s : Mach) (n : Nat) : ((s.gscDebit n).1).trw = s.trw := (congrArg Mach.trw (Mach.gscDebit_frame s n) :)
@[simp] theorem Mach.gscDebit_dig (s : Mach) (n : Nat) : ((s.gscDebit n).1).dig = s.dig := (congrArg Mach.dig (Mach.gscDebit_frame s n) :)
@[simp] theorem Mach.gscDebit_hbms (s : Mach) (n : Nat) : ((s.gscDebit n).1).hbms = s.hbms := (congrArg Mach.hbms (Mach.gscDebit_frame s n) :)
@[simp] theorem Mach.gscDebit_ot (s : Mach) (n : Nat) : ((s.gscDebit n).1).ot = s.ot := (congrArg Mach.ot (Mach.gscDebit_frame s n) :)
@[simp] theorem Mach.gscDebit_movers (s : Mach) (n : Nat) : ((s.gscDebit n).1).movers = s.movers := (congrArg Mach.movers (Mach.gscDebit_frame s n) :)
@[simp] theorem Mach.gscDebit_shadow (s : Mach) (n : Nat) : ((s.gscDebit n).1).shadow = s.shadow := (congrArg Mach.shadow (Mach.gscDebit_frame s n) :)
@[simp] theorem Mach.gscDebit_lows (s : Mach) (n : Nat) : ((s.gscDebit n).1).lows = s.lows := (congrArg Mach.lows (Mach.gscDebit_frame s n) :)
@[simp] theorem Mach.gscDebit_rdata (s : Mach) (n : Nat) : ((s.gscDebit n).1).rdata = s.rdata := (congrArg Mach.rdata (Mach.gscDebit_frame s n) :)
@[simp] theorem Mach.gscDebit_hub (s : Mach) (n : Nat) : ((s.gscDebit n).1).hub = s.hub := (congrArg Mach.hub (Mach.gscDebit_frame s n) :)
@[simp] theorem Mach.gscDebit_hubBad (s : Mach) (n : Nat) : ((s.gscDebit n).1).hubBad = s.hubBad := (congrArg Mach.hubBad (Mach.gscDebit_frame s n) :)
@[simp] theorem Mach.gscDebit_hubSoft (s : Mach) (n : Nat) : ((s.gscDebit n).1).hubSoft = s.hubSoft := (congrArg Mach.hubSoft (Mach.gscDebit_frame s n) :)
@[simp] theorem Mach.gscDebit_hmem (s : Mach) (n : Nat) : ((s.gscDebit n).1).hmem = s.hmem := (congrArg Mach.hmem (Mach.gscDebit_frame s n) :)
@[simp] theorem Mach.gscDebit_qch (s : Mach) (n : Nat) : ((s.gscDebit n).1).qch = s.qch := (congrArg Mach.qch (Mach.gscDebit_frame s n) :)
@[simp] theorem Mach.gscDebit_hbx (s : Mach) (n : Nat) : ((s.gscDebit n).1).hbx = s.hbx := (congrArg Mach.hbx (Mach.gscDebit_frame s n) :)
@[simp] theorem Mach.gscDebit_boots (s : Mach) (n : Nat) : ((s.gscDebit n).1).boots = s.boots := (congrArg Mach.boots (Mach.gscDebit_frame s n) :)
@[simp] theorem Mach.gscDebit_pw (s : Mach) (n : Nat) : ((s.gscDebit n).1).pw = s.pw := (congrArg Mach.pw (Mach.gscDebit_frame s n) :)
@[simp] theorem Mach.gscDebit_sec (s : Mach) (n : Nat) : ((s.gscDebit n).1).sec = s.sec := (congrArg Mach.sec (Mach.gscDebit_frame s n) :)
@[simp] theorem Mach.gscDebit_pins (s : Mach) (n : Nat) : ((s.gscDebit n).1).pins = s.pins := (congrArg Mach.pins (Mach.gscDebit_frame s n) :)
@[simp] theorem Mach.gscDebit_fuseFences (s : Mach) (n : Nat) : ((s.gscDebit n).1).fuseFences = s.fuseFences := (congrArg Mach.fuseFences (Mach.gscDebit_frame s n) :)
@[simp] theorem Mach.gscDebit_flashFences (s : Mach) (n : Nat) : ((s.gscDebit n).1).flashFences = s.flashFences := (congrArg Mach.flashFences (Mach.gscDebit_frame s n) :)
@[simp] theorem Mach.gscDebit_free (s : Mach) (n : Nat) : ((s.gscDebit n).1).free = s.free := (congrArg Mach.free (Mach.gscDebit_frame s n) :)

theorem Mach.gscReset_frame (s : Mach) (n : Nat) : s.gscReset n = { s with gscs := (s.gscReset n).gscs, evc := (s.gscReset n).evc } := by unfold Mach.gscReset; apply Mach.ext <;> simp

@[simp] theorem Mach.gscReset_clk (s : Mach) (n : Nat) : (s.gscReset n).clk = s.clk := (congrArg Mach.clk (Mach.gscReset_frame s n) :)
@[simp] theorem Mach.gscReset_part (s : Mach) (n : Nat) : (s.gscReset n).part = s.part := (congrArg Mach.part (Mach.gscReset_frame s n) :)
@[simp] theorem Mach.gscReset_regs (s : Mach) (n : Nat) : (s.gscReset n).regs = s.regs := (congrArg Mach.regs (Mach.gscReset_frame s n) :)
@[simp] theorem Mach.gscReset_tiles (s : Mach) (n : Nat) : (s.gscReset n).tiles = s.tiles := (congrArg Mach.tiles (Mach.gscReset_frame s n) :)
@[simp] theorem Mach.gscReset_dies (s : Mach) (n : Nat) : (s.gscReset n).dies = s.dies := (congrArg Mach.dies (Mach.gscReset_frame s n) :)
@[simp] theorem Mach.gscReset_groups (s : Mach) (n : Nat) : (s.gscReset n).groups = s.groups := (congrArg Mach.groups (Mach.gscReset_frame s n) :)
@[simp] theorem Mach.gscReset_flight (s : Mach) (n : Nat) : (s.gscReset n).flight = s.flight := (congrArg Mach.flight (Mach.gscReset_frame s n) :)
@[simp] theorem Mach.gscReset_msgs (s : Mach) (n : Nat) : (s.gscReset n).msgs = s.msgs := (congrArg Mach.msgs (Mach.gscReset_frame s n) :)
@[simp] theorem Mach.gscReset_dil (s : Mach) (n : Nat) : (s.gscReset n).dil = s.dil := (congrArg Mach.dil (Mach.gscReset_frame s n) :)
@[simp] theorem Mach.gscReset_itg (s : Mach) (n : Nat) : (s.gscReset n).itg = s.itg := (congrArg Mach.itg (Mach.gscReset_frame s n) :)
@[simp] theorem Mach.gscReset_hq (s : Mach) (n : Nat) : (s.gscReset n).hq = s.hq := (congrArg Mach.hq (Mach.gscReset_frame s n) :)
@[simp] theorem Mach.gscReset_trw (s : Mach) (n : Nat) : (s.gscReset n).trw = s.trw := (congrArg Mach.trw (Mach.gscReset_frame s n) :)
@[simp] theorem Mach.gscReset_dig (s : Mach) (n : Nat) : (s.gscReset n).dig = s.dig := (congrArg Mach.dig (Mach.gscReset_frame s n) :)
@[simp] theorem Mach.gscReset_hbms (s : Mach) (n : Nat) : (s.gscReset n).hbms = s.hbms := (congrArg Mach.hbms (Mach.gscReset_frame s n) :)
@[simp] theorem Mach.gscReset_ot (s : Mach) (n : Nat) : (s.gscReset n).ot = s.ot := (congrArg Mach.ot (Mach.gscReset_frame s n) :)
@[simp] theorem Mach.gscReset_movers (s : Mach) (n : Nat) : (s.gscReset n).movers = s.movers := (congrArg Mach.movers (Mach.gscReset_frame s n) :)
@[simp] theorem Mach.gscReset_shadow (s : Mach) (n : Nat) : (s.gscReset n).shadow = s.shadow := (congrArg Mach.shadow (Mach.gscReset_frame s n) :)
@[simp] theorem Mach.gscReset_lows (s : Mach) (n : Nat) : (s.gscReset n).lows = s.lows := (congrArg Mach.lows (Mach.gscReset_frame s n) :)
@[simp] theorem Mach.gscReset_rdata (s : Mach) (n : Nat) : (s.gscReset n).rdata = s.rdata := (congrArg Mach.rdata (Mach.gscReset_frame s n) :)
@[simp] theorem Mach.gscReset_hub (s : Mach) (n : Nat) : (s.gscReset n).hub = s.hub := (congrArg Mach.hub (Mach.gscReset_frame s n) :)
@[simp] theorem Mach.gscReset_hubBad (s : Mach) (n : Nat) : (s.gscReset n).hubBad = s.hubBad := (congrArg Mach.hubBad (Mach.gscReset_frame s n) :)
@[simp] theorem Mach.gscReset_hubSoft (s : Mach) (n : Nat) : (s.gscReset n).hubSoft = s.hubSoft := (congrArg Mach.hubSoft (Mach.gscReset_frame s n) :)
@[simp] theorem Mach.gscReset_hmem (s : Mach) (n : Nat) : (s.gscReset n).hmem = s.hmem := (congrArg Mach.hmem (Mach.gscReset_frame s n) :)
@[simp] theorem Mach.gscReset_qch (s : Mach) (n : Nat) : (s.gscReset n).qch = s.qch := (congrArg Mach.qch (Mach.gscReset_frame s n) :)
@[simp] theorem Mach.gscReset_hbx (s : Mach) (n : Nat) : (s.gscReset n).hbx = s.hbx := (congrArg Mach.hbx (Mach.gscReset_frame s n) :)
@[simp] theorem Mach.gscReset_boots (s : Mach) (n : Nat) : (s.gscReset n).boots = s.boots := (congrArg Mach.boots (Mach.gscReset_frame s n) :)
@[simp] theorem Mach.gscReset_pw (s : Mach) (n : Nat) : (s.gscReset n).pw = s.pw := (congrArg Mach.pw (Mach.gscReset_frame s n) :)
@[simp] theorem Mach.gscReset_sec (s : Mach) (n : Nat) : (s.gscReset n).sec = s.sec := (congrArg Mach.sec (Mach.gscReset_frame s n) :)
@[simp] theorem Mach.gscReset_pins (s : Mach) (n : Nat) : (s.gscReset n).pins = s.pins := (congrArg Mach.pins (Mach.gscReset_frame s n) :)
@[simp] theorem Mach.gscReset_fuseFences (s : Mach) (n : Nat) : (s.gscReset n).fuseFences = s.fuseFences := (congrArg Mach.fuseFences (Mach.gscReset_frame s n) :)
@[simp] theorem Mach.gscReset_flashFences (s : Mach) (n : Nat) : (s.gscReset n).flashFences = s.flashFences := (congrArg Mach.flashFences (Mach.gscReset_frame s n) :)
@[simp] theorem Mach.gscReset_free (s : Mach) (n : Nat) : (s.gscReset n).free = s.free := (congrArg Mach.free (Mach.gscReset_frame s n) :)

theorem Mach.winAdds_frame (s : Mach) (l : List (Nat × Nat)) : s.winAdds l = { s with trw := (s.winAdds l).trw } := by unfold Mach.winAdds; split <;> rfl

@[simp] theorem Mach.winAdds_clk (s : Mach) (l : List (Nat × Nat)) : (s.winAdds l).clk = s.clk := (congrArg Mach.clk (Mach.winAdds_frame s l) :)
@[simp] theorem Mach.winAdds_part (s : Mach) (l : List (Nat × Nat)) : (s.winAdds l).part = s.part := (congrArg Mach.part (Mach.winAdds_frame s l) :)
@[simp] theorem Mach.winAdds_regs (s : Mach) (l : List (Nat × Nat)) : (s.winAdds l).regs = s.regs := (congrArg Mach.regs (Mach.winAdds_frame s l) :)
@[simp] theorem Mach.winAdds_tiles (s : Mach) (l : List (Nat × Nat)) : (s.winAdds l).tiles = s.tiles := (congrArg Mach.tiles (Mach.winAdds_frame s l) :)
@[simp] theorem Mach.winAdds_dies (s : Mach) (l : List (Nat × Nat)) : (s.winAdds l).dies = s.dies := (congrArg Mach.dies (Mach.winAdds_frame s l) :)
@[simp] theorem Mach.winAdds_groups (s : Mach) (l : List (Nat × Nat)) : (s.winAdds l).groups = s.groups := (congrArg Mach.groups (Mach.winAdds_frame s l) :)
@[simp] theorem Mach.winAdds_flight (s : Mach) (l : List (Nat × Nat)) : (s.winAdds l).flight = s.flight := (congrArg Mach.flight (Mach.winAdds_frame s l) :)
@[simp] theorem Mach.winAdds_msgs (s : Mach) (l : List (Nat × Nat)) : (s.winAdds l).msgs = s.msgs := (congrArg Mach.msgs (Mach.winAdds_frame s l) :)
@[simp] theorem Mach.winAdds_dil (s : Mach) (l : List (Nat × Nat)) : (s.winAdds l).dil = s.dil := (congrArg Mach.dil (Mach.winAdds_frame s l) :)
@[simp] theorem Mach.winAdds_itg (s : Mach) (l : List (Nat × Nat)) : (s.winAdds l).itg = s.itg := (congrArg Mach.itg (Mach.winAdds_frame s l) :)
@[simp] theorem Mach.winAdds_hq (s : Mach) (l : List (Nat × Nat)) : (s.winAdds l).hq = s.hq := (congrArg Mach.hq (Mach.winAdds_frame s l) :)
@[simp] theorem Mach.winAdds_dig (s : Mach) (l : List (Nat × Nat)) : (s.winAdds l).dig = s.dig := (congrArg Mach.dig (Mach.winAdds_frame s l) :)
@[simp] theorem Mach.winAdds_gscs (s : Mach) (l : List (Nat × Nat)) : (s.winAdds l).gscs = s.gscs := (congrArg Mach.gscs (Mach.winAdds_frame s l) :)
@[simp] theorem Mach.winAdds_hbms (s : Mach) (l : List (Nat × Nat)) : (s.winAdds l).hbms = s.hbms := (congrArg Mach.hbms (Mach.winAdds_frame s l) :)
@[simp] theorem Mach.winAdds_ot (s : Mach) (l : List (Nat × Nat)) : (s.winAdds l).ot = s.ot := (congrArg Mach.ot (Mach.winAdds_frame s l) :)
@[simp] theorem Mach.winAdds_movers (s : Mach) (l : List (Nat × Nat)) : (s.winAdds l).movers = s.movers := (congrArg Mach.movers (Mach.winAdds_frame s l) :)
@[simp] theorem Mach.winAdds_shadow (s : Mach) (l : List (Nat × Nat)) : (s.winAdds l).shadow = s.shadow := (congrArg Mach.shadow (Mach.winAdds_frame s l) :)
@[simp] theorem Mach.winAdds_lows (s : Mach) (l : List (Nat × Nat)) : (s.winAdds l).lows = s.lows := (congrArg Mach.lows (Mach.winAdds_frame s l) :)
@[simp] theorem Mach.winAdds_rdata (s : Mach) (l : List (Nat × Nat)) : (s.winAdds l).rdata = s.rdata := (congrArg Mach.rdata (Mach.winAdds_frame s l) :)
@[simp] theorem Mach.winAdds_hub (s : Mach) (l : List (Nat × Nat)) : (s.winAdds l).hub = s.hub := (congrArg Mach.hub (Mach.winAdds_frame s l) :)
@[simp] theorem Mach.winAdds_hubBad (s : Mach) (l : List (Nat × Nat)) : (s.winAdds l).hubBad = s.hubBad := (congrArg Mach.hubBad (Mach.winAdds_frame s l) :)
@[simp] theorem Mach.winAdds_hubSoft (s : Mach) (l : List (Nat × Nat)) : (s.winAdds l).hubSoft = s.hubSoft := (congrArg Mach.hubSoft (Mach.winAdds_frame s l) :)
@[simp] theorem Mach.winAdds_hmem (s : Mach) (l : List (Nat × Nat)) : (s.winAdds l).hmem = s.hmem := (congrArg Mach.hmem (Mach.winAdds_frame s l) :)
@[simp] theorem Mach.winAdds_qch (s : Mach) (l : List (Nat × Nat)) : (s.winAdds l).qch = s.qch := (congrArg Mach.qch (Mach.winAdds_frame s l) :)
@[simp] theorem Mach.winAdds_hbx (s : Mach) (l : List (Nat × Nat)) : (s.winAdds l).hbx = s.hbx := (congrArg Mach.hbx (Mach.winAdds_frame s l) :)
@[simp] theorem Mach.winAdds_boots (s : Mach) (l : List (Nat × Nat)) : (s.winAdds l).boots = s.boots := (congrArg Mach.boots (Mach.winAdds_frame s l) :)
@[simp] theorem Mach.winAdds_evc (s : Mach) (l : List (Nat × Nat)) : (s.winAdds l).evc = s.evc := (congrArg Mach.evc (Mach.winAdds_frame s l) :)
@[simp] theorem Mach.winAdds_pw (s : Mach) (l : List (Nat × Nat)) : (s.winAdds l).pw = s.pw := (congrArg Mach.pw (Mach.winAdds_frame s l) :)
@[simp] theorem Mach.winAdds_sec (s : Mach) (l : List (Nat × Nat)) : (s.winAdds l).sec = s.sec := (congrArg Mach.sec (Mach.winAdds_frame s l) :)
@[simp] theorem Mach.winAdds_pins (s : Mach) (l : List (Nat × Nat)) : (s.winAdds l).pins = s.pins := (congrArg Mach.pins (Mach.winAdds_frame s l) :)
@[simp] theorem Mach.winAdds_fuseFences (s : Mach) (l : List (Nat × Nat)) : (s.winAdds l).fuseFences = s.fuseFences := (congrArg Mach.fuseFences (Mach.winAdds_frame s l) :)
@[simp] theorem Mach.winAdds_flashFences (s : Mach) (l : List (Nat × Nat)) : (s.winAdds l).flashFences = s.flashFences := (congrArg Mach.flashFences (Mach.winAdds_frame s l) :)
@[simp] theorem Mach.winAdds_free (s : Mach) (l : List (Nat × Nat)) : (s.winAdds l).free = s.free := (congrArg Mach.free (Mach.winAdds_frame s l) :)

theorem Mach.putTile_frame (s : Mach) (n : Nat) (t : Tile) : s.putTile n t = { s with tiles := (s.putTile n t).tiles, regs := (s.putTile n t).regs, dies := (s.putTile n t).dies, itg := (s.putTile n t).itg, trw := (s.putTile n t).trw, evc := (s.putTile n t).evc, flight := (s.putTile n t).flight } := by unfold Mach.putTile; simp only; split <;> split <;> split <;> (apply Mach.ext <;> simp)

@[simp] theorem Mach.putTile_clk (s : Mach) (n : Nat) (t : Tile) : (s.putTile n t).clk = s.clk := (congrArg Mach.clk (Mach.putTile_frame s n t) :)
@[simp] theorem Mach.putTile_part (s : Mach) (n : Nat) (t : Tile) : (s.putTile n t).part = s.part := (congrArg Mach.part (Mach.putTile_frame s n t) :)
@[simp] theorem Mach.putTile_groups (s : Mach) (n : Nat) (t : Tile) : (s.putTile n t).groups = s.groups := (congrArg Mach.groups (Mach.putTile_frame s n t) :)
@[simp] theorem Mach.putTile_msgs (s : Mach) (n : Nat) (t : Tile) : (s.putTile n t).msgs = s.msgs := (congrArg Mach.msgs (Mach.putTile_frame s n t) :)
@[simp] theorem Mach.putTile_dil (s : Mach) (n : Nat) (t : Tile) : (s.putTile n t).dil = s.dil := (congrArg Mach.dil (Mach.putTile_frame s n t) :)
@[simp] theorem Mach.putTile_hq (s : Mach) (n : Nat) (t : Tile) : (s.putTile n t).hq = s.hq := (congrArg Mach.hq (Mach.putTile_frame s n t) :)
@[simp] theorem Mach.putTile_dig (s : Mach) (n : Nat) (t : Tile) : (s.putTile n t).dig = s.dig := (congrArg Mach.dig (Mach.putTile_frame s n t) :)
@[simp] theorem Mach.putTile_gscs (s : Mach) (n : Nat) (t : Tile) : (s.putTile n t).gscs = s.gscs := (congrArg Mach.gscs (Mach.putTile_frame s n t) :)
@[simp] theorem Mach.putTile_hbms (s : Mach) (n : Nat) (t : Tile) : (s.putTile n t).hbms = s.hbms := (congrArg Mach.hbms (Mach.putTile_frame s n t) :)
@[simp] theorem Mach.putTile_ot (s : Mach) (n : Nat) (t : Tile) : (s.putTile n t).ot = s.ot := (congrArg Mach.ot (Mach.putTile_frame s n t) :)
@[simp] theorem Mach.putTile_movers (s : Mach) (n : Nat) (t : Tile) : (s.putTile n t).movers = s.movers := (congrArg Mach.movers (Mach.putTile_frame s n t) :)
@[simp] theorem Mach.putTile_shadow (s : Mach) (n : Nat) (t : Tile) : (s.putTile n t).shadow = s.shadow := (congrArg Mach.shadow (Mach.putTile_frame s n t) :)
@[simp] theorem Mach.putTile_lows (s : Mach) (n : Nat) (t : Tile) : (s.putTile n t).lows = s.lows := (congrArg Mach.lows (Mach.putTile_frame s n t) :)
@[simp] theorem Mach.putTile_rdata (s : Mach) (n : Nat) (t : Tile) : (s.putTile n t).rdata = s.rdata := (congrArg Mach.rdata (Mach.putTile_frame s n t) :)
@[simp] theorem Mach.putTile_hub (s : Mach) (n : Nat) (t : Tile) : (s.putTile n t).hub = s.hub := (congrArg Mach.hub (Mach.putTile_frame s n t) :)
@[simp] theorem Mach.putTile_hubBad (s : Mach) (n : Nat) (t : Tile) : (s.putTile n t).hubBad = s.hubBad := (congrArg Mach.hubBad (Mach.putTile_frame s n t) :)
@[simp] theorem Mach.putTile_hubSoft (s : Mach) (n : Nat) (t : Tile) : (s.putTile n t).hubSoft = s.hubSoft := (congrArg Mach.hubSoft (Mach.putTile_frame s n t) :)
@[simp] theorem Mach.putTile_hmem (s : Mach) (n : Nat) (t : Tile) : (s.putTile n t).hmem = s.hmem := (congrArg Mach.hmem (Mach.putTile_frame s n t) :)
@[simp] theorem Mach.putTile_qch (s : Mach) (n : Nat) (t : Tile) : (s.putTile n t).qch = s.qch := (congrArg Mach.qch (Mach.putTile_frame s n t) :)
@[simp] theorem Mach.putTile_hbx (s : Mach) (n : Nat) (t : Tile) : (s.putTile n t).hbx = s.hbx := (congrArg Mach.hbx (Mach.putTile_frame s n t) :)
@[simp] theorem Mach.putTile_boots (s : Mach) (n : Nat) (t : Tile) : (s.putTile n t).boots = s.boots := (congrArg Mach.boots (Mach.putTile_frame s n t) :)
@[simp] theorem Mach.putTile_pw (s : Mach) (n : Nat) (t : Tile) : (s.putTile n t).pw = s.pw := (congrArg Mach.pw (Mach.putTile_frame s n t) :)
@[simp] theorem Mach.putTile_sec (s : Mach) (n : Nat) (t : Tile) : (s.putTile n t).sec = s.sec := (congrArg Mach.sec (Mach.putTile_frame s n t) :)
@[simp] theorem Mach.putTile_pins (s : Mach) (n : Nat) (t : Tile) : (s.putTile n t).pins = s.pins := (congrArg Mach.pins (Mach.putTile_frame s n t) :)
@[simp] theorem Mach.putTile_fuseFences (s : Mach) (n : Nat) (t : Tile) : (s.putTile n t).fuseFences = s.fuseFences := (congrArg Mach.fuseFences (Mach.putTile_frame s n t) :)
@[simp] theorem Mach.putTile_flashFences (s : Mach) (n : Nat) (t : Tile) : (s.putTile n t).flashFences = s.flashFences := (congrArg Mach.flashFences (Mach.putTile_frame s n t) :)
@[simp] theorem Mach.putTile_free (s : Mach) (n : Nat) (t : Tile) : (s.putTile n t).free = s.free := (congrArg Mach.free (Mach.putTile_frame s n t) :)

theorem Mach.updTile_frame (s : Mach) (n : Nat) (f : Tile → Tile) : s.updTile n f = { s with tiles := (s.updTile n f).tiles, regs := (s.updTile n f).regs, dies := (s.updTile n f).dies, itg := (s.updTile n f).itg, trw := (s.updTile n f).trw, evc := (s.updTile n f).evc, flight := (s.updTile n f).flight } := Mach.putTile_frame s n (f (s.tile n))

@[simp] theorem Mach.updTile_clk (s : Mach) (n : Nat) (f : Tile → Tile) : (s.updTile n f).clk = s.clk := (congrArg Mach.clk (Mach.updTile_frame s n f) :)
@[simp] theorem Mach.updTile_part (s : Mach) (n : Nat) (f : Tile → Tile) : (s.updTile n f).part = s.part := (congrArg Mach.part (Mach.updTile_frame s n f) :)
@[simp] theorem Mach.updTile_groups (s : Mach) (n : Nat) (f : Tile → Tile) : (s.updTile n f).groups = s.groups := (congrArg Mach.groups (Mach.updTile_frame s n f) :)
@[simp] theorem Mach.updTile_msgs (s : Mach) (n : Nat) (f : Tile → Tile) : (s.updTile n f).msgs = s.msgs := (congrArg Mach.msgs (Mach.updTile_frame s n f) :)
@[simp] theorem Mach.updTile_dil (s : Mach) (n : Nat) (f : Tile → Tile) : (s.updTile n f).dil = s.dil := (congrArg Mach.dil (Mach.updTile_frame s n f) :)
@[simp] theorem Mach.updTile_hq (s : Mach) (n : Nat) (f : Tile → Tile) : (s.updTile n f).hq = s.hq := (congrArg Mach.hq (Mach.updTile_frame s n f) :)
@[simp] theorem Mach.updTile_dig (s : Mach) (n : Nat) (f : Tile → Tile) : (s.updTile n f).dig = s.dig := (congrArg Mach.dig (Mach.updTile_frame s n f) :)
@[simp] theorem Mach.updTile_gscs (s : Mach) (n : Nat) (f : Tile → Tile) : (s.updTile n f).gscs = s.gscs := (congrArg Mach.gscs (Mach.updTile_frame s n f) :)
@[simp] theorem Mach.updTile_hbms (s : Mach) (n : Nat) (f : Tile → Tile) : (s.updTile n f).hbms = s.hbms := (congrArg Mach.hbms (Mach.updTile_frame s n f) :)
@[simp] theorem Mach.updTile_ot (s : Mach) (n : Nat) (f : Tile → Tile) : (s.updTile n f).ot = s.ot := (congrArg Mach.ot (Mach.updTile_frame s n f) :)
@[simp] theorem Mach.updTile_movers (s : Mach) (n : Nat) (f : Tile → Tile) : (s.updTile n f).movers = s.movers := (congrArg Mach.movers (Mach.updTile_frame s n f) :)
@[simp] theorem Mach.updTile_shadow (s : Mach) (n : Nat) (f : Tile → Tile) : (s.updTile n f).shadow = s.shadow := (congrArg Mach.shadow (Mach.updTile_frame s n f) :)
@[simp] theorem Mach.updTile_lows (s : Mach) (n : Nat) (f : Tile → Tile) : (s.updTile n f).lows = s.lows := (congrArg Mach.lows (Mach.updTile_frame s n f) :)
@[simp] theorem Mach.updTile_rdata (s : Mach) (n : Nat) (f : Tile → Tile) : (s.updTile n f).rdata = s.rdata := (congrArg Mach.rdata (Mach.updTile_frame s n f) :)
@[simp] theorem Mach.updTile_hub (s : Mach) (n : Nat) (f : Tile → Tile) : (s.updTile n f).hub = s.hub := (congrArg Mach.hub (Mach.updTile_frame s n f) :)
@[simp] theorem Mach.updTile_hubBad (s : Mach) (n : Nat) (f : Tile → Tile) : (s.updTile n f).hubBad = s.hubBad := (congrArg Mach.hubBad (Mach.updTile_frame s n f) :)
@[simp] theorem Mach.updTile_hubSoft (s : Mach) (n : Nat) (f : Tile → Tile) : (s.updTile n f).hubSoft = s.hubSoft := (congrArg Mach.hubSoft (Mach.updTile_frame s n f) :)
@[simp] theorem Mach.updTile_hmem (s : Mach) (n : Nat) (f : Tile → Tile) : (s.updTile n f).hmem = s.hmem := (congrArg Mach.hmem (Mach.updTile_frame s n f) :)
@[simp] theorem Mach.updTile_qch (s : Mach) (n : Nat) (f : Tile → Tile) : (s.updTile n f).qch = s.qch := (congrArg Mach.qch (Mach.updTile_frame s n f) :)
@[simp] theorem Mach.updTile_hbx (s : Mach) (n : Nat) (f : Tile → Tile) : (s.updTile n f).hbx = s.hbx := (congrArg Mach.hbx (Mach.updTile_frame s n f) :)
@[simp] theorem Mach.updTile_boots (s : Mach) (n : Nat) (f : Tile → Tile) : (s.updTile n f).boots = s.boots := (congrArg Mach.boots (Mach.updTile_frame s n f) :)
@[simp] theorem Mach.updTile_pw (s : Mach) (n : Nat) (f : Tile → Tile) : (s.updTile n f).pw = s.pw := (congrArg Mach.pw (Mach.updTile_frame s n f) :)
@[simp] theorem Mach.updTile_sec (s : Mach) (n : Nat) (f : Tile → Tile) : (s.updTile n f).sec = s.sec := (congrArg Mach.sec (Mach.updTile_frame s n f) :)
@[simp] theorem Mach.updTile_pins (s : Mach) (n : Nat) (f : Tile → Tile) : (s.updTile n f).pins = s.pins := (congrArg Mach.pins (Mach.updTile_frame s n f) :)
@[simp] theorem Mach.updTile_fuseFences (s : Mach) (n : Nat) (f : Tile → Tile) : (s.updTile n f).fuseFences = s.fuseFences := (congrArg Mach.fuseFences (Mach.updTile_frame s n f) :)
@[simp] theorem Mach.updTile_flashFences (s : Mach) (n : Nat) (f : Tile → Tile) : (s.updTile n f).flashFences = s.flashFences := (congrArg Mach.flashFences (Mach.updTile_frame s n f) :)
@[simp] theorem Mach.updTile_free (s : Mach) (n : Nat) (f : Tile → Tile) : (s.updTile n f).free = s.free := (congrArg Mach.free (Mach.updTile_frame s n f) :)

theorem Mach.hxDone_frame (s : Mach) (n : Nat) (g : Option Nat) (c : Nat) : s.hxDone n g c = { s with tiles := (s.hxDone n g c).tiles, regs := (s.hxDone n g c).regs, dies := (s.hxDone n g c).dies, itg := (s.hxDone n g c).itg, trw := (s.hxDone n g c).trw, evc := (s.hxDone n g c).evc, flight := (s.hxDone n g c).flight } := by unfold Mach.hxDone; split <;> (apply Mach.ext <;> simp)

@[simp] theorem Mach.hxDone_clk (s : Mach) (n : Nat) (g : Option Nat) (c : Nat) : (s.hxDone n g c).clk = s.clk := (congrArg Mach.clk (Mach.hxDone_frame s n g c) :)
@[simp] theorem Mach.hxDone_part (s : Mach) (n : Nat) (g : Option Nat) (c : Nat) : (s.hxDone n g c).part = s.part := (congrArg Mach.part (Mach.hxDone_frame s n g c) :)
@[simp] theorem Mach.hxDone_groups (s : Mach) (n : Nat) (g : Option Nat) (c : Nat) : (s.hxDone n g c).groups = s.groups := (congrArg Mach.groups (Mach.hxDone_frame s n g c) :)
@[simp] theorem Mach.hxDone_msgs (s : Mach) (n : Nat) (g : Option Nat) (c : Nat) : (s.hxDone n g c).msgs = s.msgs := (congrArg Mach.msgs (Mach.hxDone_frame s n g c) :)
@[simp] theorem Mach.hxDone_dil (s : Mach) (n : Nat) (g : Option Nat) (c : Nat) : (s.hxDone n g c).dil = s.dil := (congrArg Mach.dil (Mach.hxDone_frame s n g c) :)
@[simp] theorem Mach.hxDone_hq (s : Mach) (n : Nat) (g : Option Nat) (c : Nat) : (s.hxDone n g c).hq = s.hq := (congrArg Mach.hq (Mach.hxDone_frame s n g c) :)
@[simp] theorem Mach.hxDone_dig (s : Mach) (n : Nat) (g : Option Nat) (c : Nat) : (s.hxDone n g c).dig = s.dig := (congrArg Mach.dig (Mach.hxDone_frame s n g c) :)
@[simp] theorem Mach.hxDone_gscs (s : Mach) (n : Nat) (g : Option Nat) (c : Nat) : (s.hxDone n g c).gscs = s.gscs := (congrArg Mach.gscs (Mach.hxDone_frame s n g c) :)
@[simp] theorem Mach.hxDone_hbms (s : Mach) (n : Nat) (g : Option Nat) (c : Nat) : (s.hxDone n g c).hbms = s.hbms := (congrArg Mach.hbms (Mach.hxDone_frame s n g c) :)
@[simp] theorem Mach.hxDone_ot (s : Mach) (n : Nat) (g : Option Nat) (c : Nat) : (s.hxDone n g c).ot = s.ot := (congrArg Mach.ot (Mach.hxDone_frame s n g c) :)
@[simp] theorem Mach.hxDone_movers (s : Mach) (n : Nat) (g : Option Nat) (c : Nat) : (s.hxDone n g c).movers = s.movers := (congrArg Mach.movers (Mach.hxDone_frame s n g c) :)
@[simp] theorem Mach.hxDone_shadow (s : Mach) (n : Nat) (g : Option Nat) (c : Nat) : (s.hxDone n g c).shadow = s.shadow := (congrArg Mach.shadow (Mach.hxDone_frame s n g c) :)
@[simp] theorem Mach.hxDone_lows (s : Mach) (n : Nat) (g : Option Nat) (c : Nat) : (s.hxDone n g c).lows = s.lows := (congrArg Mach.lows (Mach.hxDone_frame s n g c) :)
@[simp] theorem Mach.hxDone_rdata (s : Mach) (n : Nat) (g : Option Nat) (c : Nat) : (s.hxDone n g c).rdata = s.rdata := (congrArg Mach.rdata (Mach.hxDone_frame s n g c) :)
@[simp] theorem Mach.hxDone_hub (s : Mach) (n : Nat) (g : Option Nat) (c : Nat) : (s.hxDone n g c).hub = s.hub := (congrArg Mach.hub (Mach.hxDone_frame s n g c) :)
@[simp] theorem Mach.hxDone_hubBad (s : Mach) (n : Nat) (g : Option Nat) (c : Nat) : (s.hxDone n g c).hubBad = s.hubBad := (congrArg Mach.hubBad (Mach.hxDone_frame s n g c) :)
@[simp] theorem Mach.hxDone_hubSoft (s : Mach) (n : Nat) (g : Option Nat) (c : Nat) : (s.hxDone n g c).hubSoft = s.hubSoft := (congrArg Mach.hubSoft (Mach.hxDone_frame s n g c) :)
@[simp] theorem Mach.hxDone_hmem (s : Mach) (n : Nat) (g : Option Nat) (c : Nat) : (s.hxDone n g c).hmem = s.hmem := (congrArg Mach.hmem (Mach.hxDone_frame s n g c) :)
@[simp] theorem Mach.hxDone_qch (s : Mach) (n : Nat) (g : Option Nat) (c : Nat) : (s.hxDone n g c).qch = s.qch := (congrArg Mach.qch (Mach.hxDone_frame s n g c) :)
@[simp] theorem Mach.hxDone_hbx (s : Mach) (n : Nat) (g : Option Nat) (c : Nat) : (s.hxDone n g c).hbx = s.hbx := (congrArg Mach.hbx (Mach.hxDone_frame s n g c) :)
@[simp] theorem Mach.hxDone_boots (s : Mach) (n : Nat) (g : Option Nat) (c : Nat) : (s.hxDone n g c).boots = s.boots := (congrArg Mach.boots (Mach.hxDone_frame s n g c) :)
@[simp] theorem Mach.hxDone_pw (s : Mach) (n : Nat) (g : Option Nat) (c : Nat) : (s.hxDone n g c).pw = s.pw := (congrArg Mach.pw (Mach.hxDone_frame s n g c) :)
@[simp] theorem Mach.hxDone_sec (s : Mach) (n : Nat) (g : Option Nat) (c : Nat) : (s.hxDone n g c).sec = s.sec := (congrArg Mach.sec (Mach.hxDone_frame s n g c) :)
@[simp] theorem Mach.hxDone_pins (s : Mach) (n : Nat) (g : Option Nat) (c : Nat) : (s.hxDone n g c).pins = s.pins := (congrArg Mach.pins (Mach.hxDone_frame s n g c) :)
@[simp] theorem Mach.hxDone_fuseFences (s : Mach) (n : Nat) (g : Option Nat) (c : Nat) : (s.hxDone n g c).fuseFences = s.fuseFences := (congrArg Mach.fuseFences (Mach.hxDone_frame s n g c) :)
@[simp] theorem Mach.hxDone_flashFences (s : Mach) (n : Nat) (g : Option Nat) (c : Nat) : (s.hxDone n g c).flashFences = s.flashFences := (congrArg Mach.flashFences (Mach.hxDone_frame s n g c) :)
@[simp] theorem Mach.hxDone_free (s : Mach) (n : Nat) (g : Option Nat) (c : Nat) : (s.hxDone n g c).free = s.free := (congrArg Mach.free (Mach.hxDone_frame s n g c) :)

/-! ## Tiles, dies and counters looked up after a change -/

@[simp] theorem Mach.updDie_die (s : Mach) (d : Nat) (f : Die → Die) : (s.updDie d f).die d = f (s.die d) := by simp [Mach.die, Mach.updDie]

theorem Mach.updDie_die_ne (s : Mach) {d k : Nat} (f : Die → Die) (h : k ≠ d) : (s.updDie d f).die k = s.die k := SMap.get_upd_ne _ _ f h

@[simp] theorem Mach.updGsc_gsc (s : Mach) (n : Nat) (f : Gsc → Gsc) : (s.updGsc n f).gsc n = f (s.gsc n) := by simp [Mach.gsc, Mach.updGsc]

theorem Mach.updGsc_gsc_ne (s : Mach) {n k : Nat} (f : Gsc → Gsc) (h : k ≠ n) : (s.updGsc n f).gsc k = s.gsc k := SMap.get_upd_ne _ _ f h

theorem Mach.putTile_tiles (s : Mach) (n : Nat) (t : Tile) : (s.putTile n t).tiles = s.tiles.put n t.settled := by
  unfold Mach.putTile Tile.settled
  simp only
  split <;> split <;> split <;> simp [Mach.updDie]

theorem Mach.putTile_flight (s : Mach) (n : Nat) (t : Tile) :
    (s.putTile n t).flight = s.flight.map fun x => if x.sender = n then t.settled.sent x else x := by
  unfold Mach.putTile Tile.settled
  simp only
  split <;> split <;> split <;> simp [Mach.updDie]

@[simp] theorem Mach.putTile_tile (s : Mach) (n : Nat) (t : Tile) : (s.putTile n t).tile n = t.settled := by simp [Mach.tile, Mach.putTile_tiles]

theorem Mach.putTile_tile_ne (s : Mach) {n k : Nat} (t : Tile) (h : k ≠ n) : (s.putTile n t).tile k = s.tile k := by
  simp [Mach.tile, Mach.putTile_tiles, SMap.get_put_ne, h]

@[simp] theorem Mach.updTile_tile (s : Mach) (n : Nat) (f : Tile → Tile) : (s.updTile n f).tile n = (f (s.tile n)).settled := by simp [Mach.updTile]

theorem Mach.updTile_tile_ne (s : Mach) {n k : Nat} (f : Tile → Tile) (h : k ≠ n) : (s.updTile n f).tile k = s.tile k := Mach.putTile_tile_ne s _ h

/-! ## Registers looked up after a change -/

@[simp] theorem Mach.setReg_reg (s : Mach) (o : Nat) (v : Word) : (s.setReg o v).reg o = v := by
  have h : ∀ m : SMap Word, List.find? (fun x => x.1 == o) (SMap.put m o v) = some (o, v) := by
    intro m
    induction m with
    | nil => simp [SMap.put]
    | cons x r ih =>
      obtain ⟨k, w⟩ := x
      unfold SMap.put
      split
      · simp
      · split
        · simp
        · rename_i h1 h2
          rw [List.find?_cons_of_neg (by simpa using fun h => h2 h.symm), ih]
  simp [Mach.reg, Mach.setReg, h]

theorem Mach.setReg_reg_ne (s : Mach) {o k : Nat} (v : Word) (hk : k ≠ o) : (s.setReg o v).reg k = s.reg k := by
  have h : ∀ m : SMap Word, List.find? (fun x => x.1 == k) (SMap.put m o v) = List.find? (fun x => x.1 == k) m := by
    intro m
    induction m with
    | nil => simp [SMap.put, Ne.symm hk]
    | cons x r ih =>
      obtain ⟨j, w⟩ := x
      unfold SMap.put
      split
      · rw [List.find?_cons_of_neg (by simpa using Ne.symm hk)]
      · split
        · rename_i h2
          subst h2
          rw [List.find?_cons_of_neg (by simpa using Ne.symm hk), List.find?_cons_of_neg (by simpa using Ne.symm hk)]
        · simp only [List.find?_cons, ih]
  simp [Mach.reg, Mach.setReg, h]

end Sys2Proof.Machine
end

