-- ==== Sys2Proof/Laws/Tile.lean ====
section
/-! SUPPORT. A tile's operations: for each what it leaves alone, field by field; and what the acts of a cycle leave alone, which is everything but what acts find. -/

namespace Sys2Proof.Machine

theorem Tile.record_frame (t : Tile) (c u e p y a b : Nat) : t.record c u e p y a b = { t with tfr := (t.record c u e p y a b).tfr } := by unfold Tile.record; simp only; (repeat' split) <;> rfl

@[simp] theorem Tile.record_tsq (t : Tile) (c u e p y a b : Nat) : (t.record c u e p y a b).tsq = t.tsq := (congrArg Tile.tsq (Tile.record_frame t c u e p y a b) :)
@[simp] theorem Tile.record_tm (t : Tile) (c u e p y a b : Nat) : (t.record c u e p y a b).tm = t.tm := (congrArg Tile.tm (Tile.record_frame t c u e p y a b) :)
@[simp] theorem Tile.record_mem (t : Tile) (c u e p y a b : Nat) : (t.record c u e p y a b).mem = t.mem := (congrArg Tile.mem (Tile.record_frame t c u e p y a b) :)
@[simp] theorem Tile.record_bad (t : Tile) (c u e p y a b : Nat) : (t.record c u e p y a b).bad = t.bad := (congrArg Tile.bad (Tile.record_frame t c u e p y a b) :)
@[simp] theorem Tile.record_soft (t : Tile) (c u e p y a b : Nat) : (t.record c u e p y a b).soft = t.soft := (congrArg Tile.soft (Tile.record_frame t c u e p y a b) :)
@[simp] theorem Tile.record_cfg (t : Tile) (c u e p y a b : Nat) : (t.record c u e p y a b).cfg = t.cfg := (congrArg Tile.cfg (Tile.record_frame t c u e p y a b) :)
@[simp] theorem Tile.record_tab (t : Tile) (c u e p y a b : Nat) : (t.record c u e p y a b).tab = t.tab := (congrArg Tile.tab (Tile.record_frame t c u e p y a b) :)
@[simp] theorem Tile.record_ptrs (t : Tile) (c u e p y a b : Nat) : (t.record c u e p y a b).ptrs = t.ptrs := (congrArg Tile.ptrs (Tile.record_frame t c u e p y a b) :)
@[simp] theorem Tile.record_vs (t : Tile) (c u e p y a b : Nat) : (t.record c u e p y a b).vs = t.vs := (congrArg Tile.vs (Tile.record_frame t c u e p y a b) :)
@[simp] theorem Tile.record_mxe (t : Tile) (c u e p y a b : Nat) : (t.record c u e p y a b).mxe = t.mxe := (congrArg Tile.mxe (Tile.record_frame t c u e p y a b) :)
@[simp] theorem Tile.record_engs (t : Tile) (c u e p y a b : Nat) : (t.record c u e p y a b).engs = t.engs := (congrArg Tile.engs (Tile.record_frame t c u e p y a b) :)
@[simp] theorem Tile.record_rng (t : Tile) (c u e p y a b : Nat) : (t.record c u e p y a b).rng = t.rng := (congrArg Tile.rng (Tile.record_frame t c u e p y a b) :)
@[simp] theorem Tile.record_sched (t : Tile) (c u e p y a b : Nat) : (t.record c u e p y a b).sched = t.sched := (congrArg Tile.sched (Tile.record_frame t c u e p y a b) :)
@[simp] theorem Tile.record_pipe (t : Tile) (c u e p y a b : Nat) : (t.record c u e p y a b).pipe = t.pipe := (congrArg Tile.pipe (Tile.record_frame t c u e p y a b) :)
@[simp] theorem Tile.record_acts (t : Tile) (c u e p y a b : Nat) : (t.record c u e p y a b).acts = t.acts := (congrArg Tile.acts (Tile.record_frame t c u e p y a b) :)
@[simp] theorem Tile.record_base (t : Tile) (c u e p y a b : Nat) : (t.record c u e p y a b).base = t.base := (congrArg Tile.base (Tile.record_frame t c u e p y a b) :)
@[simp] theorem Tile.record_lscs (t : Tile) (c u e p y a b : Nat) : (t.record c u e p y a b).lscs = t.lscs := (congrArg Tile.lscs (Tile.record_frame t c u e p y a b) :)
@[simp] theorem Tile.record_slots (t : Tile) (c u e p y a b : Nat) : (t.record c u e p y a b).slots = t.slots := (congrArg Tile.slots (Tile.record_frame t c u e p y a b) :)
@[simp] theorem Tile.record_rqs (t : Tile) (c u e p y a b : Nat) : (t.record c u e p y a b).rqs = t.rqs := (congrArg Tile.rqs (Tile.record_frame t c u e p y a b) :)
@[simp] theorem Tile.record_scs (t : Tile) (c u e p y a b : Nat) : (t.record c u e p y a b).scs = t.scs := (congrArg Tile.scs (Tile.record_frame t c u e p y a b) :)
@[simp] theorem Tile.record_badTab (t : Tile) (c u e p y a b : Nat) : (t.record c u e p y a b).badTab = t.badTab := (congrArg Tile.badTab (Tile.record_frame t c u e p y a b) :)
@[simp] theorem Tile.record_badAcc (t : Tile) (c u e p y a b : Nat) : (t.record c u e p y a b).badAcc = t.badAcc := (congrArg Tile.badAcc (Tile.record_frame t c u e p y a b) :)
@[simp] theorem Tile.record_almTbl (t : Tile) (c u e p y a b : Nat) : (t.record c u e p y a b).almTbl = t.almTbl := (congrArg Tile.almTbl (Tile.record_frame t c u e p y a b) :)
@[simp] theorem Tile.record_almChan (t : Tile) (c u e p y a b : Nat) : (t.record c u e p y a b).almChan = t.almChan := (congrArg Tile.almChan (Tile.record_frame t c u e p y a b) :)
@[simp] theorem Tile.record_hb (t : Tile) (c u e p y a b : Nat) : (t.record c u e p y a b).hb = t.hb := (congrArg Tile.hb (Tile.record_frame t c u e p y a b) :)
@[simp] theorem Tile.record_gwait (t : Tile) (c u e p y a b : Nat) : (t.record c u e p y a b).gwait = t.gwait := (congrArg Tile.gwait (Tile.record_frame t c u e p y a b) :)
@[simp] theorem Tile.record_dev (t : Tile) (c u e p y a b : Nat) : (t.record c u e p y a b).dev = t.dev := (congrArg Tile.dev (Tile.record_frame t c u e p y a b) :)
@[simp] theorem Tile.record_cnt (t : Tile) (c u e p y a b : Nat) : (t.record c u e p y a b).cnt = t.cnt := (congrArg Tile.cnt (Tile.record_frame t c u e p y a b) :)
@[simp] theorem Tile.record_took (t : Tile) (c u e p y a b : Nat) : (t.record c u e p y a b).took = t.took := (congrArg Tile.took (Tile.record_frame t c u e p y a b) :)

theorem Tile.erase_frame (t : Tile) (c y d : Nat) : t.erase c y d = { t with tfr := (t.erase c y d).tfr } := by unfold Tile.erase; simp only; (repeat' split) <;> rfl

@[simp] theorem Tile.erase_tsq (t : Tile) (c y d : Nat) : (t.erase c y d).tsq = t.tsq := (congrArg Tile.tsq (Tile.erase_frame t c y d) :)
@[simp] theorem Tile.erase_tm (t : Tile) (c y d : Nat) : (t.erase c y d).tm = t.tm := (congrArg Tile.tm (Tile.erase_frame t c y d) :)
@[simp] theorem Tile.erase_mem (t : Tile) (c y d : Nat) : (t.erase c y d).mem = t.mem := (congrArg Tile.mem (Tile.erase_frame t c y d) :)
@[simp] theorem Tile.erase_bad (t : Tile) (c y d : Nat) : (t.erase c y d).bad = t.bad := (congrArg Tile.bad (Tile.erase_frame t c y d) :)
@[simp] theorem Tile.erase_soft (t : Tile) (c y d : Nat) : (t.erase c y d).soft = t.soft := (congrArg Tile.soft (Tile.erase_frame t c y d) :)
@[simp] theorem Tile.erase_cfg (t : Tile) (c y d : Nat) : (t.erase c y d).cfg = t.cfg := (congrArg Tile.cfg (Tile.erase_frame t c y d) :)
@[simp] theorem Tile.erase_tab (t : Tile) (c y d : Nat) : (t.erase c y d).tab = t.tab := (congrArg Tile.tab (Tile.erase_frame t c y d) :)
@[simp] theorem Tile.erase_ptrs (t : Tile) (c y d : Nat) : (t.erase c y d).ptrs = t.ptrs := (congrArg Tile.ptrs (Tile.erase_frame t c y d) :)
@[simp] theorem Tile.erase_vs (t : Tile) (c y d : Nat) : (t.erase c y d).vs = t.vs := (congrArg Tile.vs (Tile.erase_frame t c y d) :)
@[simp] theorem Tile.erase_mxe (t : Tile) (c y d : Nat) : (t.erase c y d).mxe = t.mxe := (congrArg Tile.mxe (Tile.erase_frame t c y d) :)
@[simp] theorem Tile.erase_engs (t : Tile) (c y d : Nat) : (t.erase c y d).engs = t.engs := (congrArg Tile.engs (Tile.erase_frame t c y d) :)
@[simp] theorem Tile.erase_rng (t : Tile) (c y d : Nat) : (t.erase c y d).rng = t.rng := (congrArg Tile.rng (Tile.erase_frame t c y d) :)
@[simp] theorem Tile.erase_sched (t : Tile) (c y d : Nat) : (t.erase c y d).sched = t.sched := (congrArg Tile.sched (Tile.erase_frame t c y d) :)
@[simp] theorem Tile.erase_pipe (t : Tile) (c y d : Nat) : (t.erase c y d).pipe = t.pipe := (congrArg Tile.pipe (Tile.erase_frame t c y d) :)
@[simp] theorem Tile.erase_acts (t : Tile) (c y d : Nat) : (t.erase c y d).acts = t.acts := (congrArg Tile.acts (Tile.erase_frame t c y d) :)
@[simp] theorem Tile.erase_base (t : Tile) (c y d : Nat) : (t.erase c y d).base = t.base := (congrArg Tile.base (Tile.erase_frame t c y d) :)
@[simp] theorem Tile.erase_lscs (t : Tile) (c y d : Nat) : (t.erase c y d).lscs = t.lscs := (congrArg Tile.lscs (Tile.erase_frame t c y d) :)
@[simp] theorem Tile.erase_slots (t : Tile) (c y d : Nat) : (t.erase c y d).slots = t.slots := (congrArg Tile.slots (Tile.erase_frame t c y d) :)
@[simp] theorem Tile.erase_rqs (t : Tile) (c y d : Nat) : (t.erase c y d).rqs = t.rqs := (congrArg Tile.rqs (Tile.erase_frame t c y d) :)
@[simp] theorem Tile.erase_scs (t : Tile) (c y d : Nat) : (t.erase c y d).scs = t.scs := (congrArg Tile.scs (Tile.erase_frame t c y d) :)
@[simp] theorem Tile.erase_badTab (t : Tile) (c y d : Nat) : (t.erase c y d).badTab = t.badTab := (congrArg Tile.badTab (Tile.erase_frame t c y d) :)
@[simp] theorem Tile.erase_badAcc (t : Tile) (c y d : Nat) : (t.erase c y d).badAcc = t.badAcc := (congrArg Tile.badAcc (Tile.erase_frame t c y d) :)
@[simp] theorem Tile.erase_almTbl (t : Tile) (c y d : Nat) : (t.erase c y d).almTbl = t.almTbl := (congrArg Tile.almTbl (Tile.erase_frame t c y d) :)
@[simp] theorem Tile.erase_almChan (t : Tile) (c y d : Nat) : (t.erase c y d).almChan = t.almChan := (congrArg Tile.almChan (Tile.erase_frame t c y d) :)
@[simp] theorem Tile.erase_hb (t : Tile) (c y d : Nat) : (t.erase c y d).hb = t.hb := (congrArg Tile.hb (Tile.erase_frame t c y d) :)
@[simp] theorem Tile.erase_gwait (t : Tile) (c y d : Nat) : (t.erase c y d).gwait = t.gwait := (congrArg Tile.gwait (Tile.erase_frame t c y d) :)
@[simp] theorem Tile.erase_dev (t : Tile) (c y d : Nat) : (t.erase c y d).dev = t.dev := (congrArg Tile.dev (Tile.erase_frame t c y d) :)
@[simp] theorem Tile.erase_cnt (t : Tile) (c y d : Nat) : (t.erase c y d).cnt = t.cnt := (congrArg Tile.cnt (Tile.erase_frame t c y d) :)
@[simp] theorem Tile.erase_took (t : Tile) (c y d : Nat) : (t.erase c y d).took = t.took := (congrArg Tile.took (Tile.erase_frame t c y d) :)

theorem Tile.fault_frame (t : Tile) (c u e p y a b : Nat) : t.fault c u e p y a b = { t with tfr := (t.fault c u e p y a b).tfr, base := (t.fault c u e p y a b).base } := by unfold Tile.fault Tile.both; split <;> (apply Tile.ext <;> simp)

@[simp] theorem Tile.fault_tsq (t : Tile) (c u e p y a b : Nat) : (t.fault c u e p y a b).tsq = t.tsq := (congrArg Tile.tsq (Tile.fault_frame t c u e p y a b) :)
@[simp] theorem Tile.fault_tm (t : Tile) (c u e p y a b : Nat) : (t.fault c u e p y a b).tm = t.tm := (congrArg Tile.tm (Tile.fault_frame t c u e p y a b) :)
@[simp] theorem Tile.fault_mem (t : Tile) (c u e p y a b : Nat) : (t.fault c u e p y a b).mem = t.mem := (congrArg Tile.mem (Tile.fault_frame t c u e p y a b) :)
@[simp] theorem Tile.fault_bad (t : Tile) (c u e p y a b : Nat) : (t.fault c u e p y a b).bad = t.bad := (congrArg Tile.bad (Tile.fault_frame t c u e p y a b) :)
@[simp] theorem Tile.fault_soft (t : Tile) (c u e p y a b : Nat) : (t.fault c u e p y a b).soft = t.soft := (congrArg Tile.soft (Tile.fault_frame t c u e p y a b) :)
@[simp] theorem Tile.fault_cfg (t : Tile) (c u e p y a b : Nat) : (t.fault c u e p y a b).cfg = t.cfg := (congrArg Tile.cfg (Tile.fault_frame t c u e p y a b) :)
@[simp] theorem Tile.fault_tab (t : Tile) (c u e p y a b : Nat) : (t.fault c u e p y a b).tab = t.tab := (congrArg Tile.tab (Tile.fault_frame t c u e p y a b) :)
@[simp] theorem Tile.fault_ptrs (t : Tile) (c u e p y a b : Nat) : (t.fault c u e p y a b).ptrs = t.ptrs := (congrArg Tile.ptrs (Tile.fault_frame t c u e p y a b) :)
@[simp] theorem Tile.fault_vs (t : Tile) (c u e p y a b : Nat) : (t.fault c u e p y a b).vs = t.vs := (congrArg Tile.vs (Tile.fault_frame t c u e p y a b) :)
@[simp] theorem Tile.fault_mxe (t : Tile) (c u e p y a b : Nat) : (t.fault c u e p y a b).mxe = t.mxe := (congrArg Tile.mxe (Tile.fault_frame t c u e p y a b) :)
@[simp] theorem Tile.fault_engs (t : Tile) (c u e p y a b : Nat) : (t.fault c u e p y a b).engs = t.engs := (congrArg Tile.engs (Tile.fault_frame t c u e p y a b) :)
@[simp] theorem Tile.fault_rng (t : Tile) (c u e p y a b : Nat) : (t.fault c u e p y a b).rng = t.rng := (congrArg Tile.rng (Tile.fault_frame t c u e p y a b) :)
@[simp] theorem Tile.fault_sched (t : Tile) (c u e p y a b : Nat) : (t.fault c u e p y a b).sched = t.sched := (congrArg Tile.sched (Tile.fault_frame t c u e p y a b) :)
@[simp] theorem Tile.fault_pipe (t : Tile) (c u e p y a b : Nat) : (t.fault c u e p y a b).pipe = t.pipe := (congrArg Tile.pipe (Tile.fault_frame t c u e p y a b) :)
@[simp] theorem Tile.fault_acts (t : Tile) (c u e p y a b : Nat) : (t.fault c u e p y a b).acts = t.acts := (congrArg Tile.acts (Tile.fault_frame t c u e p y a b) :)
@[simp] theorem Tile.fault_lscs (t : Tile) (c u e p y a b : Nat) : (t.fault c u e p y a b).lscs = t.lscs := (congrArg Tile.lscs (Tile.fault_frame t c u e p y a b) :)
@[simp] theorem Tile.fault_slots (t : Tile) (c u e p y a b : Nat) : (t.fault c u e p y a b).slots = t.slots := (congrArg Tile.slots (Tile.fault_frame t c u e p y a b) :)
@[simp] theorem Tile.fault_rqs (t : Tile) (c u e p y a b : Nat) : (t.fault c u e p y a b).rqs = t.rqs := (congrArg Tile.rqs (Tile.fault_frame t c u e p y a b) :)
@[simp] theorem Tile.fault_scs (t : Tile) (c u e p y a b : Nat) : (t.fault c u e p y a b).scs = t.scs := (congrArg Tile.scs (Tile.fault_frame t c u e p y a b) :)
@[simp] theorem Tile.fault_badTab (t : Tile) (c u e p y a b : Nat) : (t.fault c u e p y a b).badTab = t.badTab := (congrArg Tile.badTab (Tile.fault_frame t c u e p y a b) :)
@[simp] theorem Tile.fault_badAcc (t : Tile) (c u e p y a b : Nat) : (t.fault c u e p y a b).badAcc = t.badAcc := (congrArg Tile.badAcc (Tile.fault_frame t c u e p y a b) :)
@[simp] theorem Tile.fault_almTbl (t : Tile) (c u e p y a b : Nat) : (t.fault c u e p y a b).almTbl = t.almTbl := (congrArg Tile.almTbl (Tile.fault_frame t c u e p y a b) :)
@[simp] theorem Tile.fault_almChan (t : Tile) (c u e p y a b : Nat) : (t.fault c u e p y a b).almChan = t.almChan := (congrArg Tile.almChan (Tile.fault_frame t c u e p y a b) :)
@[simp] theorem Tile.fault_hb (t : Tile) (c u e p y a b : Nat) : (t.fault c u e p y a b).hb = t.hb := (congrArg Tile.hb (Tile.fault_frame t c u e p y a b) :)
@[simp] theorem Tile.fault_gwait (t : Tile) (c u e p y a b : Nat) : (t.fault c u e p y a b).gwait = t.gwait := (congrArg Tile.gwait (Tile.fault_frame t c u e p y a b) :)
@[simp] theorem Tile.fault_dev (t : Tile) (c u e p y a b : Nat) : (t.fault c u e p y a b).dev = t.dev := (congrArg Tile.dev (Tile.fault_frame t c u e p y a b) :)
@[simp] theorem Tile.fault_cnt (t : Tile) (c u e p y a b : Nat) : (t.fault c u e p y a b).cnt = t.cnt := (congrArg Tile.cnt (Tile.fault_frame t c u e p y a b) :)
@[simp] theorem Tile.fault_took (t : Tile) (c u e p y a b : Nat) : (t.fault c u e p y a b).took = t.took := (congrArg Tile.took (Tile.fault_frame t c u e p y a b) :)

theorem Tile.unfault_frame (t : Tile) (c y d : Nat) : t.unfault c y d = { t with tfr := (t.unfault c y d).tfr, base := (t.unfault c y d).base } := by unfold Tile.unfault Tile.both; split <;> (apply Tile.ext <;> simp)

@[simp] theorem Tile.unfault_tsq (t : Tile) (c y d : Nat) : (t.unfault c y d).tsq = t.tsq := (congrArg Tile.tsq (Tile.unfault_frame t c y d) :)
@[simp] theorem Tile.unfault_tm (t : Tile) (c y d : Nat) : (t.unfault c y d).tm = t.tm := (congrArg Tile.tm (Tile.unfault_frame t c y d) :)
@[simp] theorem Tile.unfault_mem (t : Tile) (c y d : Nat) : (t.unfault c y d).mem = t.mem := (congrArg Tile.mem (Tile.unfault_frame t c y d) :)
@[simp] theorem Tile.unfault_bad (t : Tile) (c y d : Nat) : (t.unfault c y d).bad = t.bad := (congrArg Tile.bad (Tile.unfault_frame t c y d) :)
@[simp] theorem Tile.unfault_soft (t : Tile) (c y d : Nat) : (t.unfault c y d).soft = t.soft := (congrArg Tile.soft (Tile.unfault_frame t c y d) :)
@[simp] theorem Tile.unfault_cfg (t : Tile) (c y d : Nat) : (t.unfault c y d).cfg = t.cfg := (congrArg Tile.cfg (Tile.unfault_frame t c y d) :)
@[simp] theorem Tile.unfault_tab (t : Tile) (c y d : Nat) : (t.unfault c y d).tab = t.tab := (congrArg Tile.tab (Tile.unfault_frame t c y d) :)
@[simp] theorem Tile.unfault_ptrs (t : Tile) (c y d : Nat) : (t.unfault c y d).ptrs = t.ptrs := (congrArg Tile.ptrs (Tile.unfault_frame t c y d) :)
@[simp] theorem Tile.unfault_vs (t : Tile) (c y d : Nat) : (t.unfault c y d).vs = t.vs := (congrArg Tile.vs (Tile.unfault_frame t c y d) :)
@[simp] theorem Tile.unfault_mxe (t : Tile) (c y d : Nat) : (t.unfault c y d).mxe = t.mxe := (congrArg Tile.mxe (Tile.unfault_frame t c y d) :)
@[simp] theorem Tile.unfault_engs (t : Tile) (c y d : Nat) : (t.unfault c y d).engs = t.engs := (congrArg Tile.engs (Tile.unfault_frame t c y d) :)
@[simp] theorem Tile.unfault_rng (t : Tile) (c y d : Nat) : (t.unfault c y d).rng = t.rng := (congrArg Tile.rng (Tile.unfault_frame t c y d) :)
@[simp] theorem Tile.unfault_sched (t : Tile) (c y d : Nat) : (t.unfault c y d).sched = t.sched := (congrArg Tile.sched (Tile.unfault_frame t c y d) :)
@[simp] theorem Tile.unfault_pipe (t : Tile) (c y d : Nat) : (t.unfault c y d).pipe = t.pipe := (congrArg Tile.pipe (Tile.unfault_frame t c y d) :)
@[simp] theorem Tile.unfault_acts (t : Tile) (c y d : Nat) : (t.unfault c y d).acts = t.acts := (congrArg Tile.acts (Tile.unfault_frame t c y d) :)
@[simp] theorem Tile.unfault_lscs (t : Tile) (c y d : Nat) : (t.unfault c y d).lscs = t.lscs := (congrArg Tile.lscs (Tile.unfault_frame t c y d) :)
@[simp] theorem Tile.unfault_slots (t : Tile) (c y d : Nat) : (t.unfault c y d).slots = t.slots := (congrArg Tile.slots (Tile.unfault_frame t c y d) :)
@[simp] theorem Tile.unfault_rqs (t : Tile) (c y d : Nat) : (t.unfault c y d).rqs = t.rqs := (congrArg Tile.rqs (Tile.unfault_frame t c y d) :)
@[simp] theorem Tile.unfault_scs (t : Tile) (c y d : Nat) : (t.unfault c y d).scs = t.scs := (congrArg Tile.scs (Tile.unfault_frame t c y d) :)
@[simp] theorem Tile.unfault_badTab (t : Tile) (c y d : Nat) : (t.unfault c y d).badTab = t.badTab := (congrArg Tile.badTab (Tile.unfault_frame t c y d) :)
@[simp] theorem Tile.unfault_badAcc (t : Tile) (c y d : Nat) : (t.unfault c y d).badAcc = t.badAcc := (congrArg Tile.badAcc (Tile.unfault_frame t c y d) :)
@[simp] theorem Tile.unfault_almTbl (t : Tile) (c y d : Nat) : (t.unfault c y d).almTbl = t.almTbl := (congrArg Tile.almTbl (Tile.unfault_frame t c y d) :)
@[simp] theorem Tile.unfault_almChan (t : Tile) (c y d : Nat) : (t.unfault c y d).almChan = t.almChan := (congrArg Tile.almChan (Tile.unfault_frame t c y d) :)
@[simp] theorem Tile.unfault_hb (t : Tile) (c y d : Nat) : (t.unfault c y d).hb = t.hb := (congrArg Tile.hb (Tile.unfault_frame t c y d) :)
@[simp] theorem Tile.unfault_gwait (t : Tile) (c y d : Nat) : (t.unfault c y d).gwait = t.gwait := (congrArg Tile.gwait (Tile.unfault_frame t c y d) :)
@[simp] theorem Tile.unfault_dev (t : Tile) (c y d : Nat) : (t.unfault c y d).dev = t.dev := (congrArg Tile.dev (Tile.unfault_frame t c y d) :)
@[simp] theorem Tile.unfault_cnt (t : Tile) (c y d : Nat) : (t.unfault c y d).cnt = t.cnt := (congrArg Tile.cnt (Tile.unfault_frame t c y d) :)
@[simp] theorem Tile.unfault_took (t : Tile) (c y d : Nat) : (t.unfault c y d).took = t.took := (congrArg Tile.took (Tile.unfault_frame t c y d) :)

theorem Tile.restamp_frame (t : Tile) : t.restamp = { t with tfr := (t.restamp).tfr, base := (t.restamp).base } := by unfold Tile.restamp Tile.both; split <;> dsimp only <;> split <;> rfl

@[simp] theorem Tile.restamp_tsq (t : Tile) : (t.restamp).tsq = t.tsq := (congrArg Tile.tsq (Tile.restamp_frame t) :)
@[simp] theorem Tile.restamp_tm (t : Tile) : (t.restamp).tm = t.tm := (congrArg Tile.tm (Tile.restamp_frame t) :)
@[simp] theorem Tile.restamp_mem (t : Tile) : (t.restamp).mem = t.mem := (congrArg Tile.mem (Tile.restamp_frame t) :)
@[simp] theorem Tile.restamp_bad (t : Tile) : (t.restamp).bad = t.bad := (congrArg Tile.bad (Tile.restamp_frame t) :)
@[simp] theorem Tile.restamp_soft (t : Tile) : (t.restamp).soft = t.soft := (congrArg Tile.soft (Tile.restamp_frame t) :)
@[simp] theorem Tile.restamp_cfg (t : Tile) : (t.restamp).cfg = t.cfg := (congrArg Tile.cfg (Tile.restamp_frame t) :)
@[simp] theorem Tile.restamp_tab (t : Tile) : (t.restamp).tab = t.tab := (congrArg Tile.tab (Tile.restamp_frame t) :)
@[simp] theorem Tile.restamp_ptrs (t : Tile) : (t.restamp).ptrs = t.ptrs := (congrArg Tile.ptrs (Tile.restamp_frame t) :)
@[simp] theorem Tile.restamp_vs (t : Tile) : (t.restamp).vs = t.vs := (congrArg Tile.vs (Tile.restamp_frame t) :)
@[simp] theorem Tile.restamp_mxe (t : Tile) : (t.restamp).mxe = t.mxe := (congrArg Tile.mxe (Tile.restamp_frame t) :)
@[simp] theorem Tile.restamp_engs (t : Tile) : (t.restamp).engs = t.engs := (congrArg Tile.engs (Tile.restamp_frame t) :)
@[simp] theorem Tile.restamp_rng (t : Tile) : (t.restamp).rng = t.rng := (congrArg Tile.rng (Tile.restamp_frame t) :)
@[simp] theorem Tile.restamp_sched (t : Tile) : (t.restamp).sched = t.sched := (congrArg Tile.sched (Tile.restamp_frame t) :)
@[simp] theorem Tile.restamp_pipe (t : Tile) : (t.restamp).pipe = t.pipe := (congrArg Tile.pipe (Tile.restamp_frame t) :)
@[simp] theorem Tile.restamp_acts (t : Tile) : (t.restamp).acts = t.acts := (congrArg Tile.acts (Tile.restamp_frame t) :)
@[simp] theorem Tile.restamp_lscs (t : Tile) : (t.restamp).lscs = t.lscs := (congrArg Tile.lscs (Tile.restamp_frame t) :)
@[simp] theorem Tile.restamp_slots (t : Tile) : (t.restamp).slots = t.slots := (congrArg Tile.slots (Tile.restamp_frame t) :)
@[simp] theorem Tile.restamp_rqs (t : Tile) : (t.restamp).rqs = t.rqs := (congrArg Tile.rqs (Tile.restamp_frame t) :)
@[simp] theorem Tile.restamp_scs (t : Tile) : (t.restamp).scs = t.scs := (congrArg Tile.scs (Tile.restamp_frame t) :)
@[simp] theorem Tile.restamp_badTab (t : Tile) : (t.restamp).badTab = t.badTab := (congrArg Tile.badTab (Tile.restamp_frame t) :)
@[simp] theorem Tile.restamp_badAcc (t : Tile) : (t.restamp).badAcc = t.badAcc := (congrArg Tile.badAcc (Tile.restamp_frame t) :)
@[simp] theorem Tile.restamp_almTbl (t : Tile) : (t.restamp).almTbl = t.almTbl := (congrArg Tile.almTbl (Tile.restamp_frame t) :)
@[simp] theorem Tile.restamp_almChan (t : Tile) : (t.restamp).almChan = t.almChan := (congrArg Tile.almChan (Tile.restamp_frame t) :)
@[simp] theorem Tile.restamp_hb (t : Tile) : (t.restamp).hb = t.hb := (congrArg Tile.hb (Tile.restamp_frame t) :)
@[simp] theorem Tile.restamp_gwait (t : Tile) : (t.restamp).gwait = t.gwait := (congrArg Tile.gwait (Tile.restamp_frame t) :)
@[simp] theorem Tile.restamp_dev (t : Tile) : (t.restamp).dev = t.dev := (congrArg Tile.dev (Tile.restamp_frame t) :)
@[simp] theorem Tile.restamp_cnt (t : Tile) : (t.restamp).cnt = t.cnt := (congrArg Tile.cnt (Tile.restamp_frame t) :)
@[simp] theorem Tile.restamp_took (t : Tile) : (t.restamp).took = t.took := (congrArg Tile.took (Tile.restamp_frame t) :)

theorem Tile.flag_frame (t : Tile) (f : NFlags) : t.flag f = { t with cnt := (t.flag f).cnt, base := (t.flag f).base } := by unfold Tile.flag Tile.both; (repeat' split) <;> rfl

@[simp] theorem Tile.flag_tsq (t : Tile) (f : NFlags) : (t.flag f).tsq = t.tsq := (congrArg Tile.tsq (Tile.flag_frame t f) :)
@[simp] theorem Tile.flag_tm (t : Tile) (f : NFlags) : (t.flag f).tm = t.tm := (congrArg Tile.tm (Tile.flag_frame t f) :)
@[simp] theorem Tile.flag_mem (t : Tile) (f : NFlags) : (t.flag f).mem = t.mem := (congrArg Tile.mem (Tile.flag_frame t f) :)
@[simp] theorem Tile.flag_bad (t : Tile) (f : NFlags) : (t.flag f).bad = t.bad := (congrArg Tile.bad (Tile.flag_frame t f) :)
@[simp] theorem Tile.flag_soft (t : Tile) (f : NFlags) : (t.flag f).soft = t.soft := (congrArg Tile.soft (Tile.flag_frame t f) :)
@[simp] theorem Tile.flag_cfg (t : Tile) (f : NFlags) : (t.flag f).cfg = t.cfg := (congrArg Tile.cfg (Tile.flag_frame t f) :)
@[simp] theorem Tile.flag_tab (t : Tile) (f : NFlags) : (t.flag f).tab = t.tab := (congrArg Tile.tab (Tile.flag_frame t f) :)
@[simp] theorem Tile.flag_ptrs (t : Tile) (f : NFlags) : (t.flag f).ptrs = t.ptrs := (congrArg Tile.ptrs (Tile.flag_frame t f) :)
@[simp] theorem Tile.flag_vs (t : Tile) (f : NFlags) : (t.flag f).vs = t.vs := (congrArg Tile.vs (Tile.flag_frame t f) :)
@[simp] theorem Tile.flag_mxe (t : Tile) (f : NFlags) : (t.flag f).mxe = t.mxe := (congrArg Tile.mxe (Tile.flag_frame t f) :)
@[simp] theorem Tile.flag_engs (t : Tile) (f : NFlags) : (t.flag f).engs = t.engs := (congrArg Tile.engs (Tile.flag_frame t f) :)
@[simp] theorem Tile.flag_rng (t : Tile) (f : NFlags) : (t.flag f).rng = t.rng := (congrArg Tile.rng (Tile.flag_frame t f) :)
@[simp] theorem Tile.flag_sched (t : Tile) (f : NFlags) : (t.flag f).sched = t.sched := (congrArg Tile.sched (Tile.flag_frame t f) :)
@[simp] theorem Tile.flag_pipe (t : Tile) (f : NFlags) : (t.flag f).pipe = t.pipe := (congrArg Tile.pipe (Tile.flag_frame t f) :)
@[simp] theorem Tile.flag_acts (t : Tile) (f : NFlags) : (t.flag f).acts = t.acts := (congrArg Tile.acts (Tile.flag_frame t f) :)
@[simp] theorem Tile.flag_lscs (t : Tile) (f : NFlags) : (t.flag f).lscs = t.lscs := (congrArg Tile.lscs (Tile.flag_frame t f) :)
@[simp] theorem Tile.flag_slots (t : Tile) (f : NFlags) : (t.flag f).slots = t.slots := (congrArg Tile.slots (Tile.flag_frame t f) :)
@[simp] theorem Tile.flag_rqs (t : Tile) (f : NFlags) : (t.flag f).rqs = t.rqs := (congrArg Tile.rqs (Tile.flag_frame t f) :)
@[simp] theorem Tile.flag_scs (t : Tile) (f : NFlags) : (t.flag f).scs = t.scs := (congrArg Tile.scs (Tile.flag_frame t f) :)
@[simp] theorem Tile.flag_badTab (t : Tile) (f : NFlags) : (t.flag f).badTab = t.badTab := (congrArg Tile.badTab (Tile.flag_frame t f) :)
@[simp] theorem Tile.flag_badAcc (t : Tile) (f : NFlags) : (t.flag f).badAcc = t.badAcc := (congrArg Tile.badAcc (Tile.flag_frame t f) :)
@[simp] theorem Tile.flag_almTbl (t : Tile) (f : NFlags) : (t.flag f).almTbl = t.almTbl := (congrArg Tile.almTbl (Tile.flag_frame t f) :)
@[simp] theorem Tile.flag_almChan (t : Tile) (f : NFlags) : (t.flag f).almChan = t.almChan := (congrArg Tile.almChan (Tile.flag_frame t f) :)
@[simp] theorem Tile.flag_hb (t : Tile) (f : NFlags) : (t.flag f).hb = t.hb := (congrArg Tile.hb (Tile.flag_frame t f) :)
@[simp] theorem Tile.flag_gwait (t : Tile) (f : NFlags) : (t.flag f).gwait = t.gwait := (congrArg Tile.gwait (Tile.flag_frame t f) :)
@[simp] theorem Tile.flag_dev (t : Tile) (f : NFlags) : (t.flag f).dev = t.dev := (congrArg Tile.dev (Tile.flag_frame t f) :)
@[simp] theorem Tile.flag_tfr (t : Tile) (f : NFlags) : (t.flag f).tfr = t.tfr := (congrArg Tile.tfr (Tile.flag_frame t f) :)
@[simp] theorem Tile.flag_took (t : Tile) (f : NFlags) : (t.flag f).took = t.took := (congrArg Tile.took (Tile.flag_frame t f) :)

theorem Tile.flagOnly_frame (t : Tile) (f : NFlags) : t.flagOnly f = { t with cnt := (t.flagOnly f).cnt, base := (t.flagOnly f).base } := Tile.flag_frame t _

@[simp] theorem Tile.flagOnly_tsq (t : Tile) (f : NFlags) : (t.flagOnly f).tsq = t.tsq := (congrArg Tile.tsq (Tile.flagOnly_frame t f) :)
@[simp] theorem Tile.flagOnly_tm (t : Tile) (f : NFlags) : (t.flagOnly f).tm = t.tm := (congrArg Tile.tm (Tile.flagOnly_frame t f) :)
@[simp] theorem Tile.flagOnly_mem (t : Tile) (f : NFlags) : (t.flagOnly f).mem = t.mem := (congrArg Tile.mem (Tile.flagOnly_frame t f) :)
@[simp] theorem Tile.flagOnly_bad (t : Tile) (f : NFlags) : (t.flagOnly f).bad = t.bad := (congrArg Tile.bad (Tile.flagOnly_frame t f) :)
@[simp] theorem Tile.flagOnly_soft (t : Tile) (f : NFlags) : (t.flagOnly f).soft = t.soft := (congrArg Tile.soft (Tile.flagOnly_frame t f) :)
@[simp] theorem Tile.flagOnly_cfg (t : Tile) (f : NFlags) : (t.flagOnly f).cfg = t.cfg := (congrArg Tile.cfg (Tile.flagOnly_frame t f) :)
@[simp] theorem Tile.flagOnly_tab (t : Tile) (f : NFlags) : (t.flagOnly f).tab = t.tab := (congrArg Tile.tab (Tile.flagOnly_frame t f) :)
@[simp] theorem Tile.flagOnly_ptrs (t : Tile) (f : NFlags) : (t.flagOnly f).ptrs = t.ptrs := (congrArg Tile.ptrs (Tile.flagOnly_frame t f) :)
@[simp] theorem Tile.flagOnly_vs (t : Tile) (f : NFlags) : (t.flagOnly f).vs = t.vs := (congrArg Tile.vs (Tile.flagOnly_frame t f) :)
@[simp] theorem Tile.flagOnly_mxe (t : Tile) (f : NFlags) : (t.flagOnly f).mxe = t.mxe := (congrArg Tile.mxe (Tile.flagOnly_frame t f) :)
@[simp] theorem Tile.flagOnly_engs (t : Tile) (f : NFlags) : (t.flagOnly f).engs = t.engs := (congrArg Tile.engs (Tile.flagOnly_frame t f) :)
@[simp] theorem Tile.flagOnly_rng (t : Tile) (f : NFlags) : (t.flagOnly f).rng = t.rng := (congrArg Tile.rng (Tile.flagOnly_frame t f) :)
@[simp] theorem Tile.flagOnly_sched (t : Tile) (f : NFlags) : (t.flagOnly f).sched = t.sched := (congrArg Tile.sched (Tile.flagOnly_frame t f) :)
@[simp] theorem Tile.flagOnly_pipe (t : Tile) (f : NFlags) : (t.flagOnly f).pipe = t.pipe := (congrArg Tile.pipe (Tile.flagOnly_frame t f) :)
@[simp] theorem Tile.flagOnly_acts (t : Tile) (f : NFlags) : (t.flagOnly f).acts = t.acts := (congrArg Tile.acts (Tile.flagOnly_frame t f) :)
@[simp] theorem Tile.flagOnly_lscs (t : Tile) (f : NFlags) : (t.flagOnly f).lscs = t.lscs := (congrArg Tile.lscs (Tile.flagOnly_frame t f) :)
@[simp] theorem Tile.flagOnly_slots (t : Tile) (f : NFlags) : (t.flagOnly f).slots = t.slots := (congrArg Tile.slots (Tile.flagOnly_frame t f) :)
@[simp] theorem Tile.flagOnly_rqs (t : Tile) (f : NFlags) : (t.flagOnly f).rqs = t.rqs := (congrArg Tile.rqs (Tile.flagOnly_frame t f) :)
@[simp] theorem Tile.flagOnly_scs (t : Tile) (f : NFlags) : (t.flagOnly f).scs = t.scs := (congrArg Tile.scs (Tile.flagOnly_frame t f) :)
@[simp] theorem Tile.flagOnly_badTab (t : Tile) (f : NFlags) : (t.flagOnly f).badTab = t.badTab := (congrArg Tile.badTab (Tile.flagOnly_frame t f) :)
@[simp] theorem Tile.flagOnly_badAcc (t : Tile) (f : NFlags) : (t.flagOnly f).badAcc = t.badAcc := (congrArg Tile.badAcc (Tile.flagOnly_frame t f) :)
@[simp] theorem Tile.flagOnly_almTbl (t : Tile) (f : NFlags) : (t.flagOnly f).almTbl = t.almTbl := (congrArg Tile.almTbl (Tile.flagOnly_frame t f) :)
@[simp] theorem Tile.flagOnly_almChan (t : Tile) (f : NFlags) : (t.flagOnly f).almChan = t.almChan := (congrArg Tile.almChan (Tile.flagOnly_frame t f) :)
@[simp] theorem Tile.flagOnly_hb (t : Tile) (f : NFlags) : (t.flagOnly f).hb = t.hb := (congrArg Tile.hb (Tile.flagOnly_frame t f) :)
@[simp] theorem Tile.flagOnly_gwait (t : Tile) (f : NFlags) : (t.flagOnly f).gwait = t.gwait := (congrArg Tile.gwait (Tile.flagOnly_frame t f) :)
@[simp] theorem Tile.flagOnly_dev (t : Tile) (f : NFlags) : (t.flagOnly f).dev = t.dev := (congrArg Tile.dev (Tile.flagOnly_frame t f) :)
@[simp] theorem Tile.flagOnly_tfr (t : Tile) (f : NFlags) : (t.flagOnly f).tfr = t.tfr := (congrArg Tile.tfr (Tile.flagOnly_frame t f) :)
@[simp] theorem Tile.flagOnly_took (t : Tile) (f : NFlags) : (t.flagOnly f).took = t.took := (congrArg Tile.took (Tile.flagOnly_frame t f) :)

theorem Tile.nfMxe_frame (t : Tile) (n : Nat) : t.nfMxe n = { t with cnt := (t.nfMxe n).cnt, base := (t.nfMxe n).base } := by unfold Tile.nfMxe Tile.both; (repeat' split) <;> rfl

@[simp] theorem Tile.nfMxe_tsq (t : Tile) (n : Nat) : (t.nfMxe n).tsq = t.tsq := (congrArg Tile.tsq (Tile.nfMxe_frame t n) :)
@[simp] theorem Tile.nfMxe_tm (t : Tile) (n : Nat) : (t.nfMxe n).tm = t.tm := (congrArg Tile.tm (Tile.nfMxe_frame t n) :)
@[simp] theorem Tile.nfMxe_mem (t : Tile) (n : Nat) : (t.nfMxe n).mem = t.mem := (congrArg Tile.mem (Tile.nfMxe_frame t n) :)
@[simp] theorem Tile.nfMxe_bad (t : Tile) (n : Nat) : (t.nfMxe n).bad = t.bad := (congrArg Tile.bad (Tile.nfMxe_frame t n) :)
@[simp] theorem Tile.nfMxe_soft (t : Tile) (n : Nat) : (t.nfMxe n).soft = t.soft := (congrArg Tile.soft (Tile.nfMxe_frame t n) :)
@[simp] theorem Tile.nfMxe_cfg (t : Tile) (n : Nat) : (t.nfMxe n).cfg = t.cfg := (congrArg Tile.cfg (Tile.nfMxe_frame t n) :)
@[simp] theorem Tile.nfMxe_tab (t : Tile) (n : Nat) : (t.nfMxe n).tab = t.tab := (congrArg Tile.tab (Tile.nfMxe_frame t n) :)
@[simp] theorem Tile.nfMxe_ptrs (t : Tile) (n : Nat) : (t.nfMxe n).ptrs = t.ptrs := (congrArg Tile.ptrs (Tile.nfMxe_frame t n) :)
@[simp] theorem Tile.nfMxe_vs (t : Tile) (n : Nat) : (t.nfMxe n).vs = t.vs := (congrArg Tile.vs (Tile.nfMxe_frame t n) :)
@[simp] theorem Tile.nfMxe_mxe (t : Tile) (n : Nat) : (t.nfMxe n).mxe = t.mxe := (congrArg Tile.mxe (Tile.nfMxe_frame t n) :)
@[simp] theorem Tile.nfMxe_engs (t : Tile) (n : Nat) : (t.nfMxe n).engs = t.engs := (congrArg Tile.engs (Tile.nfMxe_frame t n) :)
@[simp] theorem Tile.nfMxe_rng (t : Tile) (n : Nat) : (t.nfMxe n).rng = t.rng := (congrArg Tile.rng (Tile.nfMxe_frame t n) :)
@[simp] theorem Tile.nfMxe_sched (t : Tile) (n : Nat) : (t.nfMxe n).sched = t.sched := (congrArg Tile.sched (Tile.nfMxe_frame t n) :)
@[simp] theorem Tile.nfMxe_pipe (t : Tile) (n : Nat) : (t.nfMxe n).pipe = t.pipe := (congrArg Tile.pipe (Tile.nfMxe_frame t n) :)
@[simp] theorem Tile.nfMxe_acts (t : Tile) (n : Nat) : (t.nfMxe n).acts = t.acts := (congrArg Tile.acts (Tile.nfMxe_frame t n) :)
@[simp] theorem Tile.nfMxe_lscs (t : Tile) (n : Nat) : (t.nfMxe n).lscs = t.lscs := (congrArg Tile.lscs (Tile.nfMxe_frame t n) :)
@[simp] theorem Tile.nfMxe_slots (t : Tile) (n : Nat) : (t.nfMxe n).slots = t.slots := (congrArg Tile.slots (Tile.nfMxe_frame t n) :)
@[simp] theorem Tile.nfMxe_rqs (t : Tile) (n : Nat) : (t.nfMxe n).rqs = t.rqs := (congrArg Tile.rqs (Tile.nfMxe_frame t n) :)
@[simp] theorem Tile.nfMxe_scs (t : Tile) (n : Nat) : (t.nfMxe n).scs = t.scs := (congrArg Tile.scs (Tile.nfMxe_frame t n) :)
@[simp] theorem Tile.nfMxe_badTab (t : Tile) (n : Nat) : (t.nfMxe n).badTab = t.badTab := (congrArg Tile.badTab (Tile.nfMxe_frame t n) :)
@[simp] theorem Tile.nfMxe_badAcc (t : Tile) (n : Nat) : (t.nfMxe n).badAcc = t.badAcc := (congrArg Tile.badAcc (Tile.nfMxe_frame t n) :)
@[simp] theorem Tile.nfMxe_almTbl (t : Tile) (n : Nat) : (t.nfMxe n).almTbl = t.almTbl := (congrArg Tile.almTbl (Tile.nfMxe_frame t n) :)
@[simp] theorem Tile.nfMxe_almChan (t : Tile) (n : Nat) : (t.nfMxe n).almChan = t.almChan := (congrArg Tile.almChan (Tile.nfMxe_frame t n) :)
@[simp] theorem Tile.nfMxe_hb (t : Tile) (n : Nat) : (t.nfMxe n).hb = t.hb := (congrArg Tile.hb (Tile.nfMxe_frame t n) :)
@[simp] theorem Tile.nfMxe_gwait (t : Tile) (n : Nat) : (t.nfMxe n).gwait = t.gwait := (congrArg Tile.gwait (Tile.nfMxe_frame t n) :)
@[simp] theorem Tile.nfMxe_dev (t : Tile) (n : Nat) : (t.nfMxe n).dev = t.dev := (congrArg Tile.dev (Tile.nfMxe_frame t n) :)
@[simp] theorem Tile.nfMxe_tfr (t : Tile) (n : Nat) : (t.nfMxe n).tfr = t.tfr := (congrArg Tile.tfr (Tile.nfMxe_frame t n) :)
@[simp] theorem Tile.nfMxe_took (t : Tile) (n : Nat) : (t.nfMxe n).took = t.took := (congrArg Tile.took (Tile.nfMxe_frame t n) :)

theorem Tile.nfVxe_frame (t : Tile) (n : Nat) : t.nfVxe n = { t with cnt := (t.nfVxe n).cnt, base := (t.nfVxe n).base } := by unfold Tile.nfVxe Tile.both; (repeat' split) <;> rfl

@[simp] theorem Tile.nfVxe_tsq (t : Tile) (n : Nat) : (t.nfVxe n).tsq = t.tsq := (congrArg Tile.tsq (Tile.nfVxe_frame t n) :)
@[simp] theorem Tile.nfVxe_tm (t : Tile) (n : Nat) : (t.nfVxe n).tm = t.tm := (congrArg Tile.tm (Tile.nfVxe_frame t n) :)
@[simp] theorem Tile.nfVxe_mem (t : Tile) (n : Nat) : (t.nfVxe n).mem = t.mem := (congrArg Tile.mem (Tile.nfVxe_frame t n) :)
@[simp] theorem Tile.nfVxe_bad (t : Tile) (n : Nat) : (t.nfVxe n).bad = t.bad := (congrArg Tile.bad (Tile.nfVxe_frame t n) :)
@[simp] theorem Tile.nfVxe_soft (t : Tile) (n : Nat) : (t.nfVxe n).soft = t.soft := (congrArg Tile.soft (Tile.nfVxe_frame t n) :)
@[simp] theorem Tile.nfVxe_cfg (t : Tile) (n : Nat) : (t.nfVxe n).cfg = t.cfg := (congrArg Tile.cfg (Tile.nfVxe_frame t n) :)
@[simp] theorem Tile.nfVxe_tab (t : Tile) (n : Nat) : (t.nfVxe n).tab = t.tab := (congrArg Tile.tab (Tile.nfVxe_frame t n) :)
@[simp] theorem Tile.nfVxe_ptrs (t : Tile) (n : Nat) : (t.nfVxe n).ptrs = t.ptrs := (congrArg Tile.ptrs (Tile.nfVxe_frame t n) :)
@[simp] theorem Tile.nfVxe_vs (t : Tile) (n : Nat) : (t.nfVxe n).vs = t.vs := (congrArg Tile.vs (Tile.nfVxe_frame t n) :)
@[simp] theorem Tile.nfVxe_mxe (t : Tile) (n : Nat) : (t.nfVxe n).mxe = t.mxe := (congrArg Tile.mxe (Tile.nfVxe_frame t n) :)
@[simp] theorem Tile.nfVxe_engs (t : Tile) (n : Nat) : (t.nfVxe n).engs = t.engs := (congrArg Tile.engs (Tile.nfVxe_frame t n) :)
@[simp] theorem Tile.nfVxe_rng (t : Tile) (n : Nat) : (t.nfVxe n).rng = t.rng := (congrArg Tile.rng (Tile.nfVxe_frame t n) :)
@[simp] theorem Tile.nfVxe_sched (t : Tile) (n : Nat) : (t.nfVxe n).sched = t.sched := (congrArg Tile.sched (Tile.nfVxe_frame t n) :)
@[simp] theorem Tile.nfVxe_pipe (t : Tile) (n : Nat) : (t.nfVxe n).pipe = t.pipe := (congrArg Tile.pipe (Tile.nfVxe_frame t n) :)
@[simp] theorem Tile.nfVxe_acts (t : Tile) (n : Nat) : (t.nfVxe n).acts = t.acts := (congrArg Tile.acts (Tile.nfVxe_frame t n) :)
@[simp] theorem Tile.nfVxe_lscs (t : Tile) (n : Nat) : (t.nfVxe n).lscs = t.lscs := (congrArg Tile.lscs (Tile.nfVxe_frame t n) :)
@[simp] theorem Tile.nfVxe_slots (t : Tile) (n : Nat) : (t.nfVxe n).slots = t.slots := (congrArg Tile.slots (Tile.nfVxe_frame t n) :)
@[simp] theorem Tile.nfVxe_rqs (t : Tile) (n : Nat) : (t.nfVxe n).rqs = t.rqs := (congrArg Tile.rqs (Tile.nfVxe_frame t n) :)
@[simp] theorem Tile.nfVxe_scs (t : Tile) (n : Nat) : (t.nfVxe n).scs = t.scs := (congrArg Tile.scs (Tile.nfVxe_frame t n) :)
@[simp] theorem Tile.nfVxe_badTab (t : Tile) (n : Nat) : (t.nfVxe n).badTab = t.badTab := (congrArg Tile.badTab (Tile.nfVxe_frame t n) :)
@[simp] theorem Tile.nfVxe_badAcc (t : Tile) (n : Nat) : (t.nfVxe n).badAcc = t.badAcc := (congrArg Tile.badAcc (Tile.nfVxe_frame t n) :)
@[simp] theorem Tile.nfVxe_almTbl (t : Tile) (n : Nat) : (t.nfVxe n).almTbl = t.almTbl := (congrArg Tile.almTbl (Tile.nfVxe_frame t n) :)
@[simp] theorem Tile.nfVxe_almChan (t : Tile) (n : Nat) : (t.nfVxe n).almChan = t.almChan := (congrArg Tile.almChan (Tile.nfVxe_frame t n) :)
@[simp] theorem Tile.nfVxe_hb (t : Tile) (n : Nat) : (t.nfVxe n).hb = t.hb := (congrArg Tile.hb (Tile.nfVxe_frame t n) :)
@[simp] theorem Tile.nfVxe_gwait (t : Tile) (n : Nat) : (t.nfVxe n).gwait = t.gwait := (congrArg Tile.gwait (Tile.nfVxe_frame t n) :)
@[simp] theorem Tile.nfVxe_dev (t : Tile) (n : Nat) : (t.nfVxe n).dev = t.dev := (congrArg Tile.dev (Tile.nfVxe_frame t n) :)
@[simp] theorem Tile.nfVxe_tfr (t : Tile) (n : Nat) : (t.nfVxe n).tfr = t.tfr := (congrArg Tile.tfr (Tile.nfVxe_frame t n) :)
@[simp] theorem Tile.nfVxe_took (t : Tile) (n : Nat) : (t.nfVxe n).took = t.took := (congrArg Tile.took (Tile.nfVxe_frame t n) :)

theorem Tile.eccSeen_frame (t : Tile) (k : Nat) (u : Bool) (n : Nat) : t.eccSeen k u n = { t with cnt := (t.eccSeen k u n).cnt, base := (t.eccSeen k u n).base } := by unfold Tile.eccSeen Tile.both; (repeat' split) <;> rfl

@[simp] theorem Tile.eccSeen_tsq (t : Tile) (k : Nat) (u : Bool) (n : Nat) : (t.eccSeen k u n).tsq = t.tsq := (congrArg Tile.tsq (Tile.eccSeen_frame t k u n) :)
@[simp] theorem Tile.eccSeen_tm (t : Tile) (k : Nat) (u : Bool) (n : Nat) : (t.eccSeen k u n).tm = t.tm := (congrArg Tile.tm (Tile.eccSeen_frame t k u n) :)
@[simp] theorem Tile.eccSeen_mem (t : Tile) (k : Nat) (u : Bool) (n : Nat) : (t.eccSeen k u n).mem = t.mem := (congrArg Tile.mem (Tile.eccSeen_frame t k u n) :)
@[simp] theorem Tile.eccSeen_bad (t : Tile) (k : Nat) (u : Bool) (n : Nat) : (t.eccSeen k u n).bad = t.bad := (congrArg Tile.bad (Tile.eccSeen_frame t k u n) :)
@[simp] theorem Tile.eccSeen_soft (t : Tile) (k : Nat) (u : Bool) (n : Nat) : (t.eccSeen k u n).soft = t.soft := (congrArg Tile.soft (Tile.eccSeen_frame t k u n) :)
@[simp] theorem Tile.eccSeen_cfg (t : Tile) (k : Nat) (u : Bool) (n : Nat) : (t.eccSeen k u n).cfg = t.cfg := (congrArg Tile.cfg (Tile.eccSeen_frame t k u n) :)
@[simp] theorem Tile.eccSeen_tab (t : Tile) (k : Nat) (u : Bool) (n : Nat) : (t.eccSeen k u n).tab = t.tab := (congrArg Tile.tab (Tile.eccSeen_frame t k u n) :)
@[simp] theorem Tile.eccSeen_ptrs (t : Tile) (k : Nat) (u : Bool) (n : Nat) : (t.eccSeen k u n).ptrs = t.ptrs := (congrArg Tile.ptrs (Tile.eccSeen_frame t k u n) :)
@[simp] theorem Tile.eccSeen_vs (t : Tile) (k : Nat) (u : Bool) (n : Nat) : (t.eccSeen k u n).vs = t.vs := (congrArg Tile.vs (Tile.eccSeen_frame t k u n) :)
@[simp] theorem Tile.eccSeen_mxe (t : Tile) (k : Nat) (u : Bool) (n : Nat) : (t.eccSeen k u n).mxe = t.mxe := (congrArg Tile.mxe (Tile.eccSeen_frame t k u n) :)
@[simp] theorem Tile.eccSeen_engs (t : Tile) (k : Nat) (u : Bool) (n : Nat) : (t.eccSeen k u n).engs = t.engs := (congrArg Tile.engs (Tile.eccSeen_frame t k u n) :)
@[simp] theorem Tile.eccSeen_rng (t : Tile) (k : Nat) (u : Bool) (n : Nat) : (t.eccSeen k u n).rng = t.rng := (congrArg Tile.rng (Tile.eccSeen_frame t k u n) :)
@[simp] theorem Tile.eccSeen_sched (t : Tile) (k : Nat) (u : Bool) (n : Nat) : (t.eccSeen k u n).sched = t.sched := (congrArg Tile.sched (Tile.eccSeen_frame t k u n) :)
@[simp] theorem Tile.eccSeen_pipe (t : Tile) (k : Nat) (u : Bool) (n : Nat) : (t.eccSeen k u n).pipe = t.pipe := (congrArg Tile.pipe (Tile.eccSeen_frame t k u n) :)
@[simp] theorem Tile.eccSeen_acts (t : Tile) (k : Nat) (u : Bool) (n : Nat) : (t.eccSeen k u n).acts = t.acts := (congrArg Tile.acts (Tile.eccSeen_frame t k u n) :)
@[simp] theorem Tile.eccSeen_lscs (t : Tile) (k : Nat) (u : Bool) (n : Nat) : (t.eccSeen k u n).lscs = t.lscs := (congrArg Tile.lscs (Tile.eccSeen_frame t k u n) :)
@[simp] theorem Tile.eccSeen_slots (t : Tile) (k : Nat) (u : Bool) (n : Nat) : (t.eccSeen k u n).slots = t.slots := (congrArg Tile.slots (Tile.eccSeen_frame t k u n) :)
@[simp] theorem Tile.eccSeen_rqs (t : Tile) (k : Nat) (u : Bool) (n : Nat) : (t.eccSeen k u n).rqs = t.rqs := (congrArg Tile.rqs (Tile.eccSeen_frame t k u n) :)
@[simp] theorem Tile.eccSeen_scs (t : Tile) (k : Nat) (u : Bool) (n : Nat) : (t.eccSeen k u n).scs = t.scs := (congrArg Tile.scs (Tile.eccSeen_frame t k u n) :)
@[simp] theorem Tile.eccSeen_badTab (t : Tile) (k : Nat) (u : Bool) (n : Nat) : (t.eccSeen k u n).badTab = t.badTab := (congrArg Tile.badTab (Tile.eccSeen_frame t k u n) :)
@[simp] theorem Tile.eccSeen_badAcc (t : Tile) (k : Nat) (u : Bool) (n : Nat) : (t.eccSeen k u n).badAcc = t.badAcc := (congrArg Tile.badAcc (Tile.eccSeen_frame t k u n) :)
@[simp] theorem Tile.eccSeen_almTbl (t : Tile) (k : Nat) (u : Bool) (n : Nat) : (t.eccSeen k u n).almTbl = t.almTbl := (congrArg Tile.almTbl (Tile.eccSeen_frame t k u n) :)
@[simp] theorem Tile.eccSeen_almChan (t : Tile) (k : Nat) (u : Bool) (n : Nat) : (t.eccSeen k u n).almChan = t.almChan := (congrArg Tile.almChan (Tile.eccSeen_frame t k u n) :)
@[simp] theorem Tile.eccSeen_hb (t : Tile) (k : Nat) (u : Bool) (n : Nat) : (t.eccSeen k u n).hb = t.hb := (congrArg Tile.hb (Tile.eccSeen_frame t k u n) :)
@[simp] theorem Tile.eccSeen_gwait (t : Tile) (k : Nat) (u : Bool) (n : Nat) : (t.eccSeen k u n).gwait = t.gwait := (congrArg Tile.gwait (Tile.eccSeen_frame t k u n) :)
@[simp] theorem Tile.eccSeen_dev (t : Tile) (k : Nat) (u : Bool) (n : Nat) : (t.eccSeen k u n).dev = t.dev := (congrArg Tile.dev (Tile.eccSeen_frame t k u n) :)
@[simp] theorem Tile.eccSeen_tfr (t : Tile) (k : Nat) (u : Bool) (n : Nat) : (t.eccSeen k u n).tfr = t.tfr := (congrArg Tile.tfr (Tile.eccSeen_frame t k u n) :)
@[simp] theorem Tile.eccSeen_took (t : Tile) (k : Nat) (u : Bool) (n : Nat) : (t.eccSeen k u n).took = t.took := (congrArg Tile.took (Tile.eccSeen_frame t k u n) :)

theorem Tile.seen_frame (t : Tile) (a n : Nat) : t.seen a n = { t with cnt := (t.seen a n).cnt, base := (t.seen a n).base } := by unfold Tile.seen; apply Tile.ext <;> simp

@[simp] theorem Tile.seen_tsq (t : Tile) (a n : Nat) : (t.seen a n).tsq = t.tsq := (congrArg Tile.tsq (Tile.seen_frame t a n) :)
@[simp] theorem Tile.seen_tm (t : Tile) (a n : Nat) : (t.seen a n).tm = t.tm := (congrArg Tile.tm (Tile.seen_frame t a n) :)
@[simp] theorem Tile.seen_mem (t : Tile) (a n : Nat) : (t.seen a n).mem = t.mem := (congrArg Tile.mem (Tile.seen_frame t a n) :)
@[simp] theorem Tile.seen_bad (t : Tile) (a n : Nat) : (t.seen a n).bad = t.bad := (congrArg Tile.bad (Tile.seen_frame t a n) :)
@[simp] theorem Tile.seen_soft (t : Tile) (a n : Nat) : (t.seen a n).soft = t.soft := (congrArg Tile.soft (Tile.seen_frame t a n) :)
@[simp] theorem Tile.seen_cfg (t : Tile) (a n : Nat) : (t.seen a n).cfg = t.cfg := (congrArg Tile.cfg (Tile.seen_frame t a n) :)
@[simp] theorem Tile.seen_tab (t : Tile) (a n : Nat) : (t.seen a n).tab = t.tab := (congrArg Tile.tab (Tile.seen_frame t a n) :)
@[simp] theorem Tile.seen_ptrs (t : Tile) (a n : Nat) : (t.seen a n).ptrs = t.ptrs := (congrArg Tile.ptrs (Tile.seen_frame t a n) :)
@[simp] theorem Tile.seen_vs (t : Tile) (a n : Nat) : (t.seen a n).vs = t.vs := (congrArg Tile.vs (Tile.seen_frame t a n) :)
@[simp] theorem Tile.seen_mxe (t : Tile) (a n : Nat) : (t.seen a n).mxe = t.mxe := (congrArg Tile.mxe (Tile.seen_frame t a n) :)
@[simp] theorem Tile.seen_engs (t : Tile) (a n : Nat) : (t.seen a n).engs = t.engs := (congrArg Tile.engs (Tile.seen_frame t a n) :)
@[simp] theorem Tile.seen_rng (t : Tile) (a n : Nat) : (t.seen a n).rng = t.rng := (congrArg Tile.rng (Tile.seen_frame t a n) :)
@[simp] theorem Tile.seen_sched (t : Tile) (a n : Nat) : (t.seen a n).sched = t.sched := (congrArg Tile.sched (Tile.seen_frame t a n) :)
@[simp] theorem Tile.seen_pipe (t : Tile) (a n : Nat) : (t.seen a n).pipe = t.pipe := (congrArg Tile.pipe (Tile.seen_frame t a n) :)
@[simp] theorem Tile.seen_acts (t : Tile) (a n : Nat) : (t.seen a n).acts = t.acts := (congrArg Tile.acts (Tile.seen_frame t a n) :)
@[simp] theorem Tile.seen_lscs (t : Tile) (a n : Nat) : (t.seen a n).lscs = t.lscs := (congrArg Tile.lscs (Tile.seen_frame t a n) :)
@[simp] theorem Tile.seen_slots (t : Tile) (a n : Nat) : (t.seen a n).slots = t.slots := (congrArg Tile.slots (Tile.seen_frame t a n) :)
@[simp] theorem Tile.seen_rqs (t : Tile) (a n : Nat) : (t.seen a n).rqs = t.rqs := (congrArg Tile.rqs (Tile.seen_frame t a n) :)
@[simp] theorem Tile.seen_scs (t : Tile) (a n : Nat) : (t.seen a n).scs = t.scs := (congrArg Tile.scs (Tile.seen_frame t a n) :)
@[simp] theorem Tile.seen_badTab (t : Tile) (a n : Nat) : (t.seen a n).badTab = t.badTab := (congrArg Tile.badTab (Tile.seen_frame t a n) :)
@[simp] theorem Tile.seen_badAcc (t : Tile) (a n : Nat) : (t.seen a n).badAcc = t.badAcc := (congrArg Tile.badAcc (Tile.seen_frame t a n) :)
@[simp] theorem Tile.seen_almTbl (t : Tile) (a n : Nat) : (t.seen a n).almTbl = t.almTbl := (congrArg Tile.almTbl (Tile.seen_frame t a n) :)
@[simp] theorem Tile.seen_almChan (t : Tile) (a n : Nat) : (t.seen a n).almChan = t.almChan := (congrArg Tile.almChan (Tile.seen_frame t a n) :)
@[simp] theorem Tile.seen_hb (t : Tile) (a n : Nat) : (t.seen a n).hb = t.hb := (congrArg Tile.hb (Tile.seen_frame t a n) :)
@[simp] theorem Tile.seen_gwait (t : Tile) (a n : Nat) : (t.seen a n).gwait = t.gwait := (congrArg Tile.gwait (Tile.seen_frame t a n) :)
@[simp] theorem Tile.seen_dev (t : Tile) (a n : Nat) : (t.seen a n).dev = t.dev := (congrArg Tile.dev (Tile.seen_frame t a n) :)
@[simp] theorem Tile.seen_tfr (t : Tile) (a n : Nat) : (t.seen a n).tfr = t.tfr := (congrArg Tile.tfr (Tile.seen_frame t a n) :)
@[simp] theorem Tile.seen_took (t : Tile) (a n : Nat) : (t.seen a n).took = t.took := (congrArg Tile.took (Tile.seen_frame t a n) :)

theorem Tile.signal_frame (t : Tile) (c a y : Nat) : t.signal c a y = { t with lscs := (t.signal c a y).lscs, tfr := (t.signal c a y).tfr, base := (t.signal c a y).base } := by unfold Tile.signal; dsimp only; split <;> (apply Tile.ext <;> simp)

@[simp] theorem Tile.signal_tsq (t : Tile) (c a y : Nat) : (t.signal c a y).tsq = t.tsq := (congrArg Tile.tsq (Tile.signal_frame t c a y) :)
@[simp] theorem Tile.signal_tm (t : Tile) (c a y : Nat) : (t.signal c a y).tm = t.tm := (congrArg Tile.tm (Tile.signal_frame t c a y) :)
@[simp] theorem Tile.signal_mem (t : Tile) (c a y : Nat) : (t.signal c a y).mem = t.mem := (congrArg Tile.mem (Tile.signal_frame t c a y) :)
@[simp] theorem Tile.signal_bad (t : Tile) (c a y : Nat) : (t.signal c a y).bad = t.bad := (congrArg Tile.bad (Tile.signal_frame t c a y) :)
@[simp] theorem Tile.signal_soft (t : Tile) (c a y : Nat) : (t.signal c a y).soft = t.soft := (congrArg Tile.soft (Tile.signal_frame t c a y) :)
@[simp] theorem Tile.signal_cfg (t : Tile) (c a y : Nat) : (t.signal c a y).cfg = t.cfg := (congrArg Tile.cfg (Tile.signal_frame t c a y) :)
@[simp] theorem Tile.signal_tab (t : Tile) (c a y : Nat) : (t.signal c a y).tab = t.tab := (congrArg Tile.tab (Tile.signal_frame t c a y) :)
@[simp] theorem Tile.signal_ptrs (t : Tile) (c a y : Nat) : (t.signal c a y).ptrs = t.ptrs := (congrArg Tile.ptrs (Tile.signal_frame t c a y) :)
@[simp] theorem Tile.signal_vs (t : Tile) (c a y : Nat) : (t.signal c a y).vs = t.vs := (congrArg Tile.vs (Tile.signal_frame t c a y) :)
@[simp] theorem Tile.signal_mxe (t : Tile) (c a y : Nat) : (t.signal c a y).mxe = t.mxe := (congrArg Tile.mxe (Tile.signal_frame t c a y) :)
@[simp] theorem Tile.signal_engs (t : Tile) (c a y : Nat) : (t.signal c a y).engs = t.engs := (congrArg Tile.engs (Tile.signal_frame t c a y) :)
@[simp] theorem Tile.signal_rng (t : Tile) (c a y : Nat) : (t.signal c a y).rng = t.rng := (congrArg Tile.rng (Tile.signal_frame t c a y) :)
@[simp] theorem Tile.signal_sched (t : Tile) (c a y : Nat) : (t.signal c a y).sched = t.sched := (congrArg Tile.sched (Tile.signal_frame t c a y) :)
@[simp] theorem Tile.signal_pipe (t : Tile) (c a y : Nat) : (t.signal c a y).pipe = t.pipe := (congrArg Tile.pipe (Tile.signal_frame t c a y) :)
@[simp] theorem Tile.signal_acts (t : Tile) (c a y : Nat) : (t.signal c a y).acts = t.acts := (congrArg Tile.acts (Tile.signal_frame t c a y) :)
@[simp] theorem Tile.signal_slots (t : Tile) (c a y : Nat) : (t.signal c a y).slots = t.slots := (congrArg Tile.slots (Tile.signal_frame t c a y) :)
@[simp] theorem Tile.signal_rqs (t : Tile) (c a y : Nat) : (t.signal c a y).rqs = t.rqs := (congrArg Tile.rqs (Tile.signal_frame t c a y) :)
@[simp] theorem Tile.signal_scs (t : Tile) (c a y : Nat) : (t.signal c a y).scs = t.scs := (congrArg Tile.scs (Tile.signal_frame t c a y) :)
@[simp] theorem Tile.signal_badTab (t : Tile) (c a y : Nat) : (t.signal c a y).badTab = t.badTab := (congrArg Tile.badTab (Tile.signal_frame t c a y) :)
@[simp] theorem Tile.signal_badAcc (t : Tile) (c a y : Nat) : (t.signal c a y).badAcc = t.badAcc := (congrArg Tile.badAcc (Tile.signal_frame t c a y) :)
@[simp] theorem Tile.signal_almTbl (t : Tile) (c a y : Nat) : (t.signal c a y).almTbl = t.almTbl := (congrArg Tile.almTbl (Tile.signal_frame t c a y) :)
@[simp] theorem Tile.signal_almChan (t : Tile) (c a y : Nat) : (t.signal c a y).almChan = t.almChan := (congrArg Tile.almChan (Tile.signal_frame t c a y) :)
@[simp] theorem Tile.signal_hb (t : Tile) (c a y : Nat) : (t.signal c a y).hb = t.hb := (congrArg Tile.hb (Tile.signal_frame t c a y) :)
@[simp] theorem Tile.signal_gwait (t : Tile) (c a y : Nat) : (t.signal c a y).gwait = t.gwait := (congrArg Tile.gwait (Tile.signal_frame t c a y) :)
@[simp] theorem Tile.signal_dev (t : Tile) (c a y : Nat) : (t.signal c a y).dev = t.dev := (congrArg Tile.dev (Tile.signal_frame t c a y) :)
@[simp] theorem Tile.signal_cnt (t : Tile) (c a y : Nat) : (t.signal c a y).cnt = t.cnt := (congrArg Tile.cnt (Tile.signal_frame t c a y) :)
@[simp] theorem Tile.signal_took (t : Tile) (c a y : Nat) : (t.signal c a y).took = t.took := (congrArg Tile.took (Tile.signal_frame t c a y) :)

theorem Tile.debit_frame (t : Tile) (c p y : Nat) : t.debit c p y = { t with lscs := (t.debit c p y).lscs, tfr := (t.debit c p y).tfr, base := (t.debit c p y).base } := by unfold Tile.debit; dsimp only; split <;> (apply Tile.ext <;> simp)

@[simp] theorem Tile.debit_tsq (t : Tile) (c p y : Nat) : (t.debit c p y).tsq = t.tsq := (congrArg Tile.tsq (Tile.debit_frame t c p y) :)
@[simp] theorem Tile.debit_tm (t : Tile) (c p y : Nat) : (t.debit c p y).tm = t.tm := (congrArg Tile.tm (Tile.debit_frame t c p y) :)
@[simp] theorem Tile.debit_mem (t : Tile) (c p y : Nat) : (t.debit c p y).mem = t.mem := (congrArg Tile.mem (Tile.debit_frame t c p y) :)
@[simp] theorem Tile.debit_bad (t : Tile) (c p y : Nat) : (t.debit c p y).bad = t.bad := (congrArg Tile.bad (Tile.debit_frame t c p y) :)
@[simp] theorem Tile.debit_soft (t : Tile) (c p y : Nat) : (t.debit c p y).soft = t.soft := (congrArg Tile.soft (Tile.debit_frame t c p y) :)
@[simp] theorem Tile.debit_cfg (t : Tile) (c p y : Nat) : (t.debit c p y).cfg = t.cfg := (congrArg Tile.cfg (Tile.debit_frame t c p y) :)
@[simp] theorem Tile.debit_tab (t : Tile) (c p y : Nat) : (t.debit c p y).tab = t.tab := (congrArg Tile.tab (Tile.debit_frame t c p y) :)
@[simp] theorem Tile.debit_ptrs (t : Tile) (c p y : Nat) : (t.debit c p y).ptrs = t.ptrs := (congrArg Tile.ptrs (Tile.debit_frame t c p y) :)
@[simp] theorem Tile.debit_vs (t : Tile) (c p y : Nat) : (t.debit c p y).vs = t.vs := (congrArg Tile.vs (Tile.debit_frame t c p y) :)
@[simp] theorem Tile.debit_mxe (t : Tile) (c p y : Nat) : (t.debit c p y).mxe = t.mxe := (congrArg Tile.mxe (Tile.debit_frame t c p y) :)
@[simp] theorem Tile.debit_engs (t : Tile) (c p y : Nat) : (t.debit c p y).engs = t.engs := (congrArg Tile.engs (Tile.debit_frame t c p y) :)
@[simp] theorem Tile.debit_rng (t : Tile) (c p y : Nat) : (t.debit c p y).rng = t.rng := (congrArg Tile.rng (Tile.debit_frame t c p y) :)
@[simp] theorem Tile.debit_sched (t : Tile) (c p y : Nat) : (t.debit c p y).sched = t.sched := (congrArg Tile.sched (Tile.debit_frame t c p y) :)
@[simp] theorem Tile.debit_pipe (t : Tile) (c p y : Nat) : (t.debit c p y).pipe = t.pipe := (congrArg Tile.pipe (Tile.debit_frame t c p y) :)
@[simp] theorem Tile.debit_acts (t : Tile) (c p y : Nat) : (t.debit c p y).acts = t.acts := (congrArg Tile.acts (Tile.debit_frame t c p y) :)
@[simp] theorem Tile.debit_slots (t : Tile) (c p y : Nat) : (t.debit c p y).slots = t.slots := (congrArg Tile.slots (Tile.debit_frame t c p y) :)
@[simp] theorem Tile.debit_rqs (t : Tile) (c p y : Nat) : (t.debit c p y).rqs = t.rqs := (congrArg Tile.rqs (Tile.debit_frame t c p y) :)
@[simp] theorem Tile.debit_scs (t : Tile) (c p y : Nat) : (t.debit c p y).scs = t.scs := (congrArg Tile.scs (Tile.debit_frame t c p y) :)
@[simp] theorem Tile.debit_badTab (t : Tile) (c p y : Nat) : (t.debit c p y).badTab = t.badTab := (congrArg Tile.badTab (Tile.debit_frame t c p y) :)
@[simp] theorem Tile.debit_badAcc (t : Tile) (c p y : Nat) : (t.debit c p y).badAcc = t.badAcc := (congrArg Tile.badAcc (Tile.debit_frame t c p y) :)
@[simp] theorem Tile.debit_almTbl (t : Tile) (c p y : Nat) : (t.debit c p y).almTbl = t.almTbl := (congrArg Tile.almTbl (Tile.debit_frame t c p y) :)
@[simp] theorem Tile.debit_almChan (t : Tile) (c p y : Nat) : (t.debit c p y).almChan = t.almChan := (congrArg Tile.almChan (Tile.debit_frame t c p y) :)
@[simp] theorem Tile.debit_hb (t : Tile) (c p y : Nat) : (t.debit c p y).hb = t.hb := (congrArg Tile.hb (Tile.debit_frame t c p y) :)
@[simp] theorem Tile.debit_gwait (t : Tile) (c p y : Nat) : (t.debit c p y).gwait = t.gwait := (congrArg Tile.gwait (Tile.debit_frame t c p y) :)
@[simp] theorem Tile.debit_dev (t : Tile) (c p y : Nat) : (t.debit c p y).dev = t.dev := (congrArg Tile.dev (Tile.debit_frame t c p y) :)
@[simp] theorem Tile.debit_cnt (t : Tile) (c p y : Nat) : (t.debit c p y).cnt = t.cnt := (congrArg Tile.cnt (Tile.debit_frame t c p y) :)
@[simp] theorem Tile.debit_took (t : Tile) (c p y : Nat) : (t.debit c p y).took = t.took := (congrArg Tile.took (Tile.debit_frame t c p y) :)

theorem Tile.setMxe_frame (t : Tile) (m : Mxe) : t.setMxe m = { t with mxe := (t.setMxe m).mxe } := rfl

@[simp] theorem Tile.setMxe_tsq (t : Tile) (m : Mxe) : (t.setMxe m).tsq = t.tsq := rfl
@[simp] theorem Tile.setMxe_tm (t : Tile) (m : Mxe) : (t.setMxe m).tm = t.tm := rfl
@[simp] theorem Tile.setMxe_mem (t : Tile) (m : Mxe) : (t.setMxe m).mem = t.mem := rfl
@[simp] theorem Tile.setMxe_bad (t : Tile) (m : Mxe) : (t.setMxe m).bad = t.bad := rfl
@[simp] theorem Tile.setMxe_soft (t : Tile) (m : Mxe) : (t.setMxe m).soft = t.soft := rfl
@[simp] theorem Tile.setMxe_cfg (t : Tile) (m : Mxe) : (t.setMxe m).cfg = t.cfg := rfl
@[simp] theorem Tile.setMxe_tab (t : Tile) (m : Mxe) : (t.setMxe m).tab = t.tab := rfl
@[simp] theorem Tile.setMxe_ptrs (t : Tile) (m : Mxe) : (t.setMxe m).ptrs = t.ptrs := rfl
@[simp] theorem Tile.setMxe_vs (t : Tile) (m : Mxe) : (t.setMxe m).vs = t.vs := rfl
@[simp] theorem Tile.setMxe_engs (t : Tile) (m : Mxe) : (t.setMxe m).engs = t.engs := rfl
@[simp] theorem Tile.setMxe_rng (t : Tile) (m : Mxe) : (t.setMxe m).rng = t.rng := rfl
@[simp] theorem Tile.setMxe_sched (t : Tile) (m : Mxe) : (t.setMxe m).sched = t.sched := rfl
@[simp] theorem Tile.setMxe_pipe (t : Tile) (m : Mxe) : (t.setMxe m).pipe = t.pipe := rfl
@[simp] theorem Tile.setMxe_acts (t : Tile) (m : Mxe) : (t.setMxe m).acts = t.acts := rfl
@[simp] theorem Tile.setMxe_base (t : Tile) (m : Mxe) : (t.setMxe m).base = t.base := rfl
@[simp] theorem Tile.setMxe_lscs (t : Tile) (m : Mxe) : (t.setMxe m).lscs = t.lscs := rfl
@[simp] theorem Tile.setMxe_slots (t : Tile) (m : Mxe) : (t.setMxe m).slots = t.slots := rfl
@[simp] theorem Tile.setMxe_rqs (t : Tile) (m : Mxe) : (t.setMxe m).rqs = t.rqs := rfl
@[simp] theorem Tile.setMxe_scs (t : Tile) (m : Mxe) : (t.setMxe m).scs = t.scs := rfl
@[simp] theorem Tile.setMxe_badTab (t : Tile) (m : Mxe) : (t.setMxe m).badTab = t.badTab := rfl
@[simp] theorem Tile.setMxe_badAcc (t : Tile) (m : Mxe) : (t.setMxe m).badAcc = t.badAcc := rfl
@[simp] theorem Tile.setMxe_almTbl (t : Tile) (m : Mxe) : (t.setMxe m).almTbl = t.almTbl := rfl
@[simp] theorem Tile.setMxe_almChan (t : Tile) (m : Mxe) : (t.setMxe m).almChan = t.almChan := rfl
@[simp] theorem Tile.setMxe_hb (t : Tile) (m : Mxe) : (t.setMxe m).hb = t.hb := rfl
@[simp] theorem Tile.setMxe_gwait (t : Tile) (m : Mxe) : (t.setMxe m).gwait = t.gwait := rfl
@[simp] theorem Tile.setMxe_dev (t : Tile) (m : Mxe) : (t.setMxe m).dev = t.dev := rfl
@[simp] theorem Tile.setMxe_tfr (t : Tile) (m : Mxe) : (t.setMxe m).tfr = t.tfr := rfl
@[simp] theorem Tile.setMxe_cnt (t : Tile) (m : Mxe) : (t.setMxe m).cnt = t.cnt := rfl
@[simp] theorem Tile.setMxe_took (t : Tile) (m : Mxe) : (t.setMxe m).took = t.took := rfl

theorem Tile.setCnt_frame (t : Tile) (c : TCnt) : t.setCnt c = { t with cnt := (t.setCnt c).cnt } := rfl

@[simp] theorem Tile.setCnt_tsq (t : Tile) (c : TCnt) : (t.setCnt c).tsq = t.tsq := rfl
@[simp] theorem Tile.setCnt_tm (t : Tile) (c : TCnt) : (t.setCnt c).tm = t.tm := rfl
@[simp] theorem Tile.setCnt_mem (t : Tile) (c : TCnt) : (t.setCnt c).mem = t.mem := rfl
@[simp] theorem Tile.setCnt_bad (t : Tile) (c : TCnt) : (t.setCnt c).bad = t.bad := rfl
@[simp] theorem Tile.setCnt_soft (t : Tile) (c : TCnt) : (t.setCnt c).soft = t.soft := rfl
@[simp] theorem Tile.setCnt_cfg (t : Tile) (c : TCnt) : (t.setCnt c).cfg = t.cfg := rfl
@[simp] theorem Tile.setCnt_tab (t : Tile) (c : TCnt) : (t.setCnt c).tab = t.tab := rfl
@[simp] theorem Tile.setCnt_ptrs (t : Tile) (c : TCnt) : (t.setCnt c).ptrs = t.ptrs := rfl
@[simp] theorem Tile.setCnt_vs (t : Tile) (c : TCnt) : (t.setCnt c).vs = t.vs := rfl
@[simp] theorem Tile.setCnt_mxe (t : Tile) (c : TCnt) : (t.setCnt c).mxe = t.mxe := rfl
@[simp] theorem Tile.setCnt_engs (t : Tile) (c : TCnt) : (t.setCnt c).engs = t.engs := rfl
@[simp] theorem Tile.setCnt_rng (t : Tile) (c : TCnt) : (t.setCnt c).rng = t.rng := rfl
@[simp] theorem Tile.setCnt_sched (t : Tile) (c : TCnt) : (t.setCnt c).sched = t.sched := rfl
@[simp] theorem Tile.setCnt_pipe (t : Tile) (c : TCnt) : (t.setCnt c).pipe = t.pipe := rfl
@[simp] theorem Tile.setCnt_acts (t : Tile) (c : TCnt) : (t.setCnt c).acts = t.acts := rfl
@[simp] theorem Tile.setCnt_base (t : Tile) (c : TCnt) : (t.setCnt c).base = t.base := rfl
@[simp] theorem Tile.setCnt_lscs (t : Tile) (c : TCnt) : (t.setCnt c).lscs = t.lscs := rfl
@[simp] theorem Tile.setCnt_slots (t : Tile) (c : TCnt) : (t.setCnt c).slots = t.slots := rfl
@[simp] theorem Tile.setCnt_rqs (t : Tile) (c : TCnt) : (t.setCnt c).rqs = t.rqs := rfl
@[simp] theorem Tile.setCnt_scs (t : Tile) (c : TCnt) : (t.setCnt c).scs = t.scs := rfl
@[simp] theorem Tile.setCnt_badTab (t : Tile) (c : TCnt) : (t.setCnt c).badTab = t.badTab := rfl
@[simp] theorem Tile.setCnt_badAcc (t : Tile) (c : TCnt) : (t.setCnt c).badAcc = t.badAcc := rfl
@[simp] theorem Tile.setCnt_almTbl (t : Tile) (c : TCnt) : (t.setCnt c).almTbl = t.almTbl := rfl
@[simp] theorem Tile.setCnt_almChan (t : Tile) (c : TCnt) : (t.setCnt c).almChan = t.almChan := rfl
@[simp] theorem Tile.setCnt_hb (t : Tile) (c : TCnt) : (t.setCnt c).hb = t.hb := rfl
@[simp] theorem Tile.setCnt_gwait (t : Tile) (c : TCnt) : (t.setCnt c).gwait = t.gwait := rfl
@[simp] theorem Tile.setCnt_dev (t : Tile) (c : TCnt) : (t.setCnt c).dev = t.dev := rfl
@[simp] theorem Tile.setCnt_tfr (t : Tile) (c : TCnt) : (t.setCnt c).tfr = t.tfr := rfl
@[simp] theorem Tile.setCnt_took (t : Tile) (c : TCnt) : (t.setCnt c).took = t.took := rfl

theorem Tile.setSched_frame (t : Tile) (l : List Sched) : t.setSched l = { t with sched := (t.setSched l).sched } := rfl

@[simp] theorem Tile.setSched_tsq (t : Tile) (l : List Sched) : (t.setSched l).tsq = t.tsq := rfl
@[simp] theorem Tile.setSched_tm (t : Tile) (l : List Sched) : (t.setSched l).tm = t.tm := rfl
@[simp] theorem Tile.setSched_mem (t : Tile) (l : List Sched) : (t.setSched l).mem = t.mem := rfl
@[simp] theorem Tile.setSched_bad (t : Tile) (l : List Sched) : (t.setSched l).bad = t.bad := rfl
@[simp] theorem Tile.setSched_soft (t : Tile) (l : List Sched) : (t.setSched l).soft = t.soft := rfl
@[simp] theorem Tile.setSched_cfg (t : Tile) (l : List Sched) : (t.setSched l).cfg = t.cfg := rfl
@[simp] theorem Tile.setSched_tab (t : Tile) (l : List Sched) : (t.setSched l).tab = t.tab := rfl
@[simp] theorem Tile.setSched_ptrs (t : Tile) (l : List Sched) : (t.setSched l).ptrs = t.ptrs := rfl
@[simp] theorem Tile.setSched_vs (t : Tile) (l : List Sched) : (t.setSched l).vs = t.vs := rfl
@[simp] theorem Tile.setSched_mxe (t : Tile) (l : List Sched) : (t.setSched l).mxe = t.mxe := rfl
@[simp] theorem Tile.setSched_engs (t : Tile) (l : List Sched) : (t.setSched l).engs = t.engs := rfl
@[simp] theorem Tile.setSched_rng (t : Tile) (l : List Sched) : (t.setSched l).rng = t.rng := rfl
@[simp] theorem Tile.setSched_pipe (t : Tile) (l : List Sched) : (t.setSched l).pipe = t.pipe := rfl
@[simp] theorem Tile.setSched_acts (t : Tile) (l : List Sched) : (t.setSched l).acts = t.acts := rfl
@[simp] theorem Tile.setSched_base (t : Tile) (l : List Sched) : (t.setSched l).base = t.base := rfl
@[simp] theorem Tile.setSched_lscs (t : Tile) (l : List Sched) : (t.setSched l).lscs = t.lscs := rfl
@[simp] theorem Tile.setSched_slots (t : Tile) (l : List Sched) : (t.setSched l).slots = t.slots := rfl
@[simp] theorem Tile.setSched_rqs (t : Tile) (l : List Sched) : (t.setSched l).rqs = t.rqs := rfl
@[simp] theorem Tile.setSched_scs (t : Tile) (l : List Sched) : (t.setSched l).scs = t.scs := rfl
@[simp] theorem Tile.setSched_badTab (t : Tile) (l : List Sched) : (t.setSched l).badTab = t.badTab := rfl
@[simp] theorem Tile.setSched_badAcc (t : Tile) (l : List Sched) : (t.setSched l).badAcc = t.badAcc := rfl
@[simp] theorem Tile.setSched_almTbl (t : Tile) (l : List Sched) : (t.setSched l).almTbl = t.almTbl := rfl
@[simp] theorem Tile.setSched_almChan (t : Tile) (l : List Sched) : (t.setSched l).almChan = t.almChan := rfl
@[simp] theorem Tile.setSched_hb (t : Tile) (l : List Sched) : (t.setSched l).hb = t.hb := rfl
@[simp] theorem Tile.setSched_gwait (t : Tile) (l : List Sched) : (t.setSched l).gwait = t.gwait := rfl
@[simp] theorem Tile.setSched_dev (t : Tile) (l : List Sched) : (t.setSched l).dev = t.dev := rfl
@[simp] theorem Tile.setSched_tfr (t : Tile) (l : List Sched) : (t.setSched l).tfr = t.tfr := rfl
@[simp] theorem Tile.setSched_cnt (t : Tile) (l : List Sched) : (t.setSched l).cnt = t.cnt := rfl
@[simp] theorem Tile.setSched_took (t : Tile) (l : List Sched) : (t.setSched l).took = t.took := rfl

theorem Tile.poke_frame (t : Tile) (a : Nat) (ws : List Word) : t.poke a ws = { t with mem := (t.poke a ws).mem, bad := (t.poke a ws).bad, soft := (t.poke a ws).soft } := rfl

@[simp] theorem Tile.poke_tsq (t : Tile) (a : Nat) (ws : List Word) : (t.poke a ws).tsq = t.tsq := rfl
@[simp] theorem Tile.poke_tm (t : Tile) (a : Nat) (ws : List Word) : (t.poke a ws).tm = t.tm := rfl
@[simp] theorem Tile.poke_cfg (t : Tile) (a : Nat) (ws : List Word) : (t.poke a ws).cfg = t.cfg := rfl
@[simp] theorem Tile.poke_tab (t : Tile) (a : Nat) (ws : List Word) : (t.poke a ws).tab = t.tab := rfl
@[simp] theorem Tile.poke_ptrs (t : Tile) (a : Nat) (ws : List Word) : (t.poke a ws).ptrs = t.ptrs := rfl
@[simp] theorem Tile.poke_vs (t : Tile) (a : Nat) (ws : List Word) : (t.poke a ws).vs = t.vs := rfl
@[simp] theorem Tile.poke_mxe (t : Tile) (a : Nat) (ws : List Word) : (t.poke a ws).mxe = t.mxe := rfl
@[simp] theorem Tile.poke_engs (t : Tile) (a : Nat) (ws : List Word) : (t.poke a ws).engs = t.engs := rfl
@[simp] theorem Tile.poke_rng (t : Tile) (a : Nat) (ws : List Word) : (t.poke a ws).rng = t.rng := rfl
@[simp] theorem Tile.poke_sched (t : Tile) (a : Nat) (ws : List Word) : (t.poke a ws).sched = t.sched := rfl
@[simp] theorem Tile.poke_pipe (t : Tile) (a : Nat) (ws : List Word) : (t.poke a ws).pipe = t.pipe := rfl
@[simp] theorem Tile.poke_acts (t : Tile) (a : Nat) (ws : List Word) : (t.poke a ws).acts = t.acts := rfl
@[simp] theorem Tile.poke_base (t : Tile) (a : Nat) (ws : List Word) : (t.poke a ws).base = t.base := rfl
@[simp] theorem Tile.poke_lscs (t : Tile) (a : Nat) (ws : List Word) : (t.poke a ws).lscs = t.lscs := rfl
@[simp] theorem Tile.poke_slots (t : Tile) (a : Nat) (ws : List Word) : (t.poke a ws).slots = t.slots := rfl
@[simp] theorem Tile.poke_rqs (t : Tile) (a : Nat) (ws : List Word) : (t.poke a ws).rqs = t.rqs := rfl
@[simp] theorem Tile.poke_scs (t : Tile) (a : Nat) (ws : List Word) : (t.poke a ws).scs = t.scs := rfl
@[simp] theorem Tile.poke_badTab (t : Tile) (a : Nat) (ws : List Word) : (t.poke a ws).badTab = t.badTab := rfl
@[simp] theorem Tile.poke_badAcc (t : Tile) (a : Nat) (ws : List Word) : (t.poke a ws).badAcc = t.badAcc := rfl
@[simp] theorem Tile.poke_almTbl (t : Tile) (a : Nat) (ws : List Word) : (t.poke a ws).almTbl = t.almTbl := rfl
@[simp] theorem Tile.poke_almChan (t : Tile) (a : Nat) (ws : List Word) : (t.poke a ws).almChan = t.almChan := rfl
@[simp] theorem Tile.poke_hb (t : Tile) (a : Nat) (ws : List Word) : (t.poke a ws).hb = t.hb := rfl
@[simp] theorem Tile.poke_gwait (t : Tile) (a : Nat) (ws : List Word) : (t.poke a ws).gwait = t.gwait := rfl
@[simp] theorem Tile.poke_dev (t : Tile) (a : Nat) (ws : List Word) : (t.poke a ws).dev = t.dev := rfl
@[simp] theorem Tile.poke_tfr (t : Tile) (a : Nat) (ws : List Word) : (t.poke a ws).tfr = t.tfr := rfl
@[simp] theorem Tile.poke_cnt (t : Tile) (a : Nat) (ws : List Word) : (t.poke a ws).cnt = t.cnt := rfl
@[simp] theorem Tile.poke_took (t : Tile) (a : Nat) (ws : List Word) : (t.poke a ws).took = t.took := rfl

theorem Tile.putLine_frame (t : Tile) (c k : Nat) (ws : List Word) : t.putLine c k ws = { t with pipe := (t.putLine c k ws).pipe } := rfl

@[simp] theorem Tile.putLine_tsq (t : Tile) (c k : Nat) (ws : List Word) : (t.putLine c k ws).tsq = t.tsq := rfl
@[simp] theorem Tile.putLine_tm (t : Tile) (c k : Nat) (ws : List Word) : (t.putLine c k ws).tm = t.tm := rfl
@[simp] theorem Tile.putLine_mem (t : Tile) (c k : Nat) (ws : List Word) : (t.putLine c k ws).mem = t.mem := rfl
@[simp] theorem Tile.putLine_bad (t : Tile) (c k : Nat) (ws : List Word) : (t.putLine c k ws).bad = t.bad := rfl
@[simp] theorem Tile.putLine_soft (t : Tile) (c k : Nat) (ws : List Word) : (t.putLine c k ws).soft = t.soft := rfl
@[simp] theorem Tile.putLine_cfg (t : Tile) (c k : Nat) (ws : List Word) : (t.putLine c k ws).cfg = t.cfg := rfl
@[simp] theorem Tile.putLine_tab (t : Tile) (c k : Nat) (ws : List Word) : (t.putLine c k ws).tab = t.tab := rfl
@[simp] theorem Tile.putLine_ptrs (t : Tile) (c k : Nat) (ws : List Word) : (t.putLine c k ws).ptrs = t.ptrs := rfl
@[simp] theorem Tile.putLine_vs (t : Tile) (c k : Nat) (ws : List Word) : (t.putLine c k ws).vs = t.vs := rfl
@[simp] theorem Tile.putLine_mxe (t : Tile) (c k : Nat) (ws : List Word) : (t.putLine c k ws).mxe = t.mxe := rfl
@[simp] theorem Tile.putLine_engs (t : Tile) (c k : Nat) (ws : List Word) : (t.putLine c k ws).engs = t.engs := rfl
@[simp] theorem Tile.putLine_rng (t : Tile) (c k : Nat) (ws : List Word) : (t.putLine c k ws).rng = t.rng := rfl
@[simp] theorem Tile.putLine_sched (t : Tile) (c k : Nat) (ws : List Word) : (t.putLine c k ws).sched = t.sched := rfl
@[simp] theorem Tile.putLine_acts (t : Tile) (c k : Nat) (ws : List Word) : (t.putLine c k ws).acts = t.acts := rfl
@[simp] theorem Tile.putLine_base (t : Tile) (c k : Nat) (ws : List Word) : (t.putLine c k ws).base = t.base := rfl
@[simp] theorem Tile.putLine_lscs (t : Tile) (c k : Nat) (ws : List Word) : (t.putLine c k ws).lscs = t.lscs := rfl
@[simp] theorem Tile.putLine_slots (t : Tile) (c k : Nat) (ws : List Word) : (t.putLine c k ws).slots = t.slots := rfl
@[simp] theorem Tile.putLine_rqs (t : Tile) (c k : Nat) (ws : List Word) : (t.putLine c k ws).rqs = t.rqs := rfl
@[simp] theorem Tile.putLine_scs (t : Tile) (c k : Nat) (ws : List Word) : (t.putLine c k ws).scs = t.scs := rfl
@[simp] theorem Tile.putLine_badTab (t : Tile) (c k : Nat) (ws : List Word) : (t.putLine c k ws).badTab = t.badTab := rfl
@[simp] theorem Tile.putLine_badAcc (t : Tile) (c k : Nat) (ws : List Word) : (t.putLine c k ws).badAcc = t.badAcc := rfl
@[simp] theorem Tile.putLine_almTbl (t : Tile) (c k : Nat) (ws : List Word) : (t.putLine c k ws).almTbl = t.almTbl := rfl
@[simp] theorem Tile.putLine_almChan (t : Tile) (c k : Nat) (ws : List Word) : (t.putLine c k ws).almChan = t.almChan := rfl
@[simp] theorem Tile.putLine_hb (t : Tile) (c k : Nat) (ws : List Word) : (t.putLine c k ws).hb = t.hb := rfl
@[simp] theorem Tile.putLine_gwait (t : Tile) (c k : Nat) (ws : List Word) : (t.putLine c k ws).gwait = t.gwait := rfl
@[simp] theorem Tile.putLine_dev (t : Tile) (c k : Nat) (ws : List Word) : (t.putLine c k ws).dev = t.dev := rfl
@[simp] theorem Tile.putLine_tfr (t : Tile) (c k : Nat) (ws : List Word) : (t.putLine c k ws).tfr = t.tfr := rfl
@[simp] theorem Tile.putLine_cnt (t : Tile) (c k : Nat) (ws : List Word) : (t.putLine c k ws).cnt = t.cnt := rfl
@[simp] theorem Tile.putLine_took (t : Tile) (c k : Nat) (ws : List Word) : (t.putLine c k ws).took = t.took := rfl

theorem Tile.putVals_frame (t : Tile) (c k : Nat) (xs : List Nat) : t.putVals c k xs = { t with pipe := (t.putVals c k xs).pipe } := rfl

@[simp] theorem Tile.putVals_tsq (t : Tile) (c k : Nat) (xs : List Nat) : (t.putVals c k xs).tsq = t.tsq := rfl
@[simp] theorem Tile.putVals_tm (t : Tile) (c k : Nat) (xs : List Nat) : (t.putVals c k xs).tm = t.tm := rfl
@[simp] theorem Tile.putVals_mem (t : Tile) (c k : Nat) (xs : List Nat) : (t.putVals c k xs).mem = t.mem := rfl
@[simp] theorem Tile.putVals_bad (t : Tile) (c k : Nat) (xs : List Nat) : (t.putVals c k xs).bad = t.bad := rfl
@[simp] theorem Tile.putVals_soft (t : Tile) (c k : Nat) (xs : List Nat) : (t.putVals c k xs).soft = t.soft := rfl
@[simp] theorem Tile.putVals_cfg (t : Tile) (c k : Nat) (xs : List Nat) : (t.putVals c k xs).cfg = t.cfg := rfl
@[simp] theorem Tile.putVals_tab (t : Tile) (c k : Nat) (xs : List Nat) : (t.putVals c k xs).tab = t.tab := rfl
@[simp] theorem Tile.putVals_ptrs (t : Tile) (c k : Nat) (xs : List Nat) : (t.putVals c k xs).ptrs = t.ptrs := rfl
@[simp] theorem Tile.putVals_vs (t : Tile) (c k : Nat) (xs : List Nat) : (t.putVals c k xs).vs = t.vs := rfl
@[simp] theorem Tile.putVals_mxe (t : Tile) (c k : Nat) (xs : List Nat) : (t.putVals c k xs).mxe = t.mxe := rfl
@[simp] theorem Tile.putVals_engs (t : Tile) (c k : Nat) (xs : List Nat) : (t.putVals c k xs).engs = t.engs := rfl
@[simp] theorem Tile.putVals_rng (t : Tile) (c k : Nat) (xs : List Nat) : (t.putVals c k xs).rng = t.rng := rfl
@[simp] theorem Tile.putVals_sched (t : Tile) (c k : Nat) (xs : List Nat) : (t.putVals c k xs).sched = t.sched := rfl
@[simp] theorem Tile.putVals_acts (t : Tile) (c k : Nat) (xs : List Nat) : (t.putVals c k xs).acts = t.acts := rfl
@[simp] theorem Tile.putVals_base (t : Tile) (c k : Nat) (xs : List Nat) : (t.putVals c k xs).base = t.base := rfl
@[simp] theorem Tile.putVals_lscs (t : Tile) (c k : Nat) (xs : List Nat) : (t.putVals c k xs).lscs = t.lscs := rfl
@[simp] theorem Tile.putVals_slots (t : Tile) (c k : Nat) (xs : List Nat) : (t.putVals c k xs).slots = t.slots := rfl
@[simp] theorem Tile.putVals_rqs (t : Tile) (c k : Nat) (xs : List Nat) : (t.putVals c k xs).rqs = t.rqs := rfl
@[simp] theorem Tile.putVals_scs (t : Tile) (c k : Nat) (xs : List Nat) : (t.putVals c k xs).scs = t.scs := rfl
@[simp] theorem Tile.putVals_badTab (t : Tile) (c k : Nat) (xs : List Nat) : (t.putVals c k xs).badTab = t.badTab := rfl
@[simp] theorem Tile.putVals_badAcc (t : Tile) (c k : Nat) (xs : List Nat) : (t.putVals c k xs).badAcc = t.badAcc := rfl
@[simp] theorem Tile.putVals_almTbl (t : Tile) (c k : Nat) (xs : List Nat) : (t.putVals c k xs).almTbl = t.almTbl := rfl
@[simp] theorem Tile.putVals_almChan (t : Tile) (c k : Nat) (xs : List Nat) : (t.putVals c k xs).almChan = t.almChan := rfl
@[simp] theorem Tile.putVals_hb (t : Tile) (c k : Nat) (xs : List Nat) : (t.putVals c k xs).hb = t.hb := rfl
@[simp] theorem Tile.putVals_gwait (t : Tile) (c k : Nat) (xs : List Nat) : (t.putVals c k xs).gwait = t.gwait := rfl
@[simp] theorem Tile.putVals_dev (t : Tile) (c k : Nat) (xs : List Nat) : (t.putVals c k xs).dev = t.dev := rfl
@[simp] theorem Tile.putVals_tfr (t : Tile) (c k : Nat) (xs : List Nat) : (t.putVals c k xs).tfr = t.tfr := rfl
@[simp] theorem Tile.putVals_cnt (t : Tile) (c k : Nat) (xs : List Nat) : (t.putVals c k xs).cnt = t.cnt := rfl
@[simp] theorem Tile.putVals_took (t : Tile) (c k : Nat) (xs : List Nat) : (t.putVals c k xs).took = t.took := rfl

theorem Tile.holdBank_frame (t : Tile) (w : Who) (y a : Nat) : t.holdBank w y a = { t with sched := (t.holdBank w y a).sched } := rfl

@[simp] theorem Tile.holdBank_tsq (t : Tile) (w : Who) (y a : Nat) : (t.holdBank w y a).tsq = t.tsq := rfl
@[simp] theorem Tile.holdBank_tm (t : Tile) (w : Who) (y a : Nat) : (t.holdBank w y a).tm = t.tm := rfl
@[simp] theorem Tile.holdBank_mem (t : Tile) (w : Who) (y a : Nat) : (t.holdBank w y a).mem = t.mem := rfl
@[simp] theorem Tile.holdBank_bad (t : Tile) (w : Who) (y a : Nat) : (t.holdBank w y a).bad = t.bad := rfl
@[simp] theorem Tile.holdBank_soft (t : Tile) (w : Who) (y a : Nat) : (t.holdBank w y a).soft = t.soft := rfl
@[simp] theorem Tile.holdBank_cfg (t : Tile) (w : Who) (y a : Nat) : (t.holdBank w y a).cfg = t.cfg := rfl
@[simp] theorem Tile.holdBank_tab (t : Tile) (w : Who) (y a : Nat) : (t.holdBank w y a).tab = t.tab := rfl
@[simp] theorem Tile.holdBank_ptrs (t : Tile) (w : Who) (y a : Nat) : (t.holdBank w y a).ptrs = t.ptrs := rfl
@[simp] theorem Tile.holdBank_vs (t : Tile) (w : Who) (y a : Nat) : (t.holdBank w y a).vs = t.vs := rfl
@[simp] theorem Tile.holdBank_mxe (t : Tile) (w : Who) (y a : Nat) : (t.holdBank w y a).mxe = t.mxe := rfl
@[simp] theorem Tile.holdBank_engs (t : Tile) (w : Who) (y a : Nat) : (t.holdBank w y a).engs = t.engs := rfl
@[simp] theorem Tile.holdBank_rng (t : Tile) (w : Who) (y a : Nat) : (t.holdBank w y a).rng = t.rng := rfl
@[simp] theorem Tile.holdBank_pipe (t : Tile) (w : Who) (y a : Nat) : (t.holdBank w y a).pipe = t.pipe := rfl
@[simp] theorem Tile.holdBank_acts (t : Tile) (w : Who) (y a : Nat) : (t.holdBank w y a).acts = t.acts := rfl
@[simp] theorem Tile.holdBank_base (t : Tile) (w : Who) (y a : Nat) : (t.holdBank w y a).base = t.base := rfl
@[simp] theorem Tile.holdBank_lscs (t : Tile) (w : Who) (y a : Nat) : (t.holdBank w y a).lscs = t.lscs := rfl
@[simp] theorem Tile.holdBank_slots (t : Tile) (w : Who) (y a : Nat) : (t.holdBank w y a).slots = t.slots := rfl
@[simp] theorem Tile.holdBank_rqs (t : Tile) (w : Who) (y a : Nat) : (t.holdBank w y a).rqs = t.rqs := rfl
@[simp] theorem Tile.holdBank_scs (t : Tile) (w : Who) (y a : Nat) : (t.holdBank w y a).scs = t.scs := rfl
@[simp] theorem Tile.holdBank_badTab (t : Tile) (w : Who) (y a : Nat) : (t.holdBank w y a).badTab = t.badTab := rfl
@[simp] theorem Tile.holdBank_badAcc (t : Tile) (w : Who) (y a : Nat) : (t.holdBank w y a).badAcc = t.badAcc := rfl
@[simp] theorem Tile.holdBank_almTbl (t : Tile) (w : Who) (y a : Nat) : (t.holdBank w y a).almTbl = t.almTbl := rfl
@[simp] theorem Tile.holdBank_almChan (t : Tile) (w : Who) (y a : Nat) : (t.holdBank w y a).almChan = t.almChan := rfl
@[simp] theorem Tile.holdBank_hb (t : Tile) (w : Who) (y a : Nat) : (t.holdBank w y a).hb = t.hb := rfl
@[simp] theorem Tile.holdBank_gwait (t : Tile) (w : Who) (y a : Nat) : (t.holdBank w y a).gwait = t.gwait := rfl
@[simp] theorem Tile.holdBank_dev (t : Tile) (w : Who) (y a : Nat) : (t.holdBank w y a).dev = t.dev := rfl
@[simp] theorem Tile.holdBank_tfr (t : Tile) (w : Who) (y a : Nat) : (t.holdBank w y a).tfr = t.tfr := rfl
@[simp] theorem Tile.holdBank_cnt (t : Tile) (w : Who) (y a : Nat) : (t.holdBank w y a).cnt = t.cnt := rfl
@[simp] theorem Tile.holdBank_took (t : Tile) (w : Who) (y a : Nat) : (t.holdBank w y a).took = t.took := rfl

theorem Tile.draws_frame (t : Tile) (e : Env) (y k n : Nat) : (t.draws e y k n).2 = { t with rng := ((t.draws e y k n).2).rng } := rfl

@[simp] theorem Tile.draws_tsq (t : Tile) (e : Env) (y k n : Nat) : ((t.draws e y k n).2).tsq = t.tsq := rfl
@[simp] theorem Tile.draws_tm (t : Tile) (e : Env) (y k n : Nat) : ((t.draws e y k n).2).tm = t.tm := rfl
@[simp] theorem Tile.draws_mem (t : Tile) (e : Env) (y k n : Nat) : ((t.draws e y k n).2).mem = t.mem := rfl
@[simp] theorem Tile.draws_bad (t : Tile) (e : Env) (y k n : Nat) : ((t.draws e y k n).2).bad = t.bad := rfl
@[simp] theorem Tile.draws_soft (t : Tile) (e : Env) (y k n : Nat) : ((t.draws e y k n).2).soft = t.soft := rfl
@[simp] theorem Tile.draws_cfg (t : Tile) (e : Env) (y k n : Nat) : ((t.draws e y k n).2).cfg = t.cfg := rfl
@[simp] theorem Tile.draws_tab (t : Tile) (e : Env) (y k n : Nat) : ((t.draws e y k n).2).tab = t.tab := rfl
@[simp] theorem Tile.draws_ptrs (t : Tile) (e : Env) (y k n : Nat) : ((t.draws e y k n).2).ptrs = t.ptrs := rfl
@[simp] theorem Tile.draws_vs (t : Tile) (e : Env) (y k n : Nat) : ((t.draws e y k n).2).vs = t.vs := rfl
@[simp] theorem Tile.draws_mxe (t : Tile) (e : Env) (y k n : Nat) : ((t.draws e y k n).2).mxe = t.mxe := rfl
@[simp] theorem Tile.draws_engs (t : Tile) (e : Env) (y k n : Nat) : ((t.draws e y k n).2).engs = t.engs := rfl
@[simp] theorem Tile.draws_sched (t : Tile) (e : Env) (y k n : Nat) : ((t.draws e y k n).2).sched = t.sched := rfl
@[simp] theorem Tile.draws_pipe (t : Tile) (e : Env) (y k n : Nat) : ((t.draws e y k n).2).pipe = t.pipe := rfl
@[simp] theorem Tile.draws_acts (t : Tile) (e : Env) (y k n : Nat) : ((t.draws e y k n).2).acts = t.acts := rfl
@[simp] theorem Tile.draws_base (t : Tile) (e : Env) (y k n : Nat) : ((t.draws e y k n).2).base = t.base := rfl
@[simp] theorem Tile.draws_lscs (t : Tile) (e : Env) (y k n : Nat) : ((t.draws e y k n).2).lscs = t.lscs := rfl
@[simp] theorem Tile.draws_slots (t : Tile) (e : Env) (y k n : Nat) : ((t.draws e y k n).2).slots = t.slots := rfl
@[simp] theorem Tile.draws_rqs (t : Tile) (e : Env) (y k n : Nat) : ((t.draws e y k n).2).rqs = t.rqs := rfl
@[simp] theorem Tile.draws_scs (t : Tile) (e : Env) (y k n : Nat) : ((t.draws e y k n).2).scs = t.scs := rfl
@[simp] theorem Tile.draws_badTab (t : Tile) (e : Env) (y k n : Nat) : ((t.draws e y k n).2).badTab = t.badTab := rfl
@[simp] theorem Tile.draws_badAcc (t : Tile) (e : Env) (y k n : Nat) : ((t.draws e y k n).2).badAcc = t.badAcc := rfl
@[simp] theorem Tile.draws_almTbl (t : Tile) (e : Env) (y k n : Nat) : ((t.draws e y k n).2).almTbl = t.almTbl := rfl
@[simp] theorem Tile.draws_almChan (t : Tile) (e : Env) (y k n : Nat) : ((t.draws e y k n).2).almChan = t.almChan := rfl
@[simp] theorem Tile.draws_hb (t : Tile) (e : Env) (y k n : Nat) : ((t.draws e y k n).2).hb = t.hb := rfl
@[simp] theorem Tile.draws_gwait (t : Tile) (e : Env) (y k n : Nat) : ((t.draws e y k n).2).gwait = t.gwait := rfl
@[simp] theorem Tile.draws_dev (t : Tile) (e : Env) (y k n : Nat) : ((t.draws e y k n).2).dev = t.dev := rfl
@[simp] theorem Tile.draws_tfr (t : Tile) (e : Env) (y k n : Nat) : ((t.draws e y k n).2).tfr = t.tfr := rfl
@[simp] theorem Tile.draws_cnt (t : Tile) (e : Env) (y k n : Nat) : ((t.draws e y k n).2).cnt = t.cnt := rfl
@[simp] theorem Tile.draws_took (t : Tile) (e : Env) (y k n : Nat) : ((t.draws e y k n).2).took = t.took := rfl

theorem Tile.storeDraws_frame (t : Tile) (e : Env) (p : Ptr) (y k n : Nat) (c : Bool) : (t.storeDraws e p y k n c).2 = { t with rng := ((t.storeDraws e p y k n c).2).rng } := by unfold Tile.storeDraws; simp only; split <;> rfl

@[simp] theorem Tile.storeDraws_tsq (t : Tile) (e : Env) (p : Ptr) (y k n : Nat) (c : Bool) : ((t.storeDraws e p y k n c).2).tsq = t.tsq := (congrArg Tile.tsq (Tile.storeDraws_frame t e p y k n c) :)
@[simp] theorem Tile.storeDraws_tm (t : Tile) (e : Env) (p : Ptr) (y k n : Nat) (c : Bool) : ((t.storeDraws e p y k n c).2).tm = t.tm := (congrArg Tile.tm (Tile.storeDraws_frame t e p y k n c) :)
@[simp] theorem Tile.storeDraws_mem (t : Tile) (e : Env) (p : Ptr) (y k n : Nat) (c : Bool) : ((t.storeDraws e p y k n c).2).mem = t.mem := (congrArg Tile.mem (Tile.storeDraws_frame t e p y k n c) :)
@[simp] theorem Tile.storeDraws_bad (t : Tile) (e : Env) (p : Ptr) (y k n : Nat) (c : Bool) : ((t.storeDraws e p y k n c).2).bad = t.bad := (congrArg Tile.bad (Tile.storeDraws_frame t e p y k n c) :)
@[simp] theorem Tile.storeDraws_soft (t : Tile) (e : Env) (p : Ptr) (y k n : Nat) (c : Bool) : ((t.storeDraws e p y k n c).2).soft = t.soft := (congrArg Tile.soft (Tile.storeDraws_frame t e p y k n c) :)
@[simp] theorem Tile.storeDraws_cfg (t : Tile) (e : Env) (p : Ptr) (y k n : Nat) (c : Bool) : ((t.storeDraws e p y k n c).2).cfg = t.cfg := (congrArg Tile.cfg (Tile.storeDraws_frame t e p y k n c) :)
@[simp] theorem Tile.storeDraws_tab (t : Tile) (e : Env) (p : Ptr) (y k n : Nat) (c : Bool) : ((t.storeDraws e p y k n c).2).tab = t.tab := (congrArg Tile.tab (Tile.storeDraws_frame t e p y k n c) :)
@[simp] theorem Tile.storeDraws_ptrs (t : Tile) (e : Env) (p : Ptr) (y k n : Nat) (c : Bool) : ((t.storeDraws e p y k n c).2).ptrs = t.ptrs := (congrArg Tile.ptrs (Tile.storeDraws_frame t e p y k n c) :)
@[simp] theorem Tile.storeDraws_vs (t : Tile) (e : Env) (p : Ptr) (y k n : Nat) (c : Bool) : ((t.storeDraws e p y k n c).2).vs = t.vs := (congrArg Tile.vs (Tile.storeDraws_frame t e p y k n c) :)
@[simp] theorem Tile.storeDraws_mxe (t : Tile) (e : Env) (p : Ptr) (y k n : Nat) (c : Bool) : ((t.storeDraws e p y k n c).2).mxe = t.mxe := (congrArg Tile.mxe (Tile.storeDraws_frame t e p y k n c) :)
@[simp] theorem Tile.storeDraws_engs (t : Tile) (e : Env) (p : Ptr) (y k n : Nat) (c : Bool) : ((t.storeDraws e p y k n c).2).engs = t.engs := (congrArg Tile.engs (Tile.storeDraws_frame t e p y k n c) :)
@[simp] theorem Tile.storeDraws_sched (t : Tile) (e : Env) (p : Ptr) (y k n : Nat) (c : Bool) : ((t.storeDraws e p y k n c).2).sched = t.sched := (congrArg Tile.sched (Tile.storeDraws_frame t e p y k n c) :)
@[simp] theorem Tile.storeDraws_pipe (t : Tile) (e : Env) (p : Ptr) (y k n : Nat) (c : Bool) : ((t.storeDraws e p y k n c).2).pipe = t.pipe := (congrArg Tile.pipe (Tile.storeDraws_frame t e p y k n c) :)
@[simp] theorem Tile.storeDraws_acts (t : Tile) (e : Env) (p : Ptr) (y k n : Nat) (c : Bool) : ((t.storeDraws e p y k n c).2).acts = t.acts := (congrArg Tile.acts (Tile.storeDraws_frame t e p y k n c) :)
@[simp] theorem Tile.storeDraws_base (t : Tile) (e : Env) (p : Ptr) (y k n : Nat) (c : Bool) : ((t.storeDraws e p y k n c).2).base = t.base := (congrArg Tile.base (Tile.storeDraws_frame t e p y k n c) :)
@[simp] theorem Tile.storeDraws_lscs (t : Tile) (e : Env) (p : Ptr) (y k n : Nat) (c : Bool) : ((t.storeDraws e p y k n c).2).lscs = t.lscs := (congrArg Tile.lscs (Tile.storeDraws_frame t e p y k n c) :)
@[simp] theorem Tile.storeDraws_slots (t : Tile) (e : Env) (p : Ptr) (y k n : Nat) (c : Bool) : ((t.storeDraws e p y k n c).2).slots = t.slots := (congrArg Tile.slots (Tile.storeDraws_frame t e p y k n c) :)
@[simp] theorem Tile.storeDraws_rqs (t : Tile) (e : Env) (p : Ptr) (y k n : Nat) (c : Bool) : ((t.storeDraws e p y k n c).2).rqs = t.rqs := (congrArg Tile.rqs (Tile.storeDraws_frame t e p y k n c) :)
@[simp] theorem Tile.storeDraws_scs (t : Tile) (e : Env) (p : Ptr) (y k n : Nat) (c : Bool) : ((t.storeDraws e p y k n c).2).scs = t.scs := (congrArg Tile.scs (Tile.storeDraws_frame t e p y k n c) :)
@[simp] theorem Tile.storeDraws_badTab (t : Tile) (e : Env) (p : Ptr) (y k n : Nat) (c : Bool) : ((t.storeDraws e p y k n c).2).badTab = t.badTab := (congrArg Tile.badTab (Tile.storeDraws_frame t e p y k n c) :)
@[simp] theorem Tile.storeDraws_badAcc (t : Tile) (e : Env) (p : Ptr) (y k n : Nat) (c : Bool) : ((t.storeDraws e p y k n c).2).badAcc = t.badAcc := (congrArg Tile.badAcc (Tile.storeDraws_frame t e p y k n c) :)
@[simp] theorem Tile.storeDraws_almTbl (t : Tile) (e : Env) (p : Ptr) (y k n : Nat) (c : Bool) : ((t.storeDraws e p y k n c).2).almTbl = t.almTbl := (congrArg Tile.almTbl (Tile.storeDraws_frame t e p y k n c) :)
@[simp] theorem Tile.storeDraws_almChan (t : Tile) (e : Env) (p : Ptr) (y k n : Nat) (c : Bool) : ((t.storeDraws e p y k n c).2).almChan = t.almChan := (congrArg Tile.almChan (Tile.storeDraws_frame t e p y k n c) :)
@[simp] theorem Tile.storeDraws_hb (t : Tile) (e : Env) (p : Ptr) (y k n : Nat) (c : Bool) : ((t.storeDraws e p y k n c).2).hb = t.hb := (congrArg Tile.hb (Tile.storeDraws_frame t e p y k n c) :)
@[simp] theorem Tile.storeDraws_gwait (t : Tile) (e : Env) (p : Ptr) (y k n : Nat) (c : Bool) : ((t.storeDraws e p y k n c).2).gwait = t.gwait := (congrArg Tile.gwait (Tile.storeDraws_frame t e p y k n c) :)
@[simp] theorem Tile.storeDraws_dev (t : Tile) (e : Env) (p : Ptr) (y k n : Nat) (c : Bool) : ((t.storeDraws e p y k n c).2).dev = t.dev := (congrArg Tile.dev (Tile.storeDraws_frame t e p y k n c) :)
@[simp] theorem Tile.storeDraws_tfr (t : Tile) (e : Env) (p : Ptr) (y k n : Nat) (c : Bool) : ((t.storeDraws e p y k n c).2).tfr = t.tfr := (congrArg Tile.tfr (Tile.storeDraws_frame t e p y k n c) :)
@[simp] theorem Tile.storeDraws_cnt (t : Tile) (e : Env) (p : Ptr) (y k n : Nat) (c : Bool) : ((t.storeDraws e p y k n c).2).cnt = t.cnt := (congrArg Tile.cnt (Tile.storeDraws_frame t e p y k n c) :)
@[simp] theorem Tile.storeDraws_took (t : Tile) (e : Env) (p : Ptr) (y k n : Nat) (c : Bool) : ((t.storeDraws e p y k n c).2).took = t.took := (congrArg Tile.took (Tile.storeDraws_frame t e p y k n c) :)

theorem Tile.setPtr_frame (t : Tile) (e k : Nat) (p : Ptr) : t.setPtr e k p = { t with ptrs := (t.setPtr e k p).ptrs } := rfl

@[simp] theorem Tile.setPtr_tsq (t : Tile) (e k : Nat) (p : Ptr) : (t.setPtr e k p).tsq = t.tsq := rfl
@[simp] theorem Tile.setPtr_tm (t : Tile) (e k : Nat) (p : Ptr) : (t.setPtr e k p).tm = t.tm := rfl
@[simp] theorem Tile.setPtr_mem (t : Tile) (e k : Nat) (p : Ptr) : (t.setPtr e k p).mem = t.mem := rfl
@[simp] theorem Tile.setPtr_bad (t : Tile) (e k : Nat) (p : Ptr) : (t.setPtr e k p).bad = t.bad := rfl
@[simp] theorem Tile.setPtr_soft (t : Tile) (e k : Nat) (p : Ptr) : (t.setPtr e k p).soft = t.soft := rfl
@[simp] theorem Tile.setPtr_cfg (t : Tile) (e k : Nat) (p : Ptr) : (t.setPtr e k p).cfg = t.cfg := rfl
@[simp] theorem Tile.setPtr_tab (t : Tile) (e k : Nat) (p : Ptr) : (t.setPtr e k p).tab = t.tab := rfl
@[simp] theorem Tile.setPtr_vs (t : Tile) (e k : Nat) (p : Ptr) : (t.setPtr e k p).vs = t.vs := rfl
@[simp] theorem Tile.setPtr_mxe (t : Tile) (e k : Nat) (p : Ptr) : (t.setPtr e k p).mxe = t.mxe := rfl
@[simp] theorem Tile.setPtr_engs (t : Tile) (e k : Nat) (p : Ptr) : (t.setPtr e k p).engs = t.engs := rfl
@[simp] theorem Tile.setPtr_rng (t : Tile) (e k : Nat) (p : Ptr) : (t.setPtr e k p).rng = t.rng := rfl
@[simp] theorem Tile.setPtr_sched (t : Tile) (e k : Nat) (p : Ptr) : (t.setPtr e k p).sched = t.sched := rfl
@[simp] theorem Tile.setPtr_pipe (t : Tile) (e k : Nat) (p : Ptr) : (t.setPtr e k p).pipe = t.pipe := rfl
@[simp] theorem Tile.setPtr_acts (t : Tile) (e k : Nat) (p : Ptr) : (t.setPtr e k p).acts = t.acts := rfl
@[simp] theorem Tile.setPtr_base (t : Tile) (e k : Nat) (p : Ptr) : (t.setPtr e k p).base = t.base := rfl
@[simp] theorem Tile.setPtr_lscs (t : Tile) (e k : Nat) (p : Ptr) : (t.setPtr e k p).lscs = t.lscs := rfl
@[simp] theorem Tile.setPtr_slots (t : Tile) (e k : Nat) (p : Ptr) : (t.setPtr e k p).slots = t.slots := rfl
@[simp] theorem Tile.setPtr_rqs (t : Tile) (e k : Nat) (p : Ptr) : (t.setPtr e k p).rqs = t.rqs := rfl
@[simp] theorem Tile.setPtr_scs (t : Tile) (e k : Nat) (p : Ptr) : (t.setPtr e k p).scs = t.scs := rfl
@[simp] theorem Tile.setPtr_badTab (t : Tile) (e k : Nat) (p : Ptr) : (t.setPtr e k p).badTab = t.badTab := rfl
@[simp] theorem Tile.setPtr_badAcc (t : Tile) (e k : Nat) (p : Ptr) : (t.setPtr e k p).badAcc = t.badAcc := rfl
@[simp] theorem Tile.setPtr_almTbl (t : Tile) (e k : Nat) (p : Ptr) : (t.setPtr e k p).almTbl = t.almTbl := rfl
@[simp] theorem Tile.setPtr_almChan (t : Tile) (e k : Nat) (p : Ptr) : (t.setPtr e k p).almChan = t.almChan := rfl
@[simp] theorem Tile.setPtr_hb (t : Tile) (e k : Nat) (p : Ptr) : (t.setPtr e k p).hb = t.hb := rfl
@[simp] theorem Tile.setPtr_gwait (t : Tile) (e k : Nat) (p : Ptr) : (t.setPtr e k p).gwait = t.gwait := rfl
@[simp] theorem Tile.setPtr_dev (t : Tile) (e k : Nat) (p : Ptr) : (t.setPtr e k p).dev = t.dev := rfl
@[simp] theorem Tile.setPtr_tfr (t : Tile) (e k : Nat) (p : Ptr) : (t.setPtr e k p).tfr = t.tfr := rfl
@[simp] theorem Tile.setPtr_cnt (t : Tile) (e k : Nat) (p : Ptr) : (t.setPtr e k p).cnt = t.cnt := rfl
@[simp] theorem Tile.setPtr_took (t : Tile) (e k : Nat) (p : Ptr) : (t.setPtr e k p).took = t.took := rfl

theorem Tile.advPtr_frame (t : Tile) (a : Bool) (e k n : Nat) : t.advPtr a e k n = { t with ptrs := (t.advPtr a e k n).ptrs } := by unfold Tile.advPtr; split <;> rfl

@[simp] theorem Tile.advPtr_tsq (t : Tile) (a : Bool) (e k n : Nat) : (t.advPtr a e k n).tsq = t.tsq := (congrArg Tile.tsq (Tile.advPtr_frame t a e k n) :)
@[simp] theorem Tile.advPtr_tm (t : Tile) (a : Bool) (e k n : Nat) : (t.advPtr a e k n).tm = t.tm := (congrArg Tile.tm (Tile.advPtr_frame t a e k n) :)
@[simp] theorem Tile.advPtr_mem (t : Tile) (a : Bool) (e k n : Nat) : (t.advPtr a e k n).mem = t.mem := (congrArg Tile.mem (Tile.advPtr_frame t a e k n) :)
@[simp] theorem Tile.advPtr_bad (t : Tile) (a : Bool) (e k n : Nat) : (t.advPtr a e k n).bad = t.bad := (congrArg Tile.bad (Tile.advPtr_frame t a e k n) :)
@[simp] theorem Tile.advPtr_soft (t : Tile) (a : Bool) (e k n : Nat) : (t.advPtr a e k n).soft = t.soft := (congrArg Tile.soft (Tile.advPtr_frame t a e k n) :)
@[simp] theorem Tile.advPtr_cfg (t : Tile) (a : Bool) (e k n : Nat) : (t.advPtr a e k n).cfg = t.cfg := (congrArg Tile.cfg (Tile.advPtr_frame t a e k n) :)
@[simp] theorem Tile.advPtr_tab (t : Tile) (a : Bool) (e k n : Nat) : (t.advPtr a e k n).tab = t.tab := (congrArg Tile.tab (Tile.advPtr_frame t a e k n) :)
@[simp] theorem Tile.advPtr_vs (t : Tile) (a : Bool) (e k n : Nat) : (t.advPtr a e k n).vs = t.vs := (congrArg Tile.vs (Tile.advPtr_frame t a e k n) :)
@[simp] theorem Tile.advPtr_mxe (t : Tile) (a : Bool) (e k n : Nat) : (t.advPtr a e k n).mxe = t.mxe := (congrArg Tile.mxe (Tile.advPtr_frame t a e k n) :)
@[simp] theorem Tile.advPtr_engs (t : Tile) (a : Bool) (e k n : Nat) : (t.advPtr a e k n).engs = t.engs := (congrArg Tile.engs (Tile.advPtr_frame t a e k n) :)
@[simp] theorem Tile.advPtr_rng (t : Tile) (a : Bool) (e k n : Nat) : (t.advPtr a e k n).rng = t.rng := (congrArg Tile.rng (Tile.advPtr_frame t a e k n) :)
@[simp] theorem Tile.advPtr_sched (t : Tile) (a : Bool) (e k n : Nat) : (t.advPtr a e k n).sched = t.sched := (congrArg Tile.sched (Tile.advPtr_frame t a e k n) :)
@[simp] theorem Tile.advPtr_pipe (t : Tile) (a : Bool) (e k n : Nat) : (t.advPtr a e k n).pipe = t.pipe := (congrArg Tile.pipe (Tile.advPtr_frame t a e k n) :)
@[simp] theorem Tile.advPtr_acts (t : Tile) (a : Bool) (e k n : Nat) : (t.advPtr a e k n).acts = t.acts := (congrArg Tile.acts (Tile.advPtr_frame t a e k n) :)
@[simp] theorem Tile.advPtr_base (t : Tile) (a : Bool) (e k n : Nat) : (t.advPtr a e k n).base = t.base := (congrArg Tile.base (Tile.advPtr_frame t a e k n) :)
@[simp] theorem Tile.advPtr_lscs (t : Tile) (a : Bool) (e k n : Nat) : (t.advPtr a e k n).lscs = t.lscs := (congrArg Tile.lscs (Tile.advPtr_frame t a e k n) :)
@[simp] theorem Tile.advPtr_slots (t : Tile) (a : Bool) (e k n : Nat) : (t.advPtr a e k n).slots = t.slots := (congrArg Tile.slots (Tile.advPtr_frame t a e k n) :)
@[simp] theorem Tile.advPtr_rqs (t : Tile) (a : Bool) (e k n : Nat) : (t.advPtr a e k n).rqs = t.rqs := (congrArg Tile.rqs (Tile.advPtr_frame t a e k n) :)
@[simp] theorem Tile.advPtr_scs (t : Tile) (a : Bool) (e k n : Nat) : (t.advPtr a e k n).scs = t.scs := (congrArg Tile.scs (Tile.advPtr_frame t a e k n) :)
@[simp] theorem Tile.advPtr_badTab (t : Tile) (a : Bool) (e k n : Nat) : (t.advPtr a e k n).badTab = t.badTab := (congrArg Tile.badTab (Tile.advPtr_frame t a e k n) :)
@[simp] theorem Tile.advPtr_badAcc (t : Tile) (a : Bool) (e k n : Nat) : (t.advPtr a e k n).badAcc = t.badAcc := (congrArg Tile.badAcc (Tile.advPtr_frame t a e k n) :)
@[simp] theorem Tile.advPtr_almTbl (t : Tile) (a : Bool) (e k n : Nat) : (t.advPtr a e k n).almTbl = t.almTbl := (congrArg Tile.almTbl (Tile.advPtr_frame t a e k n) :)
@[simp] theorem Tile.advPtr_almChan (t : Tile) (a : Bool) (e k n : Nat) : (t.advPtr a e k n).almChan = t.almChan := (congrArg Tile.almChan (Tile.advPtr_frame t a e k n) :)
@[simp] theorem Tile.advPtr_hb (t : Tile) (a : Bool) (e k n : Nat) : (t.advPtr a e k n).hb = t.hb := (congrArg Tile.hb (Tile.advPtr_frame t a e k n) :)
@[simp] theorem Tile.advPtr_gwait (t : Tile) (a : Bool) (e k n : Nat) : (t.advPtr a e k n).gwait = t.gwait := (congrArg Tile.gwait (Tile.advPtr_frame t a e k n) :)
@[simp] theorem Tile.advPtr_dev (t : Tile) (a : Bool) (e k n : Nat) : (t.advPtr a e k n).dev = t.dev := (congrArg Tile.dev (Tile.advPtr_frame t a e k n) :)
@[simp] theorem Tile.advPtr_tfr (t : Tile) (a : Bool) (e k n : Nat) : (t.advPtr a e k n).tfr = t.tfr := (congrArg Tile.tfr (Tile.advPtr_frame t a e k n) :)
@[simp] theorem Tile.advPtr_cnt (t : Tile) (a : Bool) (e k n : Nat) : (t.advPtr a e k n).cnt = t.cnt := (congrArg Tile.cnt (Tile.advPtr_frame t a e k n) :)
@[simp] theorem Tile.advPtr_took (t : Tile) (a : Bool) (e k n : Nat) : (t.advPtr a e k n).took = t.took := (congrArg Tile.took (Tile.advPtr_frame t a e k n) :)

theorem Tile.updEng_frame (t : Tile) (e : Nat) (f : EngQ → EngQ) : t.updEng e f = { t with engs := (t.updEng e f).engs } := rfl

@[simp] theorem Tile.updEng_tsq (t : Tile) (e : Nat) (f : EngQ → EngQ) : (t.updEng e f).tsq = t.tsq := rfl
@[simp] theorem Tile.updEng_tm (t : Tile) (e : Nat) (f : EngQ → EngQ) : (t.updEng e f).tm = t.tm := rfl
@[simp] theorem Tile.updEng_mem (t : Tile) (e : Nat) (f : EngQ → EngQ) : (t.updEng e f).mem = t.mem := rfl
@[simp] theorem Tile.updEng_bad (t : Tile) (e : Nat) (f : EngQ → EngQ) : (t.updEng e f).bad = t.bad := rfl
@[simp] theorem Tile.updEng_soft (t : Tile) (e : Nat) (f : EngQ → EngQ) : (t.updEng e f).soft = t.soft := rfl
@[simp] theorem Tile.updEng_cfg (t : Tile) (e : Nat) (f : EngQ → EngQ) : (t.updEng e f).cfg = t.cfg := rfl
@[simp] theorem Tile.updEng_tab (t : Tile) (e : Nat) (f : EngQ → EngQ) : (t.updEng e f).tab = t.tab := rfl
@[simp] theorem Tile.updEng_ptrs (t : Tile) (e : Nat) (f : EngQ → EngQ) : (t.updEng e f).ptrs = t.ptrs := rfl
@[simp] theorem Tile.updEng_vs (t : Tile) (e : Nat) (f : EngQ → EngQ) : (t.updEng e f).vs = t.vs := rfl
@[simp] theorem Tile.updEng_mxe (t : Tile) (e : Nat) (f : EngQ → EngQ) : (t.updEng e f).mxe = t.mxe := rfl
@[simp] theorem Tile.updEng_rng (t : Tile) (e : Nat) (f : EngQ → EngQ) : (t.updEng e f).rng = t.rng := rfl
@[simp] theorem Tile.updEng_sched (t : Tile) (e : Nat) (f : EngQ → EngQ) : (t.updEng e f).sched = t.sched := rfl
@[simp] theorem Tile.updEng_pipe (t : Tile) (e : Nat) (f : EngQ → EngQ) : (t.updEng e f).pipe = t.pipe := rfl
@[simp] theorem Tile.updEng_acts (t : Tile) (e : Nat) (f : EngQ → EngQ) : (t.updEng e f).acts = t.acts := rfl
@[simp] theorem Tile.updEng_base (t : Tile) (e : Nat) (f : EngQ → EngQ) : (t.updEng e f).base = t.base := rfl
@[simp] theorem Tile.updEng_lscs (t : Tile) (e : Nat) (f : EngQ → EngQ) : (t.updEng e f).lscs = t.lscs := rfl
@[simp] theorem Tile.updEng_slots (t : Tile) (e : Nat) (f : EngQ → EngQ) : (t.updEng e f).slots = t.slots := rfl
@[simp] theorem Tile.updEng_rqs (t : Tile) (e : Nat) (f : EngQ → EngQ) : (t.updEng e f).rqs = t.rqs := rfl
@[simp] theorem Tile.updEng_scs (t : Tile) (e : Nat) (f : EngQ → EngQ) : (t.updEng e f).scs = t.scs := rfl
@[simp] theorem Tile.updEng_badTab (t : Tile) (e : Nat) (f : EngQ → EngQ) : (t.updEng e f).badTab = t.badTab := rfl
@[simp] theorem Tile.updEng_badAcc (t : Tile) (e : Nat) (f : EngQ → EngQ) : (t.updEng e f).badAcc = t.badAcc := rfl
@[simp] theorem Tile.updEng_almTbl (t : Tile) (e : Nat) (f : EngQ → EngQ) : (t.updEng e f).almTbl = t.almTbl := rfl
@[simp] theorem Tile.updEng_almChan (t : Tile) (e : Nat) (f : EngQ → EngQ) : (t.updEng e f).almChan = t.almChan := rfl
@[simp] theorem Tile.updEng_hb (t : Tile) (e : Nat) (f : EngQ → EngQ) : (t.updEng e f).hb = t.hb := rfl
@[simp] theorem Tile.updEng_gwait (t : Tile) (e : Nat) (f : EngQ → EngQ) : (t.updEng e f).gwait = t.gwait := rfl
@[simp] theorem Tile.updEng_dev (t : Tile) (e : Nat) (f : EngQ → EngQ) : (t.updEng e f).dev = t.dev := rfl
@[simp] theorem Tile.updEng_tfr (t : Tile) (e : Nat) (f : EngQ → EngQ) : (t.updEng e f).tfr = t.tfr := rfl
@[simp] theorem Tile.updEng_cnt (t : Tile) (e : Nat) (f : EngQ → EngQ) : (t.updEng e f).cnt = t.cnt := rfl
@[simp] theorem Tile.updEng_took (t : Tile) (e : Nat) (f : EngQ → EngQ) : (t.updEng e f).took = t.took := rfl

theorem Tile.badHandles_frame (t : Tile) (e p l : Nat) (ps : List Ptr) : t.badHandles e p l ps = { t with tfr := (t.badHandles e p l ps).tfr, base := (t.badHandles e p l ps).base } := by
  unfold Tile.badHandles
  induction ps generalizing t with
  | nil => rfl
  | cons x r ih =>
    rw [List.foldl_cons, ih]
    split
    · rfl
    · apply Tile.ext <;> simp

@[simp] theorem Tile.badHandles_tsq (t : Tile) (e p l : Nat) (ps : List Ptr) : (t.badHandles e p l ps).tsq = t.tsq := (congrArg Tile.tsq (Tile.badHandles_frame t e p l ps) :)
@[simp] theorem Tile.badHandles_tm (t : Tile) (e p l : Nat) (ps : List Ptr) : (t.badHandles e p l ps).tm = t.tm := (congrArg Tile.tm (Tile.badHandles_frame t e p l ps) :)
@[simp] theorem Tile.badHandles_mem (t : Tile) (e p l : Nat) (ps : List Ptr) : (t.badHandles e p l ps).mem = t.mem := (congrArg Tile.mem (Tile.badHandles_frame t e p l ps) :)
@[simp] theorem Tile.badHandles_bad (t : Tile) (e p l : Nat) (ps : List Ptr) : (t.badHandles e p l ps).bad = t.bad := (congrArg Tile.bad (Tile.badHandles_frame t e p l ps) :)
@[simp] theorem Tile.badHandles_soft (t : Tile) (e p l : Nat) (ps : List Ptr) : (t.badHandles e p l ps).soft = t.soft := (congrArg Tile.soft (Tile.badHandles_frame t e p l ps) :)
@[simp] theorem Tile.badHandles_cfg (t : Tile) (e p l : Nat) (ps : List Ptr) : (t.badHandles e p l ps).cfg = t.cfg := (congrArg Tile.cfg (Tile.badHandles_frame t e p l ps) :)
@[simp] theorem Tile.badHandles_tab (t : Tile) (e p l : Nat) (ps : List Ptr) : (t.badHandles e p l ps).tab = t.tab := (congrArg Tile.tab (Tile.badHandles_frame t e p l ps) :)
@[simp] theorem Tile.badHandles_ptrs (t : Tile) (e p l : Nat) (ps : List Ptr) : (t.badHandles e p l ps).ptrs = t.ptrs := (congrArg Tile.ptrs (Tile.badHandles_frame t e p l ps) :)
@[simp] theorem Tile.badHandles_vs (t : Tile) (e p l : Nat) (ps : List Ptr) : (t.badHandles e p l ps).vs = t.vs := (congrArg Tile.vs (Tile.badHandles_frame t e p l ps) :)
@[simp] theorem Tile.badHandles_mxe (t : Tile) (e p l : Nat) (ps : List Ptr) : (t.badHandles e p l ps).mxe = t.mxe := (congrArg Tile.mxe (Tile.badHandles_frame t e p l ps) :)
@[simp] theorem Tile.badHandles_engs (t : Tile) (e p l : Nat) (ps : List Ptr) : (t.badHandles e p l ps).engs = t.engs := (congrArg Tile.engs (Tile.badHandles_frame t e p l ps) :)
@[simp] theorem Tile.badHandles_rng (t : Tile) (e p l : Nat) (ps : List Ptr) : (t.badHandles e p l ps).rng = t.rng := (congrArg Tile.rng (Tile.badHandles_frame t e p l ps) :)
@[simp] theorem Tile.badHandles_sched (t : Tile) (e p l : Nat) (ps : List Ptr) : (t.badHandles e p l ps).sched = t.sched := (congrArg Tile.sched (Tile.badHandles_frame t e p l ps) :)
@[simp] theorem Tile.badHandles_pipe (t : Tile) (e p l : Nat) (ps : List Ptr) : (t.badHandles e p l ps).pipe = t.pipe := (congrArg Tile.pipe (Tile.badHandles_frame t e p l ps) :)
@[simp] theorem Tile.badHandles_acts (t : Tile) (e p l : Nat) (ps : List Ptr) : (t.badHandles e p l ps).acts = t.acts := (congrArg Tile.acts (Tile.badHandles_frame t e p l ps) :)
@[simp] theorem Tile.badHandles_lscs (t : Tile) (e p l : Nat) (ps : List Ptr) : (t.badHandles e p l ps).lscs = t.lscs := (congrArg Tile.lscs (Tile.badHandles_frame t e p l ps) :)
@[simp] theorem Tile.badHandles_slots (t : Tile) (e p l : Nat) (ps : List Ptr) : (t.badHandles e p l ps).slots = t.slots := (congrArg Tile.slots (Tile.badHandles_frame t e p l ps) :)
@[simp] theorem Tile.badHandles_rqs (t : Tile) (e p l : Nat) (ps : List Ptr) : (t.badHandles e p l ps).rqs = t.rqs := (congrArg Tile.rqs (Tile.badHandles_frame t e p l ps) :)
@[simp] theorem Tile.badHandles_scs (t : Tile) (e p l : Nat) (ps : List Ptr) : (t.badHandles e p l ps).scs = t.scs := (congrArg Tile.scs (Tile.badHandles_frame t e p l ps) :)
@[simp] theorem Tile.badHandles_badTab (t : Tile) (e p l : Nat) (ps : List Ptr) : (t.badHandles e p l ps).badTab = t.badTab := (congrArg Tile.badTab (Tile.badHandles_frame t e p l ps) :)
@[simp] theorem Tile.badHandles_badAcc (t : Tile) (e p l : Nat) (ps : List Ptr) : (t.badHandles e p l ps).badAcc = t.badAcc := (congrArg Tile.badAcc (Tile.badHandles_frame t e p l ps) :)
@[simp] theorem Tile.badHandles_almTbl (t : Tile) (e p l : Nat) (ps : List Ptr) : (t.badHandles e p l ps).almTbl = t.almTbl := (congrArg Tile.almTbl (Tile.badHandles_frame t e p l ps) :)
@[simp] theorem Tile.badHandles_almChan (t : Tile) (e p l : Nat) (ps : List Ptr) : (t.badHandles e p l ps).almChan = t.almChan := (congrArg Tile.almChan (Tile.badHandles_frame t e p l ps) :)
@[simp] theorem Tile.badHandles_hb (t : Tile) (e p l : Nat) (ps : List Ptr) : (t.badHandles e p l ps).hb = t.hb := (congrArg Tile.hb (Tile.badHandles_frame t e p l ps) :)
@[simp] theorem Tile.badHandles_gwait (t : Tile) (e p l : Nat) (ps : List Ptr) : (t.badHandles e p l ps).gwait = t.gwait := (congrArg Tile.gwait (Tile.badHandles_frame t e p l ps) :)
@[simp] theorem Tile.badHandles_dev (t : Tile) (e p l : Nat) (ps : List Ptr) : (t.badHandles e p l ps).dev = t.dev := (congrArg Tile.dev (Tile.badHandles_frame t e p l ps) :)
@[simp] theorem Tile.badHandles_cnt (t : Tile) (e p l : Nat) (ps : List Ptr) : (t.badHandles e p l ps).cnt = t.cnt := (congrArg Tile.cnt (Tile.badHandles_frame t e p l ps) :)
@[simp] theorem Tile.badHandles_took (t : Tile) (e p l : Nat) (ps : List Ptr) : (t.badHandles e p l ps).took = t.took := (congrArg Tile.took (Tile.badHandles_frame t e p l ps) :)

theorem Tile.finish_frame (t : Tile) (j : Job) (d : Nat) : t.finish j d = { t with engs := (t.finish j d).engs } := rfl

@[simp] theorem Tile.finish_tsq (t : Tile) (j : Job) (d : Nat) : (t.finish j d).tsq = t.tsq := rfl
@[simp] theorem Tile.finish_tm (t : Tile) (j : Job) (d : Nat) : (t.finish j d).tm = t.tm := rfl
@[simp] theorem Tile.finish_mem (t : Tile) (j : Job) (d : Nat) : (t.finish j d).mem = t.mem := rfl
@[simp] theorem Tile.finish_bad (t : Tile) (j : Job) (d : Nat) : (t.finish j d).bad = t.bad := rfl
@[simp] theorem Tile.finish_soft (t : Tile) (j : Job) (d : Nat) : (t.finish j d).soft = t.soft := rfl
@[simp] theorem Tile.finish_cfg (t : Tile) (j : Job) (d : Nat) : (t.finish j d).cfg = t.cfg := rfl
@[simp] theorem Tile.finish_tab (t : Tile) (j : Job) (d : Nat) : (t.finish j d).tab = t.tab := rfl
@[simp] theorem Tile.finish_ptrs (t : Tile) (j : Job) (d : Nat) : (t.finish j d).ptrs = t.ptrs := rfl
@[simp] theorem Tile.finish_vs (t : Tile) (j : Job) (d : Nat) : (t.finish j d).vs = t.vs := rfl
@[simp] theorem Tile.finish_mxe (t : Tile) (j : Job) (d : Nat) : (t.finish j d).mxe = t.mxe := rfl
@[simp] theorem Tile.finish_rng (t : Tile) (j : Job) (d : Nat) : (t.finish j d).rng = t.rng := rfl
@[simp] theorem Tile.finish_sched (t : Tile) (j : Job) (d : Nat) : (t.finish j d).sched = t.sched := rfl
@[simp] theorem Tile.finish_pipe (t : Tile) (j : Job) (d : Nat) : (t.finish j d).pipe = t.pipe := rfl
@[simp] theorem Tile.finish_acts (t : Tile) (j : Job) (d : Nat) : (t.finish j d).acts = t.acts := rfl
@[simp] theorem Tile.finish_base (t : Tile) (j : Job) (d : Nat) : (t.finish j d).base = t.base := rfl
@[simp] theorem Tile.finish_lscs (t : Tile) (j : Job) (d : Nat) : (t.finish j d).lscs = t.lscs := rfl
@[simp] theorem Tile.finish_slots (t : Tile) (j : Job) (d : Nat) : (t.finish j d).slots = t.slots := rfl
@[simp] theorem Tile.finish_rqs (t : Tile) (j : Job) (d : Nat) : (t.finish j d).rqs = t.rqs := rfl
@[simp] theorem Tile.finish_scs (t : Tile) (j : Job) (d : Nat) : (t.finish j d).scs = t.scs := rfl
@[simp] theorem Tile.finish_badTab (t : Tile) (j : Job) (d : Nat) : (t.finish j d).badTab = t.badTab := rfl
@[simp] theorem Tile.finish_badAcc (t : Tile) (j : Job) (d : Nat) : (t.finish j d).badAcc = t.badAcc := rfl
@[simp] theorem Tile.finish_almTbl (t : Tile) (j : Job) (d : Nat) : (t.finish j d).almTbl = t.almTbl := rfl
@[simp] theorem Tile.finish_almChan (t : Tile) (j : Job) (d : Nat) : (t.finish j d).almChan = t.almChan := rfl
@[simp] theorem Tile.finish_hb (t : Tile) (j : Job) (d : Nat) : (t.finish j d).hb = t.hb := rfl
@[simp] theorem Tile.finish_gwait (t : Tile) (j : Job) (d : Nat) : (t.finish j d).gwait = t.gwait := rfl
@[simp] theorem Tile.finish_dev (t : Tile) (j : Job) (d : Nat) : (t.finish j d).dev = t.dev := rfl
@[simp] theorem Tile.finish_tfr (t : Tile) (j : Job) (d : Nat) : (t.finish j d).tfr = t.tfr := rfl
@[simp] theorem Tile.finish_cnt (t : Tile) (j : Job) (d : Nat) : (t.finish j d).cnt = t.cnt := rfl
@[simp] theorem Tile.finish_took (t : Tile) (j : Job) (d : Nat) : (t.finish j d).took = t.took := rfl

theorem Tile.plan_frame (t : Tile) (k : Nat) (f : Flow) (l : List Act) : t.plan k f l = { t with pipe := (t.plan k f l).pipe, acts := (t.plan k f l).acts, base := (t.plan k f l).base } := by unfold Tile.plan Tile.both; split <;> rfl

@[simp] theorem Tile.plan_tsq (t : Tile) (k : Nat) (f : Flow) (l : List Act) : (t.plan k f l).tsq = t.tsq := (congrArg Tile.tsq (Tile.plan_frame t k f l) :)
@[simp] theorem Tile.plan_tm (t : Tile) (k : Nat) (f : Flow) (l : List Act) : (t.plan k f l).tm = t.tm := (congrArg Tile.tm (Tile.plan_frame t k f l) :)
@[simp] theorem Tile.plan_mem (t : Tile) (k : Nat) (f : Flow) (l : List Act) : (t.plan k f l).mem = t.mem := (congrArg Tile.mem (Tile.plan_frame t k f l) :)
@[simp] theorem Tile.plan_bad (t : Tile) (k : Nat) (f : Flow) (l : List Act) : (t.plan k f l).bad = t.bad := (congrArg Tile.bad (Tile.plan_frame t k f l) :)
@[simp] theorem Tile.plan_soft (t : Tile) (k : Nat) (f : Flow) (l : List Act) : (t.plan k f l).soft = t.soft := (congrArg Tile.soft (Tile.plan_frame t k f l) :)
@[simp] theorem Tile.plan_cfg (t : Tile) (k : Nat) (f : Flow) (l : List Act) : (t.plan k f l).cfg = t.cfg := (congrArg Tile.cfg (Tile.plan_frame t k f l) :)
@[simp] theorem Tile.plan_tab (t : Tile) (k : Nat) (f : Flow) (l : List Act) : (t.plan k f l).tab = t.tab := (congrArg Tile.tab (Tile.plan_frame t k f l) :)
@[simp] theorem Tile.plan_ptrs (t : Tile) (k : Nat) (f : Flow) (l : List Act) : (t.plan k f l).ptrs = t.ptrs := (congrArg Tile.ptrs (Tile.plan_frame t k f l) :)
@[simp] theorem Tile.plan_vs (t : Tile) (k : Nat) (f : Flow) (l : List Act) : (t.plan k f l).vs = t.vs := (congrArg Tile.vs (Tile.plan_frame t k f l) :)
@[simp] theorem Tile.plan_mxe (t : Tile) (k : Nat) (f : Flow) (l : List Act) : (t.plan k f l).mxe = t.mxe := (congrArg Tile.mxe (Tile.plan_frame t k f l) :)
@[simp] theorem Tile.plan_engs (t : Tile) (k : Nat) (f : Flow) (l : List Act) : (t.plan k f l).engs = t.engs := (congrArg Tile.engs (Tile.plan_frame t k f l) :)
@[simp] theorem Tile.plan_rng (t : Tile) (k : Nat) (f : Flow) (l : List Act) : (t.plan k f l).rng = t.rng := (congrArg Tile.rng (Tile.plan_frame t k f l) :)
@[simp] theorem Tile.plan_sched (t : Tile) (k : Nat) (f : Flow) (l : List Act) : (t.plan k f l).sched = t.sched := (congrArg Tile.sched (Tile.plan_frame t k f l) :)
@[simp] theorem Tile.plan_lscs (t : Tile) (k : Nat) (f : Flow) (l : List Act) : (t.plan k f l).lscs = t.lscs := (congrArg Tile.lscs (Tile.plan_frame t k f l) :)
@[simp] theorem Tile.plan_slots (t : Tile) (k : Nat) (f : Flow) (l : List Act) : (t.plan k f l).slots = t.slots := (congrArg Tile.slots (Tile.plan_frame t k f l) :)
@[simp] theorem Tile.plan_rqs (t : Tile) (k : Nat) (f : Flow) (l : List Act) : (t.plan k f l).rqs = t.rqs := (congrArg Tile.rqs (Tile.plan_frame t k f l) :)
@[simp] theorem Tile.plan_scs (t : Tile) (k : Nat) (f : Flow) (l : List Act) : (t.plan k f l).scs = t.scs := (congrArg Tile.scs (Tile.plan_frame t k f l) :)
@[simp] theorem Tile.plan_badTab (t : Tile) (k : Nat) (f : Flow) (l : List Act) : (t.plan k f l).badTab = t.badTab := (congrArg Tile.badTab (Tile.plan_frame t k f l) :)
@[simp] theorem Tile.plan_badAcc (t : Tile) (k : Nat) (f : Flow) (l : List Act) : (t.plan k f l).badAcc = t.badAcc := (congrArg Tile.badAcc (Tile.plan_frame t k f l) :)
@[simp] theorem Tile.plan_almTbl (t : Tile) (k : Nat) (f : Flow) (l : List Act) : (t.plan k f l).almTbl = t.almTbl := (congrArg Tile.almTbl (Tile.plan_frame t k f l) :)
@[simp] theorem Tile.plan_almChan (t : Tile) (k : Nat) (f : Flow) (l : List Act) : (t.plan k f l).almChan = t.almChan := (congrArg Tile.almChan (Tile.plan_frame t k f l) :)
@[simp] theorem Tile.plan_hb (t : Tile) (k : Nat) (f : Flow) (l : List Act) : (t.plan k f l).hb = t.hb := (congrArg Tile.hb (Tile.plan_frame t k f l) :)
@[simp] theorem Tile.plan_gwait (t : Tile) (k : Nat) (f : Flow) (l : List Act) : (t.plan k f l).gwait = t.gwait := (congrArg Tile.gwait (Tile.plan_frame t k f l) :)
@[simp] theorem Tile.plan_dev (t : Tile) (k : Nat) (f : Flow) (l : List Act) : (t.plan k f l).dev = t.dev := (congrArg Tile.dev (Tile.plan_frame t k f l) :)
@[simp] theorem Tile.plan_tfr (t : Tile) (k : Nat) (f : Flow) (l : List Act) : (t.plan k f l).tfr = t.tfr := (congrArg Tile.tfr (Tile.plan_frame t k f l) :)
@[simp] theorem Tile.plan_cnt (t : Tile) (k : Nat) (f : Flow) (l : List Act) : (t.plan k f l).cnt = t.cnt := (congrArg Tile.cnt (Tile.plan_frame t k f l) :)
@[simp] theorem Tile.plan_took (t : Tile) (k : Nat) (f : Flow) (l : List Act) : (t.plan k f l).took = t.took := (congrArg Tile.took (Tile.plan_frame t k f l) :)

theorem Tile.withCore_frame (t : Tile) (c : Core) : t.withCore c = { t with mem := (t.withCore c).mem, bad := (t.withCore c).bad, soft := (t.withCore c).soft, mxe := (t.withCore c).mxe, rng := (t.withCore c).rng, sched := (t.withCore c).sched, pipe := (t.withCore c).pipe, tfr := (t.withCore c).tfr, cnt := (t.withCore c).cnt } := rfl

@[simp] theorem Tile.withCore_tsq (t : Tile) (c : Core) : (t.withCore c).tsq = t.tsq := rfl
@[simp] theorem Tile.withCore_tm (t : Tile) (c : Core) : (t.withCore c).tm = t.tm := rfl
@[simp] theorem Tile.withCore_cfg (t : Tile) (c : Core) : (t.withCore c).cfg = t.cfg := rfl
@[simp] theorem Tile.withCore_tab (t : Tile) (c : Core) : (t.withCore c).tab = t.tab := rfl
@[simp] theorem Tile.withCore_ptrs (t : Tile) (c : Core) : (t.withCore c).ptrs = t.ptrs := rfl
@[simp] theorem Tile.withCore_vs (t : Tile) (c : Core) : (t.withCore c).vs = t.vs := rfl
@[simp] theorem Tile.withCore_engs (t : Tile) (c : Core) : (t.withCore c).engs = t.engs := rfl
@[simp] theorem Tile.withCore_acts (t : Tile) (c : Core) : (t.withCore c).acts = t.acts := rfl
@[simp] theorem Tile.withCore_base (t : Tile) (c : Core) : (t.withCore c).base = t.base := rfl
@[simp] theorem Tile.withCore_lscs (t : Tile) (c : Core) : (t.withCore c).lscs = t.lscs := rfl
@[simp] theorem Tile.withCore_slots (t : Tile) (c : Core) : (t.withCore c).slots = t.slots := rfl
@[simp] theorem Tile.withCore_rqs (t : Tile) (c : Core) : (t.withCore c).rqs = t.rqs := rfl
@[simp] theorem Tile.withCore_scs (t : Tile) (c : Core) : (t.withCore c).scs = t.scs := rfl
@[simp] theorem Tile.withCore_badTab (t : Tile) (c : Core) : (t.withCore c).badTab = t.badTab := rfl
@[simp] theorem Tile.withCore_badAcc (t : Tile) (c : Core) : (t.withCore c).badAcc = t.badAcc := rfl
@[simp] theorem Tile.withCore_almTbl (t : Tile) (c : Core) : (t.withCore c).almTbl = t.almTbl := rfl
@[simp] theorem Tile.withCore_almChan (t : Tile) (c : Core) : (t.withCore c).almChan = t.almChan := rfl
@[simp] theorem Tile.withCore_hb (t : Tile) (c : Core) : (t.withCore c).hb = t.hb := rfl
@[simp] theorem Tile.withCore_gwait (t : Tile) (c : Core) : (t.withCore c).gwait = t.gwait := rfl
@[simp] theorem Tile.withCore_dev (t : Tile) (c : Core) : (t.withCore c).dev = t.dev := rfl
@[simp] theorem Tile.withCore_took (t : Tile) (c : Core) : (t.withCore c).took = t.took := rfl

theorem Tile.deliver_frame (t : Tile) : t.deliver = { t with tsq := (t.deliver).tsq, tm := (t.deliver).tm } := rfl

@[simp] theorem Tile.deliver_mem (t : Tile) : (t.deliver).mem = t.mem := rfl
@[simp] theorem Tile.deliver_bad (t : Tile) : (t.deliver).bad = t.bad := rfl
@[simp] theorem Tile.deliver_soft (t : Tile) : (t.deliver).soft = t.soft := rfl
@[simp] theorem Tile.deliver_cfg (t : Tile) : (t.deliver).cfg = t.cfg := rfl
@[simp] theorem Tile.deliver_tab (t : Tile) : (t.deliver).tab = t.tab := rfl
@[simp] theorem Tile.deliver_ptrs (t : Tile) : (t.deliver).ptrs = t.ptrs := rfl
@[simp] theorem Tile.deliver_vs (t : Tile) : (t.deliver).vs = t.vs := rfl
@[simp] theorem Tile.deliver_mxe (t : Tile) : (t.deliver).mxe = t.mxe := rfl
@[simp] theorem Tile.deliver_engs (t : Tile) : (t.deliver).engs = t.engs := rfl
@[simp] theorem Tile.deliver_rng (t : Tile) : (t.deliver).rng = t.rng := rfl
@[simp] theorem Tile.deliver_sched (t : Tile) : (t.deliver).sched = t.sched := rfl
@[simp] theorem Tile.deliver_pipe (t : Tile) : (t.deliver).pipe = t.pipe := rfl
@[simp] theorem Tile.deliver_acts (t : Tile) : (t.deliver).acts = t.acts := rfl
@[simp] theorem Tile.deliver_base (t : Tile) : (t.deliver).base = t.base := rfl
@[simp] theorem Tile.deliver_lscs (t : Tile) : (t.deliver).lscs = t.lscs := rfl
@[simp] theorem Tile.deliver_slots (t : Tile) : (t.deliver).slots = t.slots := rfl
@[simp] theorem Tile.deliver_rqs (t : Tile) : (t.deliver).rqs = t.rqs := rfl
@[simp] theorem Tile.deliver_scs (t : Tile) : (t.deliver).scs = t.scs := rfl
@[simp] theorem Tile.deliver_badTab (t : Tile) : (t.deliver).badTab = t.badTab := rfl
@[simp] theorem Tile.deliver_badAcc (t : Tile) : (t.deliver).badAcc = t.badAcc := rfl
@[simp] theorem Tile.deliver_almTbl (t : Tile) : (t.deliver).almTbl = t.almTbl := rfl
@[simp] theorem Tile.deliver_almChan (t : Tile) : (t.deliver).almChan = t.almChan := rfl
@[simp] theorem Tile.deliver_hb (t : Tile) : (t.deliver).hb = t.hb := rfl
@[simp] theorem Tile.deliver_gwait (t : Tile) : (t.deliver).gwait = t.gwait := rfl
@[simp] theorem Tile.deliver_dev (t : Tile) : (t.deliver).dev = t.dev := rfl
@[simp] theorem Tile.deliver_tfr (t : Tile) : (t.deliver).tfr = t.tfr := rfl
@[simp] theorem Tile.deliver_cnt (t : Tile) : (t.deliver).cnt = t.cnt := rfl
@[simp] theorem Tile.deliver_took (t : Tile) : (t.deliver).took = t.took := rfl

theorem Tile.setCur_frame (t : Tile) (c : Ctx) : t.setCur c = { t with tsq := (t.setCur c).tsq } := by unfold Tile.setCur; split <;> rfl

@[simp] theorem Tile.setCur_tm (t : Tile) (c : Ctx) : (t.setCur c).tm = t.tm := (congrArg Tile.tm (Tile.setCur_frame t c) :)
@[simp] theorem Tile.setCur_mem (t : Tile) (c : Ctx) : (t.setCur c).mem = t.mem := (congrArg Tile.mem (Tile.setCur_frame t c) :)
@[simp] theorem Tile.setCur_bad (t : Tile) (c : Ctx) : (t.setCur c).bad = t.bad := (congrArg Tile.bad (Tile.setCur_frame t c) :)
@[simp] theorem Tile.setCur_soft (t : Tile) (c : Ctx) : (t.setCur c).soft = t.soft := (congrArg Tile.soft (Tile.setCur_frame t c) :)
@[simp] theorem Tile.setCur_cfg (t : Tile) (c : Ctx) : (t.setCur c).cfg = t.cfg := (congrArg Tile.cfg (Tile.setCur_frame t c) :)
@[simp] theorem Tile.setCur_tab (t : Tile) (c : Ctx) : (t.setCur c).tab = t.tab := (congrArg Tile.tab (Tile.setCur_frame t c) :)
@[simp] theorem Tile.setCur_ptrs (t : Tile) (c : Ctx) : (t.setCur c).ptrs = t.ptrs := (congrArg Tile.ptrs (Tile.setCur_frame t c) :)
@[simp] theorem Tile.setCur_vs (t : Tile) (c : Ctx) : (t.setCur c).vs = t.vs := (congrArg Tile.vs (Tile.setCur_frame t c) :)
@[simp] theorem Tile.setCur_mxe (t : Tile) (c : Ctx) : (t.setCur c).mxe = t.mxe := (congrArg Tile.mxe (Tile.setCur_frame t c) :)
@[simp] theorem Tile.setCur_engs (t : Tile) (c : Ctx) : (t.setCur c).engs = t.engs := (congrArg Tile.engs (Tile.setCur_frame t c) :)
@[simp] theorem Tile.setCur_rng (t : Tile) (c : Ctx) : (t.setCur c).rng = t.rng := (congrArg Tile.rng (Tile.setCur_frame t c) :)
@[simp] theorem Tile.setCur_sched (t : Tile) (c : Ctx) : (t.setCur c).sched = t.sched := (congrArg Tile.sched (Tile.setCur_frame t c) :)
@[simp] theorem Tile.setCur_pipe (t : Tile) (c : Ctx) : (t.setCur c).pipe = t.pipe := (congrArg Tile.pipe (Tile.setCur_frame t c) :)
@[simp] theorem Tile.setCur_acts (t : Tile) (c : Ctx) : (t.setCur c).acts = t.acts := (congrArg Tile.acts (Tile.setCur_frame t c) :)
@[simp] theorem Tile.setCur_base (t : Tile) (c : Ctx) : (t.setCur c).base = t.base := (congrArg Tile.base (Tile.setCur_frame t c) :)
@[simp] theorem Tile.setCur_lscs (t : Tile) (c : Ctx) : (t.setCur c).lscs = t.lscs := (congrArg Tile.lscs (Tile.setCur_frame t c) :)
@[simp] theorem Tile.setCur_slots (t : Tile) (c : Ctx) : (t.setCur c).slots = t.slots := (congrArg Tile.slots (Tile.setCur_frame t c) :)
@[simp] theorem Tile.setCur_rqs (t : Tile) (c : Ctx) : (t.setCur c).rqs = t.rqs := (congrArg Tile.rqs (Tile.setCur_frame t c) :)
@[simp] theorem Tile.setCur_scs (t : Tile) (c : Ctx) : (t.setCur c).scs = t.scs := (congrArg Tile.scs (Tile.setCur_frame t c) :)
@[simp] theorem Tile.setCur_badTab (t : Tile) (c : Ctx) : (t.setCur c).badTab = t.badTab := (congrArg Tile.badTab (Tile.setCur_frame t c) :)
@[simp] theorem Tile.setCur_badAcc (t : Tile) (c : Ctx) : (t.setCur c).badAcc = t.badAcc := (congrArg Tile.badAcc (Tile.setCur_frame t c) :)
@[simp] theorem Tile.setCur_almTbl (t : Tile) (c : Ctx) : (t.setCur c).almTbl = t.almTbl := (congrArg Tile.almTbl (Tile.setCur_frame t c) :)
@[simp] theorem Tile.setCur_almChan (t : Tile) (c : Ctx) : (t.setCur c).almChan = t.almChan := (congrArg Tile.almChan (Tile.setCur_frame t c) :)
@[simp] theorem Tile.setCur_hb (t : Tile) (c : Ctx) : (t.setCur c).hb = t.hb := (congrArg Tile.hb (Tile.setCur_frame t c) :)
@[simp] theorem Tile.setCur_gwait (t : Tile) (c : Ctx) : (t.setCur c).gwait = t.gwait := (congrArg Tile.gwait (Tile.setCur_frame t c) :)
@[simp] theorem Tile.setCur_dev (t : Tile) (c : Ctx) : (t.setCur c).dev = t.dev := (congrArg Tile.dev (Tile.setCur_frame t c) :)
@[simp] theorem Tile.setCur_tfr (t : Tile) (c : Ctx) : (t.setCur c).tfr = t.tfr := (congrArg Tile.tfr (Tile.setCur_frame t c) :)
@[simp] theorem Tile.setCur_cnt (t : Tile) (c : Ctx) : (t.setCur c).cnt = t.cnt := (congrArg Tile.cnt (Tile.setCur_frame t c) :)
@[simp] theorem Tile.setCur_took (t : Tile) (c : Ctx) : (t.setCur c).took = t.took := (congrArg Tile.took (Tile.setCur_frame t c) :)

theorem Tile.hold_frame (t : Tile) (h : Hold) : t.hold h = { t with tsq := (t.hold h).tsq } := Tile.setCur_frame t _

@[simp] theorem Tile.hold_tm (t : Tile) (h : Hold) : (t.hold h).tm = t.tm := (congrArg Tile.tm (Tile.hold_frame t h) :)
@[simp] theorem Tile.hold_mem (t : Tile) (h : Hold) : (t.hold h).mem = t.mem := (congrArg Tile.mem (Tile.hold_frame t h) :)
@[simp] theorem Tile.hold_bad (t : Tile) (h : Hold) : (t.hold h).bad = t.bad := (congrArg Tile.bad (Tile.hold_frame t h) :)
@[simp] theorem Tile.hold_soft (t : Tile) (h : Hold) : (t.hold h).soft = t.soft := (congrArg Tile.soft (Tile.hold_frame t h) :)
@[simp] theorem Tile.hold_cfg (t : Tile) (h : Hold) : (t.hold h).cfg = t.cfg := (congrArg Tile.cfg (Tile.hold_frame t h) :)
@[simp] theorem Tile.hold_tab (t : Tile) (h : Hold) : (t.hold h).tab = t.tab := (congrArg Tile.tab (Tile.hold_frame t h) :)
@[simp] theorem Tile.hold_ptrs (t : Tile) (h : Hold) : (t.hold h).ptrs = t.ptrs := (congrArg Tile.ptrs (Tile.hold_frame t h) :)
@[simp] theorem Tile.hold_vs (t : Tile) (h : Hold) : (t.hold h).vs = t.vs := (congrArg Tile.vs (Tile.hold_frame t h) :)
@[simp] theorem Tile.hold_mxe (t : Tile) (h : Hold) : (t.hold h).mxe = t.mxe := (congrArg Tile.mxe (Tile.hold_frame t h) :)
@[simp] theorem Tile.hold_engs (t : Tile) (h : Hold) : (t.hold h).engs = t.engs := (congrArg Tile.engs (Tile.hold_frame t h) :)
@[simp] theorem Tile.hold_rng (t : Tile) (h : Hold) : (t.hold h).rng = t.rng := (congrArg Tile.rng (Tile.hold_frame t h) :)
@[simp] theorem Tile.hold_sched (t : Tile) (h : Hold) : (t.hold h).sched = t.sched := (congrArg Tile.sched (Tile.hold_frame t h) :)
@[simp] theorem Tile.hold_pipe (t : Tile) (h : Hold) : (t.hold h).pipe = t.pipe := (congrArg Tile.pipe (Tile.hold_frame t h) :)
@[simp] theorem Tile.hold_acts (t : Tile) (h : Hold) : (t.hold h).acts = t.acts := (congrArg Tile.acts (Tile.hold_frame t h) :)
@[simp] theorem Tile.hold_base (t : Tile) (h : Hold) : (t.hold h).base = t.base := (congrArg Tile.base (Tile.hold_frame t h) :)
@[simp] theorem Tile.hold_lscs (t : Tile) (h : Hold) : (t.hold h).lscs = t.lscs := (congrArg Tile.lscs (Tile.hold_frame t h) :)
@[simp] theorem Tile.hold_slots (t : Tile) (h : Hold) : (t.hold h).slots = t.slots := (congrArg Tile.slots (Tile.hold_frame t h) :)
@[simp] theorem Tile.hold_rqs (t : Tile) (h : Hold) : (t.hold h).rqs = t.rqs := (congrArg Tile.rqs (Tile.hold_frame t h) :)
@[simp] theorem Tile.hold_scs (t : Tile) (h : Hold) : (t.hold h).scs = t.scs := (congrArg Tile.scs (Tile.hold_frame t h) :)
@[simp] theorem Tile.hold_badTab (t : Tile) (h : Hold) : (t.hold h).badTab = t.badTab := (congrArg Tile.badTab (Tile.hold_frame t h) :)
@[simp] theorem Tile.hold_badAcc (t : Tile) (h : Hold) : (t.hold h).badAcc = t.badAcc := (congrArg Tile.badAcc (Tile.hold_frame t h) :)
@[simp] theorem Tile.hold_almTbl (t : Tile) (h : Hold) : (t.hold h).almTbl = t.almTbl := (congrArg Tile.almTbl (Tile.hold_frame t h) :)
@[simp] theorem Tile.hold_almChan (t : Tile) (h : Hold) : (t.hold h).almChan = t.almChan := (congrArg Tile.almChan (Tile.hold_frame t h) :)
@[simp] theorem Tile.hold_hb (t : Tile) (h : Hold) : (t.hold h).hb = t.hb := (congrArg Tile.hb (Tile.hold_frame t h) :)
@[simp] theorem Tile.hold_gwait (t : Tile) (h : Hold) : (t.hold h).gwait = t.gwait := (congrArg Tile.gwait (Tile.hold_frame t h) :)
@[simp] theorem Tile.hold_dev (t : Tile) (h : Hold) : (t.hold h).dev = t.dev := (congrArg Tile.dev (Tile.hold_frame t h) :)
@[simp] theorem Tile.hold_tfr (t : Tile) (h : Hold) : (t.hold h).tfr = t.tfr := (congrArg Tile.tfr (Tile.hold_frame t h) :)
@[simp] theorem Tile.hold_cnt (t : Tile) (h : Hold) : (t.hold h).cnt = t.cnt := (congrArg Tile.cnt (Tile.hold_frame t h) :)
@[simp] theorem Tile.hold_took (t : Tile) (h : Hold) : (t.hold h).took = t.took := (congrArg Tile.took (Tile.hold_frame t h) :)

theorem Tile.recordLoop_frame (t : Tile) (p : Nat) (w : IWord) : t.recordLoop p w = { t with tsq := (t.recordLoop p w).tsq } := by unfold Tile.recordLoop; split <;> (try split) <;> rfl

@[simp] theorem Tile.recordLoop_tm (t : Tile) (p : Nat) (w : IWord) : (t.recordLoop p w).tm = t.tm := (congrArg Tile.tm (Tile.recordLoop_frame t p w) :)
@[simp] theorem Tile.recordLoop_mem (t : Tile) (p : Nat) (w : IWord) : (t.recordLoop p w).mem = t.mem := (congrArg Tile.mem (Tile.recordLoop_frame t p w) :)
@[simp] theorem Tile.recordLoop_bad (t : Tile) (p : Nat) (w : IWord) : (t.recordLoop p w).bad = t.bad := (congrArg Tile.bad (Tile.recordLoop_frame t p w) :)
@[simp] theorem Tile.recordLoop_soft (t : Tile) (p : Nat) (w : IWord) : (t.recordLoop p w).soft = t.soft := (congrArg Tile.soft (Tile.recordLoop_frame t p w) :)
@[simp] theorem Tile.recordLoop_cfg (t : Tile) (p : Nat) (w : IWord) : (t.recordLoop p w).cfg = t.cfg := (congrArg Tile.cfg (Tile.recordLoop_frame t p w) :)
@[simp] theorem Tile.recordLoop_tab (t : Tile) (p : Nat) (w : IWord) : (t.recordLoop p w).tab = t.tab := (congrArg Tile.tab (Tile.recordLoop_frame t p w) :)
@[simp] theorem Tile.recordLoop_ptrs (t : Tile) (p : Nat) (w : IWord) : (t.recordLoop p w).ptrs = t.ptrs := (congrArg Tile.ptrs (Tile.recordLoop_frame t p w) :)
@[simp] theorem Tile.recordLoop_vs (t : Tile) (p : Nat) (w : IWord) : (t.recordLoop p w).vs = t.vs := (congrArg Tile.vs (Tile.recordLoop_frame t p w) :)
@[simp] theorem Tile.recordLoop_mxe (t : Tile) (p : Nat) (w : IWord) : (t.recordLoop p w).mxe = t.mxe := (congrArg Tile.mxe (Tile.recordLoop_frame t p w) :)
@[simp] theorem Tile.recordLoop_engs (t : Tile) (p : Nat) (w : IWord) : (t.recordLoop p w).engs = t.engs := (congrArg Tile.engs (Tile.recordLoop_frame t p w) :)
@[simp] theorem Tile.recordLoop_rng (t : Tile) (p : Nat) (w : IWord) : (t.recordLoop p w).rng = t.rng := (congrArg Tile.rng (Tile.recordLoop_frame t p w) :)
@[simp] theorem Tile.recordLoop_sched (t : Tile) (p : Nat) (w : IWord) : (t.recordLoop p w).sched = t.sched := (congrArg Tile.sched (Tile.recordLoop_frame t p w) :)
@[simp] theorem Tile.recordLoop_pipe (t : Tile) (p : Nat) (w : IWord) : (t.recordLoop p w).pipe = t.pipe := (congrArg Tile.pipe (Tile.recordLoop_frame t p w) :)
@[simp] theorem Tile.recordLoop_acts (t : Tile) (p : Nat) (w : IWord) : (t.recordLoop p w).acts = t.acts := (congrArg Tile.acts (Tile.recordLoop_frame t p w) :)
@[simp] theorem Tile.recordLoop_base (t : Tile) (p : Nat) (w : IWord) : (t.recordLoop p w).base = t.base := (congrArg Tile.base (Tile.recordLoop_frame t p w) :)
@[simp] theorem Tile.recordLoop_lscs (t : Tile) (p : Nat) (w : IWord) : (t.recordLoop p w).lscs = t.lscs := (congrArg Tile.lscs (Tile.recordLoop_frame t p w) :)
@[simp] theorem Tile.recordLoop_slots (t : Tile) (p : Nat) (w : IWord) : (t.recordLoop p w).slots = t.slots := (congrArg Tile.slots (Tile.recordLoop_frame t p w) :)
@[simp] theorem Tile.recordLoop_rqs (t : Tile) (p : Nat) (w : IWord) : (t.recordLoop p w).rqs = t.rqs := (congrArg Tile.rqs (Tile.recordLoop_frame t p w) :)
@[simp] theorem Tile.recordLoop_scs (t : Tile) (p : Nat) (w : IWord) : (t.recordLoop p w).scs = t.scs := (congrArg Tile.scs (Tile.recordLoop_frame t p w) :)
@[simp] theorem Tile.recordLoop_badTab (t : Tile) (p : Nat) (w : IWord) : (t.recordLoop p w).badTab = t.badTab := (congrArg Tile.badTab (Tile.recordLoop_frame t p w) :)
@[simp] theorem Tile.recordLoop_badAcc (t : Tile) (p : Nat) (w : IWord) : (t.recordLoop p w).badAcc = t.badAcc := (congrArg Tile.badAcc (Tile.recordLoop_frame t p w) :)
@[simp] theorem Tile.recordLoop_almTbl (t : Tile) (p : Nat) (w : IWord) : (t.recordLoop p w).almTbl = t.almTbl := (congrArg Tile.almTbl (Tile.recordLoop_frame t p w) :)
@[simp] theorem Tile.recordLoop_almChan (t : Tile) (p : Nat) (w : IWord) : (t.recordLoop p w).almChan = t.almChan := (congrArg Tile.almChan (Tile.recordLoop_frame t p w) :)
@[simp] theorem Tile.recordLoop_hb (t : Tile) (p : Nat) (w : IWord) : (t.recordLoop p w).hb = t.hb := (congrArg Tile.hb (Tile.recordLoop_frame t p w) :)
@[simp] theorem Tile.recordLoop_gwait (t : Tile) (p : Nat) (w : IWord) : (t.recordLoop p w).gwait = t.gwait := (congrArg Tile.gwait (Tile.recordLoop_frame t p w) :)
@[simp] theorem Tile.recordLoop_dev (t : Tile) (p : Nat) (w : IWord) : (t.recordLoop p w).dev = t.dev := (congrArg Tile.dev (Tile.recordLoop_frame t p w) :)
@[simp] theorem Tile.recordLoop_tfr (t : Tile) (p : Nat) (w : IWord) : (t.recordLoop p w).tfr = t.tfr := (congrArg Tile.tfr (Tile.recordLoop_frame t p w) :)
@[simp] theorem Tile.recordLoop_cnt (t : Tile) (p : Nat) (w : IWord) : (t.recordLoop p w).cnt = t.cnt := (congrArg Tile.cnt (Tile.recordLoop_frame t p w) :)
@[simp] theorem Tile.recordLoop_took (t : Tile) (p : Nat) (w : IWord) : (t.recordLoop p w).took = t.took := (congrArg Tile.took (Tile.recordLoop_frame t p w) :)

theorem Tile.prune_frame (t : Tile) (c : Nat) : t.prune c = { t with engs := (t.prune c).engs } := rfl

@[simp] theorem Tile.prune_tsq (t : Tile) (c : Nat) : (t.prune c).tsq = t.tsq := rfl
@[simp] theorem Tile.prune_tm (t : Tile) (c : Nat) : (t.prune c).tm = t.tm := rfl
@[simp] theorem Tile.prune_mem (t : Tile) (c : Nat) : (t.prune c).mem = t.mem := rfl
@[simp] theorem Tile.prune_bad (t : Tile) (c : Nat) : (t.prune c).bad = t.bad := rfl
@[simp] theorem Tile.prune_soft (t : Tile) (c : Nat) : (t.prune c).soft = t.soft := rfl
@[simp] theorem Tile.prune_cfg (t : Tile) (c : Nat) : (t.prune c).cfg = t.cfg := rfl
@[simp] theorem Tile.prune_tab (t : Tile) (c : Nat) : (t.prune c).tab = t.tab := rfl
@[simp] theorem Tile.prune_ptrs (t : Tile) (c : Nat) : (t.prune c).ptrs = t.ptrs := rfl
@[simp] theorem Tile.prune_vs (t : Tile) (c : Nat) : (t.prune c).vs = t.vs := rfl
@[simp] theorem Tile.prune_mxe (t : Tile) (c : Nat) : (t.prune c).mxe = t.mxe := rfl
@[simp] theorem Tile.prune_rng (t : Tile) (c : Nat) : (t.prune c).rng = t.rng := rfl
@[simp] theorem Tile.prune_sched (t : Tile) (c : Nat) : (t.prune c).sched = t.sched := rfl
@[simp] theorem Tile.prune_pipe (t : Tile) (c : Nat) : (t.prune c).pipe = t.pipe := rfl
@[simp] theorem Tile.prune_acts (t : Tile) (c : Nat) : (t.prune c).acts = t.acts := rfl
@[simp] theorem Tile.prune_base (t : Tile) (c : Nat) : (t.prune c).base = t.base := rfl
@[simp] theorem Tile.prune_lscs (t : Tile) (c : Nat) : (t.prune c).lscs = t.lscs := rfl
@[simp] theorem Tile.prune_slots (t : Tile) (c : Nat) : (t.prune c).slots = t.slots := rfl
@[simp] theorem Tile.prune_rqs (t : Tile) (c : Nat) : (t.prune c).rqs = t.rqs := rfl
@[simp] theorem Tile.prune_scs (t : Tile) (c : Nat) : (t.prune c).scs = t.scs := rfl
@[simp] theorem Tile.prune_badTab (t : Tile) (c : Nat) : (t.prune c).badTab = t.badTab := rfl
@[simp] theorem Tile.prune_badAcc (t : Tile) (c : Nat) : (t.prune c).badAcc = t.badAcc := rfl
@[simp] theorem Tile.prune_almTbl (t : Tile) (c : Nat) : (t.prune c).almTbl = t.almTbl := rfl
@[simp] theorem Tile.prune_almChan (t : Tile) (c : Nat) : (t.prune c).almChan = t.almChan := rfl
@[simp] theorem Tile.prune_hb (t : Tile) (c : Nat) : (t.prune c).hb = t.hb := rfl
@[simp] theorem Tile.prune_gwait (t : Tile) (c : Nat) : (t.prune c).gwait = t.gwait := rfl
@[simp] theorem Tile.prune_dev (t : Tile) (c : Nat) : (t.prune c).dev = t.dev := rfl
@[simp] theorem Tile.prune_tfr (t : Tile) (c : Nat) : (t.prune c).tfr = t.tfr := rfl
@[simp] theorem Tile.prune_cnt (t : Tile) (c : Nat) : (t.prune c).cnt = t.cnt := rfl
@[simp] theorem Tile.prune_took (t : Tile) (c : Nat) : (t.prune c).took = t.took := rfl

theorem Tile.tsqAct_frame (t : Tile) (c y p : Nat) (e : Eff) : t.tsqAct c y p e = { t with acts := (t.tsqAct c y p e).acts, base := (t.tsqAct c y p e).base } := rfl

@[simp] theorem Tile.tsqAct_tsq (t : Tile) (c y p : Nat) (e : Eff) : (t.tsqAct c y p e).tsq = t.tsq := rfl
@[simp] theorem Tile.tsqAct_tm (t : Tile) (c y p : Nat) (e : Eff) : (t.tsqAct c y p e).tm = t.tm := rfl
@[simp] theorem Tile.tsqAct_mem (t : Tile) (c y p : Nat) (e : Eff) : (t.tsqAct c y p e).mem = t.mem := rfl
@[simp] theorem Tile.tsqAct_bad (t : Tile) (c y p : Nat) (e : Eff) : (t.tsqAct c y p e).bad = t.bad := rfl
@[simp] theorem Tile.tsqAct_soft (t : Tile) (c y p : Nat) (e : Eff) : (t.tsqAct c y p e).soft = t.soft := rfl
@[simp] theorem Tile.tsqAct_cfg (t : Tile) (c y p : Nat) (e : Eff) : (t.tsqAct c y p e).cfg = t.cfg := rfl
@[simp] theorem Tile.tsqAct_tab (t : Tile) (c y p : Nat) (e : Eff) : (t.tsqAct c y p e).tab = t.tab := rfl
@[simp] theorem Tile.tsqAct_ptrs (t : Tile) (c y p : Nat) (e : Eff) : (t.tsqAct c y p e).ptrs = t.ptrs := rfl
@[simp] theorem Tile.tsqAct_vs (t : Tile) (c y p : Nat) (e : Eff) : (t.tsqAct c y p e).vs = t.vs := rfl
@[simp] theorem Tile.tsqAct_mxe (t : Tile) (c y p : Nat) (e : Eff) : (t.tsqAct c y p e).mxe = t.mxe := rfl
@[simp] theorem Tile.tsqAct_engs (t : Tile) (c y p : Nat) (e : Eff) : (t.tsqAct c y p e).engs = t.engs := rfl
@[simp] theorem Tile.tsqAct_rng (t : Tile) (c y p : Nat) (e : Eff) : (t.tsqAct c y p e).rng = t.rng := rfl
@[simp] theorem Tile.tsqAct_sched (t : Tile) (c y p : Nat) (e : Eff) : (t.tsqAct c y p e).sched = t.sched := rfl
@[simp] theorem Tile.tsqAct_pipe (t : Tile) (c y p : Nat) (e : Eff) : (t.tsqAct c y p e).pipe = t.pipe := rfl
@[simp] theorem Tile.tsqAct_lscs (t : Tile) (c y p : Nat) (e : Eff) : (t.tsqAct c y p e).lscs = t.lscs := rfl
@[simp] theorem Tile.tsqAct_slots (t : Tile) (c y p : Nat) (e : Eff) : (t.tsqAct c y p e).slots = t.slots := rfl
@[simp] theorem Tile.tsqAct_rqs (t : Tile) (c y p : Nat) (e : Eff) : (t.tsqAct c y p e).rqs = t.rqs := rfl
@[simp] theorem Tile.tsqAct_scs (t : Tile) (c y p : Nat) (e : Eff) : (t.tsqAct c y p e).scs = t.scs := rfl
@[simp] theorem Tile.tsqAct_badTab (t : Tile) (c y p : Nat) (e : Eff) : (t.tsqAct c y p e).badTab = t.badTab := rfl
@[simp] theorem Tile.tsqAct_badAcc (t : Tile) (c y p : Nat) (e : Eff) : (t.tsqAct c y p e).badAcc = t.badAcc := rfl
@[simp] theorem Tile.tsqAct_almTbl (t : Tile) (c y p : Nat) (e : Eff) : (t.tsqAct c y p e).almTbl = t.almTbl := rfl
@[simp] theorem Tile.tsqAct_almChan (t : Tile) (c y p : Nat) (e : Eff) : (t.tsqAct c y p e).almChan = t.almChan := rfl
@[simp] theorem Tile.tsqAct_hb (t : Tile) (c y p : Nat) (e : Eff) : (t.tsqAct c y p e).hb = t.hb := rfl
@[simp] theorem Tile.tsqAct_gwait (t : Tile) (c y p : Nat) (e : Eff) : (t.tsqAct c y p e).gwait = t.gwait := rfl
@[simp] theorem Tile.tsqAct_dev (t : Tile) (c y p : Nat) (e : Eff) : (t.tsqAct c y p e).dev = t.dev := rfl
@[simp] theorem Tile.tsqAct_tfr (t : Tile) (c y p : Nat) (e : Eff) : (t.tsqAct c y p e).tfr = t.tfr := rfl
@[simp] theorem Tile.tsqAct_cnt (t : Tile) (c y p : Nat) (e : Eff) : (t.tsqAct c y p e).cnt = t.cnt := rfl
@[simp] theorem Tile.tsqAct_took (t : Tile) (c y p : Nat) (e : Eff) : (t.tsqAct c y p e).took = t.took := rfl

theorem Tile.startKernel_frame (t : Tile) (m : CuffMode) (x : Nat) : t.startKernel m x = { t with tsq := (t.startKernel m x).tsq, tm := (t.startKernel m x).tm } := by unfold Tile.startKernel; split <;> rfl

@[simp] theorem Tile.startKernel_mem (t : Tile) (m : CuffMode) (x : Nat) : (t.startKernel m x).mem = t.mem := (congrArg Tile.mem (Tile.startKernel_frame t m x) :)
@[simp] theorem Tile.startKernel_bad (t : Tile) (m : CuffMode) (x : Nat) : (t.startKernel m x).bad = t.bad := (congrArg Tile.bad (Tile.startKernel_frame t m x) :)
@[simp] theorem Tile.startKernel_soft (t : Tile) (m : CuffMode) (x : Nat) : (t.startKernel m x).soft = t.soft := (congrArg Tile.soft (Tile.startKernel_frame t m x) :)
@[simp] theorem Tile.startKernel_cfg (t : Tile) (m : CuffMode) (x : Nat) : (t.startKernel m x).cfg = t.cfg := (congrArg Tile.cfg (Tile.startKernel_frame t m x) :)
@[simp] theorem Tile.startKernel_tab (t : Tile) (m : CuffMode) (x : Nat) : (t.startKernel m x).tab = t.tab := (congrArg Tile.tab (Tile.startKernel_frame t m x) :)
@[simp] theorem Tile.startKernel_ptrs (t : Tile) (m : CuffMode) (x : Nat) : (t.startKernel m x).ptrs = t.ptrs := (congrArg Tile.ptrs (Tile.startKernel_frame t m x) :)
@[simp] theorem Tile.startKernel_vs (t : Tile) (m : CuffMode) (x : Nat) : (t.startKernel m x).vs = t.vs := (congrArg Tile.vs (Tile.startKernel_frame t m x) :)
@[simp] theorem Tile.startKernel_mxe (t : Tile) (m : CuffMode) (x : Nat) : (t.startKernel m x).mxe = t.mxe := (congrArg Tile.mxe (Tile.startKernel_frame t m x) :)
@[simp] theorem Tile.startKernel_engs (t : Tile) (m : CuffMode) (x : Nat) : (t.startKernel m x).engs = t.engs := (congrArg Tile.engs (Tile.startKernel_frame t m x) :)
@[simp] theorem Tile.startKernel_rng (t : Tile) (m : CuffMode) (x : Nat) : (t.startKernel m x).rng = t.rng := (congrArg Tile.rng (Tile.startKernel_frame t m x) :)
@[simp] theorem Tile.startKernel_sched (t : Tile) (m : CuffMode) (x : Nat) : (t.startKernel m x).sched = t.sched := (congrArg Tile.sched (Tile.startKernel_frame t m x) :)
@[simp] theorem Tile.startKernel_pipe (t : Tile) (m : CuffMode) (x : Nat) : (t.startKernel m x).pipe = t.pipe := (congrArg Tile.pipe (Tile.startKernel_frame t m x) :)
@[simp] theorem Tile.startKernel_acts (t : Tile) (m : CuffMode) (x : Nat) : (t.startKernel m x).acts = t.acts := (congrArg Tile.acts (Tile.startKernel_frame t m x) :)
@[simp] theorem Tile.startKernel_base (t : Tile) (m : CuffMode) (x : Nat) : (t.startKernel m x).base = t.base := (congrArg Tile.base (Tile.startKernel_frame t m x) :)
@[simp] theorem Tile.startKernel_lscs (t : Tile) (m : CuffMode) (x : Nat) : (t.startKernel m x).lscs = t.lscs := (congrArg Tile.lscs (Tile.startKernel_frame t m x) :)
@[simp] theorem Tile.startKernel_slots (t : Tile) (m : CuffMode) (x : Nat) : (t.startKernel m x).slots = t.slots := (congrArg Tile.slots (Tile.startKernel_frame t m x) :)
@[simp] theorem Tile.startKernel_rqs (t : Tile) (m : CuffMode) (x : Nat) : (t.startKernel m x).rqs = t.rqs := (congrArg Tile.rqs (Tile.startKernel_frame t m x) :)
@[simp] theorem Tile.startKernel_scs (t : Tile) (m : CuffMode) (x : Nat) : (t.startKernel m x).scs = t.scs := (congrArg Tile.scs (Tile.startKernel_frame t m x) :)
@[simp] theorem Tile.startKernel_badTab (t : Tile) (m : CuffMode) (x : Nat) : (t.startKernel m x).badTab = t.badTab := (congrArg Tile.badTab (Tile.startKernel_frame t m x) :)
@[simp] theorem Tile.startKernel_badAcc (t : Tile) (m : CuffMode) (x : Nat) : (t.startKernel m x).badAcc = t.badAcc := (congrArg Tile.badAcc (Tile.startKernel_frame t m x) :)
@[simp] theorem Tile.startKernel_almTbl (t : Tile) (m : CuffMode) (x : Nat) : (t.startKernel m x).almTbl = t.almTbl := (congrArg Tile.almTbl (Tile.startKernel_frame t m x) :)
@[simp] theorem Tile.startKernel_almChan (t : Tile) (m : CuffMode) (x : Nat) : (t.startKernel m x).almChan = t.almChan := (congrArg Tile.almChan (Tile.startKernel_frame t m x) :)
@[simp] theorem Tile.startKernel_hb (t : Tile) (m : CuffMode) (x : Nat) : (t.startKernel m x).hb = t.hb := (congrArg Tile.hb (Tile.startKernel_frame t m x) :)
@[simp] theorem Tile.startKernel_gwait (t : Tile) (m : CuffMode) (x : Nat) : (t.startKernel m x).gwait = t.gwait := (congrArg Tile.gwait (Tile.startKernel_frame t m x) :)
@[simp] theorem Tile.startKernel_dev (t : Tile) (m : CuffMode) (x : Nat) : (t.startKernel m x).dev = t.dev := (congrArg Tile.dev (Tile.startKernel_frame t m x) :)
@[simp] theorem Tile.startKernel_tfr (t : Tile) (m : CuffMode) (x : Nat) : (t.startKernel m x).tfr = t.tfr := (congrArg Tile.tfr (Tile.startKernel_frame t m x) :)
@[simp] theorem Tile.startKernel_cnt (t : Tile) (m : CuffMode) (x : Nat) : (t.startKernel m x).cnt = t.cnt := (congrArg Tile.cnt (Tile.startKernel_frame t m x) :)
@[simp] theorem Tile.startKernel_took (t : Tile) (m : CuffMode) (x : Nat) : (t.startKernel m x).took = t.took := (congrArg Tile.took (Tile.startKernel_frame t m x) :)

theorem Tile.dropKernel_frame (t : Tile) : t.dropKernel = { t with tsq := (t.dropKernel).tsq } := rfl

@[simp] theorem Tile.dropKernel_tm (t : Tile) : (t.dropKernel).tm = t.tm := rfl
@[simp] theorem Tile.dropKernel_mem (t : Tile) : (t.dropKernel).mem = t.mem := rfl
@[simp] theorem Tile.dropKernel_bad (t : Tile) : (t.dropKernel).bad = t.bad := rfl
@[simp] theorem Tile.dropKernel_soft (t : Tile) : (t.dropKernel).soft = t.soft := rfl
@[simp] theorem Tile.dropKernel_cfg (t : Tile) : (t.dropKernel).cfg = t.cfg := rfl
@[simp] theorem Tile.dropKernel_tab (t : Tile) : (t.dropKernel).tab = t.tab := rfl
@[simp] theorem Tile.dropKernel_ptrs (t : Tile) : (t.dropKernel).ptrs = t.ptrs := rfl
@[simp] theorem Tile.dropKernel_vs (t : Tile) : (t.dropKernel).vs = t.vs := rfl
@[simp] theorem Tile.dropKernel_mxe (t : Tile) : (t.dropKernel).mxe = t.mxe := rfl
@[simp] theorem Tile.dropKernel_engs (t : Tile) : (t.dropKernel).engs = t.engs := rfl
@[simp] theorem Tile.dropKernel_rng (t : Tile) : (t.dropKernel).rng = t.rng := rfl
@[simp] theorem Tile.dropKernel_sched (t : Tile) : (t.dropKernel).sched = t.sched := rfl
@[simp] theorem Tile.dropKernel_pipe (t : Tile) : (t.dropKernel).pipe = t.pipe := rfl
@[simp] theorem Tile.dropKernel_acts (t : Tile) : (t.dropKernel).acts = t.acts := rfl
@[simp] theorem Tile.dropKernel_base (t : Tile) : (t.dropKernel).base = t.base := rfl
@[simp] theorem Tile.dropKernel_lscs (t : Tile) : (t.dropKernel).lscs = t.lscs := rfl
@[simp] theorem Tile.dropKernel_slots (t : Tile) : (t.dropKernel).slots = t.slots := rfl
@[simp] theorem Tile.dropKernel_rqs (t : Tile) : (t.dropKernel).rqs = t.rqs := rfl
@[simp] theorem Tile.dropKernel_scs (t : Tile) : (t.dropKernel).scs = t.scs := rfl
@[simp] theorem Tile.dropKernel_badTab (t : Tile) : (t.dropKernel).badTab = t.badTab := rfl
@[simp] theorem Tile.dropKernel_badAcc (t : Tile) : (t.dropKernel).badAcc = t.badAcc := rfl
@[simp] theorem Tile.dropKernel_almTbl (t : Tile) : (t.dropKernel).almTbl = t.almTbl := rfl
@[simp] theorem Tile.dropKernel_almChan (t : Tile) : (t.dropKernel).almChan = t.almChan := rfl
@[simp] theorem Tile.dropKernel_hb (t : Tile) : (t.dropKernel).hb = t.hb := rfl
@[simp] theorem Tile.dropKernel_gwait (t : Tile) : (t.dropKernel).gwait = t.gwait := rfl
@[simp] theorem Tile.dropKernel_dev (t : Tile) : (t.dropKernel).dev = t.dev := rfl
@[simp] theorem Tile.dropKernel_tfr (t : Tile) : (t.dropKernel).tfr = t.tfr := rfl
@[simp] theorem Tile.dropKernel_cnt (t : Tile) : (t.dropKernel).cnt = t.cnt := rfl
@[simp] theorem Tile.dropKernel_took (t : Tile) : (t.dropKernel).took = t.took := rfl

theorem Tile.yieldTo_frame (t : Tile) (c : Nat) : t.yieldTo c = { t with tsq := (t.yieldTo c).tsq } := rfl

@[simp] theorem Tile.yieldTo_tm (t : Tile) (c : Nat) : (t.yieldTo c).tm = t.tm := rfl
@[simp] theorem Tile.yieldTo_mem (t : Tile) (c : Nat) : (t.yieldTo c).mem = t.mem := rfl
@[simp] theorem Tile.yieldTo_bad (t : Tile) (c : Nat) : (t.yieldTo c).bad = t.bad := rfl
@[simp] theorem Tile.yieldTo_soft (t : Tile) (c : Nat) : (t.yieldTo c).soft = t.soft := rfl
@[simp] theorem Tile.yieldTo_cfg (t : Tile) (c : Nat) : (t.yieldTo c).cfg = t.cfg := rfl
@[simp] theorem Tile.yieldTo_tab (t : Tile) (c : Nat) : (t.yieldTo c).tab = t.tab := rfl
@[simp] theorem Tile.yieldTo_ptrs (t : Tile) (c : Nat) : (t.yieldTo c).ptrs = t.ptrs := rfl
@[simp] theorem Tile.yieldTo_vs (t : Tile) (c : Nat) : (t.yieldTo c).vs = t.vs := rfl
@[simp] theorem Tile.yieldTo_mxe (t : Tile) (c : Nat) : (t.yieldTo c).mxe = t.mxe := rfl
@[simp] theorem Tile.yieldTo_engs (t : Tile) (c : Nat) : (t.yieldTo c).engs = t.engs := rfl
@[simp] theorem Tile.yieldTo_rng (t : Tile) (c : Nat) : (t.yieldTo c).rng = t.rng := rfl
@[simp] theorem Tile.yieldTo_sched (t : Tile) (c : Nat) : (t.yieldTo c).sched = t.sched := rfl
@[simp] theorem Tile.yieldTo_pipe (t : Tile) (c : Nat) : (t.yieldTo c).pipe = t.pipe := rfl
@[simp] theorem Tile.yieldTo_acts (t : Tile) (c : Nat) : (t.yieldTo c).acts = t.acts := rfl
@[simp] theorem Tile.yieldTo_base (t : Tile) (c : Nat) : (t.yieldTo c).base = t.base := rfl
@[simp] theorem Tile.yieldTo_lscs (t : Tile) (c : Nat) : (t.yieldTo c).lscs = t.lscs := rfl
@[simp] theorem Tile.yieldTo_slots (t : Tile) (c : Nat) : (t.yieldTo c).slots = t.slots := rfl
@[simp] theorem Tile.yieldTo_rqs (t : Tile) (c : Nat) : (t.yieldTo c).rqs = t.rqs := rfl
@[simp] theorem Tile.yieldTo_scs (t : Tile) (c : Nat) : (t.yieldTo c).scs = t.scs := rfl
@[simp] theorem Tile.yieldTo_badTab (t : Tile) (c : Nat) : (t.yieldTo c).badTab = t.badTab := rfl
@[simp] theorem Tile.yieldTo_badAcc (t : Tile) (c : Nat) : (t.yieldTo c).badAcc = t.badAcc := rfl
@[simp] theorem Tile.yieldTo_almTbl (t : Tile) (c : Nat) : (t.yieldTo c).almTbl = t.almTbl := rfl
@[simp] theorem Tile.yieldTo_almChan (t : Tile) (c : Nat) : (t.yieldTo c).almChan = t.almChan := rfl
@[simp] theorem Tile.yieldTo_hb (t : Tile) (c : Nat) : (t.yieldTo c).hb = t.hb := rfl
@[simp] theorem Tile.yieldTo_gwait (t : Tile) (c : Nat) : (t.yieldTo c).gwait = t.gwait := rfl
@[simp] theorem Tile.yieldTo_dev (t : Tile) (c : Nat) : (t.yieldTo c).dev = t.dev := rfl
@[simp] theorem Tile.yieldTo_tfr (t : Tile) (c : Nat) : (t.yieldTo c).tfr = t.tfr := rfl
@[simp] theorem Tile.yieldTo_cnt (t : Tile) (c : Nat) : (t.yieldTo c).cnt = t.cnt := rfl
@[simp] theorem Tile.yieldTo_took (t : Tile) (c : Nat) : (t.yieldTo c).took = t.took := rfl

/-! ## Acts -/

/-- What no act changes: a tile without what acts find in it and leave. -/
def Tile.outer (t : Tile) : Tile := { t.withCore {} with base := none }

@[simp] theorem Tile.fault_outer (t : Tile) (c u e p y a b : Nat) : (t.fault c u e p y a b).outer = t.outer := by rw [Tile.fault_frame]; rfl
@[simp] theorem Tile.flag_outer (t : Tile) (f : NFlags) : (t.flag f).outer = t.outer := by rw [Tile.flag_frame]; rfl
@[simp] theorem Tile.flagOnly_outer (t : Tile) (f : NFlags) : (t.flagOnly f).outer = t.outer := by rw [Tile.flagOnly_frame]; rfl
@[simp] theorem Tile.nfMxe_outer (t : Tile) (n : Nat) : (t.nfMxe n).outer = t.outer := by rw [Tile.nfMxe_frame]; rfl
@[simp] theorem Tile.nfVxe_outer (t : Tile) (n : Nat) : (t.nfVxe n).outer = t.outer := by rw [Tile.nfVxe_frame]; rfl
@[simp] theorem Tile.eccSeen_outer (t : Tile) (k : Nat) (u : Bool) (n : Nat) : (t.eccSeen k u n).outer = t.outer := by rw [Tile.eccSeen_frame]; rfl
@[simp] theorem Tile.seen_outer (t : Tile) (a n : Nat) : (t.seen a n).outer = t.outer := by rw [Tile.seen_frame]; rfl
@[simp] theorem Tile.poke_outer (t : Tile) (a : Nat) (ws : List Word) : (t.poke a ws).outer = t.outer := by rw [Tile.poke_frame]; rfl
@[simp] theorem Tile.putLine_outer (t : Tile) (c k : Nat) (ws : List Word) : (t.putLine c k ws).outer = t.outer := by rw [Tile.putLine_frame]; rfl
@[simp] theorem Tile.putVals_outer (t : Tile) (c k : Nat) (xs : List Nat) : (t.putVals c k xs).outer = t.outer := by rw [Tile.putVals_frame]; rfl
@[simp] theorem Tile.holdBank_outer (t : Tile) (w : Who) (y a : Nat) : (t.holdBank w y a).outer = t.outer := by rw [Tile.holdBank_frame]; rfl
@[simp] theorem Tile.draws_outer (t : Tile) (e : Env) (y k n : Nat) : ((t.draws e y k n).2).outer = t.outer := by rw [Tile.draws_frame]; rfl
@[simp] theorem Tile.storeDraws_outer (t : Tile) (e : Env) (p : Ptr) (y k n : Nat) (c : Bool) : ((t.storeDraws e p y k n c).2).outer = t.outer := by rw [Tile.storeDraws_frame]; rfl
@[simp] theorem Tile.record_outer (t : Tile) (c u e p y a b : Nat) : (t.record c u e p y a b).outer = t.outer := by rw [Tile.record_frame]; rfl
@[simp] theorem Tile.setMxe_outer (t : Tile) (m : Mxe) : (t.setMxe m).outer = t.outer := by rw [Tile.setMxe_frame]; rfl
@[simp] theorem Tile.setCnt_outer (t : Tile) (c : TCnt) : (t.setCnt c).outer = t.outer := by rw [Tile.setCnt_frame]; rfl
@[simp] theorem Tile.setSched_outer (t : Tile) (l : List Sched) : (t.setSched l).outer = t.outer := by rw [Tile.setSched_frame]; rfl
@[simp] theorem Tile.erase_outer (t : Tile) (c y d : Nat) : (t.erase c y d).outer = t.outer := by rw [Tile.erase_frame]; rfl

/-- A fold of steps that leave a tile's outer part alone leaves it alone. -/
theorem Tile.outer_foldl {α : Type} (f : Tile → α → Tile) (h : ∀ t x, (f t x).outer = t.outer) (l : List α) (t : Tile) : (l.foldl f t).outer = t.outer := by
  induction l generalizing t with
  | nil => rfl
  | cons x r ih => rw [List.foldl_cons, ih, h]

@[simp] theorem Tile.accWords_outer (nc : NumCfg) (w : Who) (y a : Nat) (ws : List Word) (t : Tile) : (Tile.accWords nc w y a ws t).outer = t.outer := by
  induction ws generalizing t a with
  | nil => rfl
  | cons x r ih =>
    unfold Tile.accWords
    simp only
    rw [ih]
    split <;> simp

@[simp] theorem Tile.mmaGroup_outer (t : Tile) (o : Mxe) (x : MmaIn) (a : Nat) (c : Bool) (g : Nat) : (t.mmaGroup o x a c g).1.outer = t.outer := by
  unfold Tile.mmaGroup; simp only; split <;> rfl

@[simp] theorem Tile.mmaCalc_outer (t : Tile) (o : Mxe) (f : Flow) (k y n : Nat) : (t.mmaCalc o f k y n).outer = t.outer := by
  unfold Tile.mmaCalc
  dsimp only
  repeat' split
  all_goals simp

@[simp] theorem Tile.ldCalc_outer (t : Tile) (f : Flow) (k n : Nat) : (t.ldCalc f k n).outer = t.outer := by
  unfold Tile.ldCalc
  dsimp only
  repeat' split
  all_goals simp

@[simp] theorem Tile.stLine_outer (t : Tile) (f : Flow) (y n : Nat) : (t.stLine f y n).2.outer = t.outer := by
  unfold Tile.stLine
  dsimp only
  repeat' split
  all_goals simp

@[simp] theorem Tile.zeroCalc_outer (t : Tile) (f : Flow) : (t.zeroCalc f).outer = t.outer := by unfold Tile.zeroCalc; exact Tile.setMxe_outer _ _

@[simp] theorem Tile.copyCalc_outer (t : Tile) (o : Mxe) (f : Flow) (k : Nat) : (t.copyCalc o f k).outer = t.outer := by
  unfold Tile.copyCalc; exact (Tile.putVals_outer _ _ _ _).trans (Tile.setMxe_outer _ _)

@[simp] theorem Tile.pushCalc_outer (t : Tile) (o : Mxe) (f : Flow) (y : Nat) : (t.pushCalc o f y).outer = t.outer := by
  unfold Tile.pushCalc; dsimp only; split <;> simp

@[simp] theorem Tile.chkCalc_outer (t : Tile) (o : Mxe) (f : Flow) (k y n : Nat) : (t.chkCalc o f k y n).outer = t.outer := by
  unfold Tile.chkCalc
  repeat' split
  all_goals simp

@[simp] theorem Tile.mxCalc_outer (t : Tile) (o : Mxe) (f : Flow) (k y n : Nat) : (t.mxCalc o f k y n).outer = t.outer := by
  unfold Tile.mxCalc
  split <;> simp

@[simp] theorem Tile.vxEnter_outer (t : Tile) (o : Mxe) (f : Flow) (s : VShape) (r y a b : Nat) : (t.vxEnter o f s r y a b).2.outer = t.outer := by
  unfold Tile.vxEnter
  dsimp only
  repeat' split
  all_goals simp

@[simp] theorem Tile.vxConvert_outer (t : Tile) (f : Flow) (y w : Nat) (v : VStream) (es : List VElem) : (t.vxConvert f y w v es).2.outer = t.outer := by
  unfold Tile.vxConvert
  dsimp only
  repeat' split
  all_goals simp

@[simp] theorem Tile.vxAccStore_outer (t : Tile) (l : Nat → Bool) (v : VStream) (n : Nat) (es : List VElem) : (t.vxAccStore l v n es).outer = t.outer := by
  unfold Tile.vxAccStore
  apply Tile.outer_foldl
  intro t x
  dsimp only
  repeat' split
  all_goals simp

@[simp] theorem Tile.vxCalc_outer (t : Tile) (o : Mxe) (l : Nat → Bool) (f : Flow) (k y n : Nat) : (t.vxCalc o l f k y n).outer = t.outer := by
  unfold Tile.vxCalc
  dsimp only
  repeat' split
  all_goals simp

@[simp] theorem Tile.smxRowCalc_outer (t : Tile) (l : Nat → Bool) (f : Flow) (s : VShape) (k r : Nat) : (t.smxRowCalc l f s k r).outer = t.outer := by
  unfold Tile.smxRowCalc
  dsimp only
  repeat' split
  all_goals simp

@[simp] theorem Tile.vxPart_outer (t : Tile) (o : Mxe) (l : Nat → Bool) (f : Flow) (k y n : Nat) : (t.vxPart o l f k y n).outer = t.outer := by
  unfold Tile.vxPart Tile.smxCalc
  dsimp only
  repeat' split
  all_goals simp

@[simp] theorem Tile.vxLine_outer (t : Tile) (f : Flow) (y n : Nat) : (t.vxLine f y n).2.2.outer = t.outer := by
  unfold Tile.vxLine; simp

@[simp] theorem Tile.smxLine_outer (t : Tile) (f : Flow) (y n : Nat) : (t.smxLine f y n).2.2.outer = t.outer := by
  unfold Tile.smxLine; simp

@[simp] theorem Tile.putLines_outer (t : Tile) (c k : Nat) (ls : List (List Word)) : (t.putLines c k ls).outer = t.outer := by
  unfold Tile.putLines
  exact Tile.outer_foldl _ (fun t x => by simp) _ t

@[simp] theorem Tile.p7Calc_outer (t : Tile) (f : Flow) (c k : Nat) : (t.p7Calc f c k).outer = t.outer := by
  unfold Tile.p7Calc Tile.trCalc Tile.zmapCalc Tile.cmpCalc Tile.routeCalc Tile.packCalc Tile.voteCalc
  dsimp only
  repeat' split
  all_goals simp

@[simp] theorem Tile.workAct_outer (t : Tile) (o : Mxe) (l : Nat → Bool) (a : Act) : (t.workAct o l a).outer = t.outer := by
  unfold Tile.workAct Tile.sendCalc
  dsimp only
  repeat' split
  all_goals simp

@[simp] theorem Tile.works_outer (t : Tile) (as : List Act) : (t.works as).outer = t.outer := by
  unfold Tile.works
  exact Tile.outer_foldl _ (fun t x => by simp) _ t

@[simp] theorem Tile.outWords_outer (t : Tile) (a : Act) (n : Nat) (ok : Bool) : (t.outWords a n ok).2.outer = t.outer := by
  unfold Tile.outWords Tile.rndLine
  dsimp only
  repeat' split
  all_goals simp

@[simp] theorem Tile.writeReq_outer (t : Tile) (c : Nat) (x : Req) (ok : Bool) : (t.writeReq c x ok).outer = t.outer := by
  unfold Tile.writeReq
  dsimp only
  repeat' split
  all_goals simp

@[simp] theorem Tile.readsReq_outer (t : Tile) (c : Nat) (r : Option (Nat × Nat)) (x : Req) (ok : Bool) : (t.readsReq c r x ok).outer = t.outer := by
  unfold Tile.readsReq Tile.readReq
  repeat' split
  all_goals simp

@[simp] theorem Tile.accessFaults_outer (t : Tile) (c : Nat) (rs : List Req) : (t.accessFaults c rs).outer = t.outer := by
  unfold Tile.accessFaults
  dsimp only
  rw [Tile.outer_foldl _ (fun t x => by repeat' split
                                        all_goals simp), Tile.outer_foldl _ (fun t b => Tile.outer_foldl _ (fun t x => by simp) _ t),
    Tile.outer_foldl _ (fun t x => Tile.outer_foldl _ (fun t r => by simp) _ t)]

/-- What a cycle changes is what acts find: nothing else of the tile. -/
@[simp] theorem Tile.playCyc_outer (t : Tile) (c : Nat) (as : List Act) : (t.playCyc c as).outer = t.outer := by
  have h : ∀ x : Tile, (if as.any fun a => a.eff == .commit then { x with rng := [] } else x).outer = x.outer := by intro x; split <;> rfl
  unfold Tile.playCyc
  dsimp only
  rw [h, Tile.outer_foldl _ (fun t a => by split <;> simp), Tile.outer_foldl _ (fun t p => Tile.outer_foldl _ (fun t x => Tile.writeReq_outer _ _ _ _) _ t), Tile.works_outer,
    Tile.outer_foldl _ (fun t x => Tile.readsReq_outer _ _ _ _ _)]
  exact Tile.accessFaults_outer t c _

/-- Acts change nothing but what acts find. -/
@[simp] theorem Tile.play_outer (n : Nat) (as : List Act) (t : Tile) : (Tile.play n as t).outer = t.outer := by
  induction n generalizing as t with
  | zero => rfl
  | succ n ih =>
    cases as with
    | nil => rfl
    | cons a r => unfold Tile.play; rw [ih, Tile.playCyc_outer]

/-- A tile is its outer part with its core and what its acts start from. -/
theorem Tile.outer_core (t : Tile) : t = { t.outer.withCore t.core with base := t.base } := rfl


@[simp] theorem Tile.play_tsq (n : Nat) (as : List Act) (t : Tile) : (Tile.play n as t).tsq = t.tsq := (congrArg Tile.tsq (Tile.play_outer n as t) :)
@[simp] theorem Tile.play_tm (n : Nat) (as : List Act) (t : Tile) : (Tile.play n as t).tm = t.tm := (congrArg Tile.tm (Tile.play_outer n as t) :)
@[simp] theorem Tile.play_cfg (n : Nat) (as : List Act) (t : Tile) : (Tile.play n as t).cfg = t.cfg := (congrArg Tile.cfg (Tile.play_outer n as t) :)
@[simp] theorem Tile.play_tab (n : Nat) (as : List Act) (t : Tile) : (Tile.play n as t).tab = t.tab := (congrArg Tile.tab (Tile.play_outer n as t) :)
@[simp] theorem Tile.play_ptrs (n : Nat) (as : List Act) (t : Tile) : (Tile.play n as t).ptrs = t.ptrs := (congrArg Tile.ptrs (Tile.play_outer n as t) :)
@[simp] theorem Tile.play_vs (n : Nat) (as : List Act) (t : Tile) : (Tile.play n as t).vs = t.vs := (congrArg Tile.vs (Tile.play_outer n as t) :)
@[simp] theorem Tile.play_engs (n : Nat) (as : List Act) (t : Tile) : (Tile.play n as t).engs = t.engs := (congrArg Tile.engs (Tile.play_outer n as t) :)
@[simp] theorem Tile.play_acts (n : Nat) (as : List Act) (t : Tile) : (Tile.play n as t).acts = t.acts := (congrArg Tile.acts (Tile.play_outer n as t) :)
@[simp] theorem Tile.play_lscs (n : Nat) (as : List Act) (t : Tile) : (Tile.play n as t).lscs = t.lscs := (congrArg Tile.lscs (Tile.play_outer n as t) :)
@[simp] theorem Tile.play_slots (n : Nat) (as : List Act) (t : Tile) : (Tile.play n as t).slots = t.slots := (congrArg Tile.slots (Tile.play_outer n as t) :)
@[simp] theorem Tile.play_rqs (n : Nat) (as : List Act) (t : Tile) : (Tile.play n as t).rqs = t.rqs := (congrArg Tile.rqs (Tile.play_outer n as t) :)
@[simp] theorem Tile.play_scs (n : Nat) (as : List Act) (t : Tile) : (Tile.play n as t).scs = t.scs := (congrArg Tile.scs (Tile.play_outer n as t) :)
@[simp] theorem Tile.play_badTab (n : Nat) (as : List Act) (t : Tile) : (Tile.play n as t).badTab = t.badTab := (congrArg Tile.badTab (Tile.play_outer n as t) :)
@[simp] theorem Tile.play_badAcc (n : Nat) (as : List Act) (t : Tile) : (Tile.play n as t).badAcc = t.badAcc := (congrArg Tile.badAcc (Tile.play_outer n as t) :)
@[simp] theorem Tile.play_almTbl (n : Nat) (as : List Act) (t : Tile) : (Tile.play n as t).almTbl = t.almTbl := (congrArg Tile.almTbl (Tile.play_outer n as t) :)
@[simp] theorem Tile.play_almChan (n : Nat) (as : List Act) (t : Tile) : (Tile.play n as t).almChan = t.almChan := (congrArg Tile.almChan (Tile.play_outer n as t) :)
@[simp] theorem Tile.play_hb (n : Nat) (as : List Act) (t : Tile) : (Tile.play n as t).hb = t.hb := (congrArg Tile.hb (Tile.play_outer n as t) :)
@[simp] theorem Tile.play_gwait (n : Nat) (as : List Act) (t : Tile) : (Tile.play n as t).gwait = t.gwait := (congrArg Tile.gwait (Tile.play_outer n as t) :)
@[simp] theorem Tile.play_dev (n : Nat) (as : List Act) (t : Tile) : (Tile.play n as t).dev = t.dev := (congrArg Tile.dev (Tile.play_outer n as t) :)
@[simp] theorem Tile.play_took (n : Nat) (as : List Act) (t : Tile) : (Tile.play n as t).took = t.took := (congrArg Tile.took (Tile.play_outer n as t) :)

theorem Tile.replay_frame (t : Tile) : t.replay = { t with mem := (t.replay).mem, bad := (t.replay).bad, soft := (t.replay).soft, mxe := (t.replay).mxe, rng := (t.replay).rng, sched := (t.replay).sched, pipe := (t.replay).pipe, tfr := (t.replay).tfr, cnt := (t.replay).cnt, tsq := (t.replay).tsq, tm := (t.replay).tm } := by unfold Tile.replay; split <;> (apply Tile.ext <;> simp [*, Tile.alone])

@[simp] theorem Tile.replay_cfg (t : Tile) : (t.replay).cfg = t.cfg := (congrArg Tile.cfg (Tile.replay_frame t) :)
@[simp] theorem Tile.replay_tab (t : Tile) : (t.replay).tab = t.tab := (congrArg Tile.tab (Tile.replay_frame t) :)
@[simp] theorem Tile.replay_ptrs (t : Tile) : (t.replay).ptrs = t.ptrs := (congrArg Tile.ptrs (Tile.replay_frame t) :)
@[simp] theorem Tile.replay_vs (t : Tile) : (t.replay).vs = t.vs := (congrArg Tile.vs (Tile.replay_frame t) :)
@[simp] theorem Tile.replay_engs (t : Tile) : (t.replay).engs = t.engs := (congrArg Tile.engs (Tile.replay_frame t) :)
@[simp] theorem Tile.replay_acts (t : Tile) : (t.replay).acts = t.acts := (congrArg Tile.acts (Tile.replay_frame t) :)
@[simp] theorem Tile.replay_base (t : Tile) : (t.replay).base = t.base := (congrArg Tile.base (Tile.replay_frame t) :)
@[simp] theorem Tile.replay_lscs (t : Tile) : (t.replay).lscs = t.lscs := (congrArg Tile.lscs (Tile.replay_frame t) :)
@[simp] theorem Tile.replay_slots (t : Tile) : (t.replay).slots = t.slots := (congrArg Tile.slots (Tile.replay_frame t) :)
@[simp] theorem Tile.replay_rqs (t : Tile) : (t.replay).rqs = t.rqs := (congrArg Tile.rqs (Tile.replay_frame t) :)
@[simp] theorem Tile.replay_scs (t : Tile) : (t.replay).scs = t.scs := (congrArg Tile.scs (Tile.replay_frame t) :)
@[simp] theorem Tile.replay_badTab (t : Tile) : (t.replay).badTab = t.badTab := (congrArg Tile.badTab (Tile.replay_frame t) :)
@[simp] theorem Tile.replay_badAcc (t : Tile) : (t.replay).badAcc = t.badAcc := (congrArg Tile.badAcc (Tile.replay_frame t) :)
@[simp] theorem Tile.replay_almTbl (t : Tile) : (t.replay).almTbl = t.almTbl := (congrArg Tile.almTbl (Tile.replay_frame t) :)
@[simp] theorem Tile.replay_almChan (t : Tile) : (t.replay).almChan = t.almChan := (congrArg Tile.almChan (Tile.replay_frame t) :)
@[simp] theorem Tile.replay_hb (t : Tile) : (t.replay).hb = t.hb := (congrArg Tile.hb (Tile.replay_frame t) :)
@[simp] theorem Tile.replay_gwait (t : Tile) : (t.replay).gwait = t.gwait := (congrArg Tile.gwait (Tile.replay_frame t) :)
@[simp] theorem Tile.replay_dev (t : Tile) : (t.replay).dev = t.dev := (congrArg Tile.dev (Tile.replay_frame t) :)
@[simp] theorem Tile.replay_took (t : Tile) : (t.replay).took = t.took := (congrArg Tile.took (Tile.replay_frame t) :)

theorem Tile.fetchInto_frame (t : Tile) (p y k : Nat) : t.fetchInto p y k = { t with mem := (t.fetchInto p y k).mem, bad := (t.fetchInto p y k).bad, soft := (t.fetchInto p y k).soft, mxe := (t.fetchInto p y k).mxe, rng := (t.fetchInto p y k).rng, sched := (t.fetchInto p y k).sched, pipe := (t.fetchInto p y k).pipe, tfr := (t.fetchInto p y k).tfr, cnt := (t.fetchInto p y k).cnt, tsq := (t.fetchInto p y k).tsq, tm := (t.fetchInto p y k).tm, acts := (t.fetchInto p y k).acts, base := (t.fetchInto p y k).base } := by unfold Tile.fetchInto; apply Tile.ext <;> simp

@[simp] theorem Tile.fetchInto_cfg (t : Tile) (p y k : Nat) : (t.fetchInto p y k).cfg = t.cfg := (congrArg Tile.cfg (Tile.fetchInto_frame t p y k) :)
@[simp] theorem Tile.fetchInto_tab (t : Tile) (p y k : Nat) : (t.fetchInto p y k).tab = t.tab := (congrArg Tile.tab (Tile.fetchInto_frame t p y k) :)
@[simp] theorem Tile.fetchInto_ptrs (t : Tile) (p y k : Nat) : (t.fetchInto p y k).ptrs = t.ptrs := (congrArg Tile.ptrs (Tile.fetchInto_frame t p y k) :)
@[simp] theorem Tile.fetchInto_vs (t : Tile) (p y k : Nat) : (t.fetchInto p y k).vs = t.vs := (congrArg Tile.vs (Tile.fetchInto_frame t p y k) :)
@[simp] theorem Tile.fetchInto_engs (t : Tile) (p y k : Nat) : (t.fetchInto p y k).engs = t.engs := (congrArg Tile.engs (Tile.fetchInto_frame t p y k) :)
@[simp] theorem Tile.fetchInto_lscs (t : Tile) (p y k : Nat) : (t.fetchInto p y k).lscs = t.lscs := (congrArg Tile.lscs (Tile.fetchInto_frame t p y k) :)
@[simp] theorem Tile.fetchInto_slots (t : Tile) (p y k : Nat) : (t.fetchInto p y k).slots = t.slots := (congrArg Tile.slots (Tile.fetchInto_frame t p y k) :)
@[simp] theorem Tile.fetchInto_rqs (t : Tile) (p y k : Nat) : (t.fetchInto p y k).rqs = t.rqs := (congrArg Tile.rqs (Tile.fetchInto_frame t p y k) :)
@[simp] theorem Tile.fetchInto_scs (t : Tile) (p y k : Nat) : (t.fetchInto p y k).scs = t.scs := (congrArg Tile.scs (Tile.fetchInto_frame t p y k) :)
@[simp] theorem Tile.fetchInto_badTab (t : Tile) (p y k : Nat) : (t.fetchInto p y k).badTab = t.badTab := (congrArg Tile.badTab (Tile.fetchInto_frame t p y k) :)
@[simp] theorem Tile.fetchInto_badAcc (t : Tile) (p y k : Nat) : (t.fetchInto p y k).badAcc = t.badAcc := (congrArg Tile.badAcc (Tile.fetchInto_frame t p y k) :)
@[simp] theorem Tile.fetchInto_almTbl (t : Tile) (p y k : Nat) : (t.fetchInto p y k).almTbl = t.almTbl := (congrArg Tile.almTbl (Tile.fetchInto_frame t p y k) :)
@[simp] theorem Tile.fetchInto_almChan (t : Tile) (p y k : Nat) : (t.fetchInto p y k).almChan = t.almChan := (congrArg Tile.almChan (Tile.fetchInto_frame t p y k) :)
@[simp] theorem Tile.fetchInto_hb (t : Tile) (p y k : Nat) : (t.fetchInto p y k).hb = t.hb := (congrArg Tile.hb (Tile.fetchInto_frame t p y k) :)
@[simp] theorem Tile.fetchInto_gwait (t : Tile) (p y k : Nat) : (t.fetchInto p y k).gwait = t.gwait := (congrArg Tile.gwait (Tile.fetchInto_frame t p y k) :)
@[simp] theorem Tile.fetchInto_dev (t : Tile) (p y k : Nat) : (t.fetchInto p y k).dev = t.dev := (congrArg Tile.dev (Tile.fetchInto_frame t p y k) :)
@[simp] theorem Tile.fetchInto_took (t : Tile) (p y k : Nat) : (t.fetchInto p y k).took = t.took := (congrArg Tile.took (Tile.fetchInto_frame t p y k) :)

theorem Tile.issued_frame (t : Tile) (w : IWord) (c : Nat) : t.issued w c = { t with mem := (t.issued w c).mem, bad := (t.issued w c).bad, soft := (t.issued w c).soft, mxe := (t.issued w c).mxe, rng := (t.issued w c).rng, sched := (t.issued w c).sched, pipe := (t.issued w c).pipe, tfr := (t.issued w c).tfr, cnt := (t.issued w c).cnt, tsq := (t.issued w c).tsq, tm := (t.issued w c).tm, acts := (t.issued w c).acts, base := (t.issued w c).base, engs := (t.issued w c).engs } := by unfold Tile.issued; simp only; split <;> (apply Tile.ext <;> simp)

@[simp] theorem Tile.issued_cfg (t : Tile) (w : IWord) (c : Nat) : (t.issued w c).cfg = t.cfg := (congrArg Tile.cfg (Tile.issued_frame t w c) :)
@[simp] theorem Tile.issued_tab (t : Tile) (w : IWord) (c : Nat) : (t.issued w c).tab = t.tab := (congrArg Tile.tab (Tile.issued_frame t w c) :)
@[simp] theorem Tile.issued_ptrs (t : Tile) (w : IWord) (c : Nat) : (t.issued w c).ptrs = t.ptrs := (congrArg Tile.ptrs (Tile.issued_frame t w c) :)
@[simp] theorem Tile.issued_vs (t : Tile) (w : IWord) (c : Nat) : (t.issued w c).vs = t.vs := (congrArg Tile.vs (Tile.issued_frame t w c) :)
@[simp] theorem Tile.issued_lscs (t : Tile) (w : IWord) (c : Nat) : (t.issued w c).lscs = t.lscs := (congrArg Tile.lscs (Tile.issued_frame t w c) :)
@[simp] theorem Tile.issued_slots (t : Tile) (w : IWord) (c : Nat) : (t.issued w c).slots = t.slots := (congrArg Tile.slots (Tile.issued_frame t w c) :)
@[simp] theorem Tile.issued_rqs (t : Tile) (w : IWord) (c : Nat) : (t.issued w c).rqs = t.rqs := (congrArg Tile.rqs (Tile.issued_frame t w c) :)
@[simp] theorem Tile.issued_scs (t : Tile) (w : IWord) (c : Nat) : (t.issued w c).scs = t.scs := (congrArg Tile.scs (Tile.issued_frame t w c) :)
@[simp] theorem Tile.issued_badTab (t : Tile) (w : IWord) (c : Nat) : (t.issued w c).badTab = t.badTab := (congrArg Tile.badTab (Tile.issued_frame t w c) :)
@[simp] theorem Tile.issued_badAcc (t : Tile) (w : IWord) (c : Nat) : (t.issued w c).badAcc = t.badAcc := (congrArg Tile.badAcc (Tile.issued_frame t w c) :)
@[simp] theorem Tile.issued_almTbl (t : Tile) (w : IWord) (c : Nat) : (t.issued w c).almTbl = t.almTbl := (congrArg Tile.almTbl (Tile.issued_frame t w c) :)
@[simp] theorem Tile.issued_almChan (t : Tile) (w : IWord) (c : Nat) : (t.issued w c).almChan = t.almChan := (congrArg Tile.almChan (Tile.issued_frame t w c) :)
@[simp] theorem Tile.issued_hb (t : Tile) (w : IWord) (c : Nat) : (t.issued w c).hb = t.hb := (congrArg Tile.hb (Tile.issued_frame t w c) :)
@[simp] theorem Tile.issued_gwait (t : Tile) (w : IWord) (c : Nat) : (t.issued w c).gwait = t.gwait := (congrArg Tile.gwait (Tile.issued_frame t w c) :)
@[simp] theorem Tile.issued_dev (t : Tile) (w : IWord) (c : Nat) : (t.issued w c).dev = t.dev := (congrArg Tile.dev (Tile.issued_frame t w c) :)
@[simp] theorem Tile.issued_took (t : Tile) (w : IWord) (c : Nat) : (t.issued w c).took = t.took := (congrArg Tile.took (Tile.issued_frame t w c) :)

theorem Tile.yields_frame (t : Tile) (p a n y : Nat) : t.yields p a n y = { t with sched := (t.yields p a n y).sched, base := (t.yields p a n y).base } := by unfold Tile.yields Tile.both; split <;> rfl

@[simp] theorem Tile.yields_tsq (t : Tile) (p a n y : Nat) : (t.yields p a n y).tsq = t.tsq := (congrArg Tile.tsq (Tile.yields_frame t p a n y) :)
@[simp] theorem Tile.yields_tm (t : Tile) (p a n y : Nat) : (t.yields p a n y).tm = t.tm := (congrArg Tile.tm (Tile.yields_frame t p a n y) :)
@[simp] theorem Tile.yields_mem (t : Tile) (p a n y : Nat) : (t.yields p a n y).mem = t.mem := (congrArg Tile.mem (Tile.yields_frame t p a n y) :)
@[simp] theorem Tile.yields_bad (t : Tile) (p a n y : Nat) : (t.yields p a n y).bad = t.bad := (congrArg Tile.bad (Tile.yields_frame t p a n y) :)
@[simp] theorem Tile.yields_soft (t : Tile) (p a n y : Nat) : (t.yields p a n y).soft = t.soft := (congrArg Tile.soft (Tile.yields_frame t p a n y) :)
@[simp] theorem Tile.yields_cfg (t : Tile) (p a n y : Nat) : (t.yields p a n y).cfg = t.cfg := (congrArg Tile.cfg (Tile.yields_frame t p a n y) :)
@[simp] theorem Tile.yields_tab (t : Tile) (p a n y : Nat) : (t.yields p a n y).tab = t.tab := (congrArg Tile.tab (Tile.yields_frame t p a n y) :)
@[simp] theorem Tile.yields_ptrs (t : Tile) (p a n y : Nat) : (t.yields p a n y).ptrs = t.ptrs := (congrArg Tile.ptrs (Tile.yields_frame t p a n y) :)
@[simp] theorem Tile.yields_vs (t : Tile) (p a n y : Nat) : (t.yields p a n y).vs = t.vs := (congrArg Tile.vs (Tile.yields_frame t p a n y) :)
@[simp] theorem Tile.yields_mxe (t : Tile) (p a n y : Nat) : (t.yields p a n y).mxe = t.mxe := (congrArg Tile.mxe (Tile.yields_frame t p a n y) :)
@[simp] theorem Tile.yields_engs (t : Tile) (p a n y : Nat) : (t.yields p a n y).engs = t.engs := (congrArg Tile.engs (Tile.yields_frame t p a n y) :)
@[simp] theorem Tile.yields_rng (t : Tile) (p a n y : Nat) : (t.yields p a n y).rng = t.rng := (congrArg Tile.rng (Tile.yields_frame t p a n y) :)
@[simp] theorem Tile.yields_pipe (t : Tile) (p a n y : Nat) : (t.yields p a n y).pipe = t.pipe := (congrArg Tile.pipe (Tile.yields_frame t p a n y) :)
@[simp] theorem Tile.yields_acts (t : Tile) (p a n y : Nat) : (t.yields p a n y).acts = t.acts := (congrArg Tile.acts (Tile.yields_frame t p a n y) :)
@[simp] theorem Tile.yields_lscs (t : Tile) (p a n y : Nat) : (t.yields p a n y).lscs = t.lscs := (congrArg Tile.lscs (Tile.yields_frame t p a n y) :)
@[simp] theorem Tile.yields_slots (t : Tile) (p a n y : Nat) : (t.yields p a n y).slots = t.slots := (congrArg Tile.slots (Tile.yields_frame t p a n y) :)
@[simp] theorem Tile.yields_rqs (t : Tile) (p a n y : Nat) : (t.yields p a n y).rqs = t.rqs := (congrArg Tile.rqs (Tile.yields_frame t p a n y) :)
@[simp] theorem Tile.yields_scs (t : Tile) (p a n y : Nat) : (t.yields p a n y).scs = t.scs := (congrArg Tile.scs (Tile.yields_frame t p a n y) :)
@[simp] theorem Tile.yields_badTab (t : Tile) (p a n y : Nat) : (t.yields p a n y).badTab = t.badTab := (congrArg Tile.badTab (Tile.yields_frame t p a n y) :)
@[simp] theorem Tile.yields_badAcc (t : Tile) (p a n y : Nat) : (t.yields p a n y).badAcc = t.badAcc := (congrArg Tile.badAcc (Tile.yields_frame t p a n y) :)
@[simp] theorem Tile.yields_almTbl (t : Tile) (p a n y : Nat) : (t.yields p a n y).almTbl = t.almTbl := (congrArg Tile.almTbl (Tile.yields_frame t p a n y) :)
@[simp] theorem Tile.yields_almChan (t : Tile) (p a n y : Nat) : (t.yields p a n y).almChan = t.almChan := (congrArg Tile.almChan (Tile.yields_frame t p a n y) :)
@[simp] theorem Tile.yields_hb (t : Tile) (p a n y : Nat) : (t.yields p a n y).hb = t.hb := (congrArg Tile.hb (Tile.yields_frame t p a n y) :)
@[simp] theorem Tile.yields_gwait (t : Tile) (p a n y : Nat) : (t.yields p a n y).gwait = t.gwait := (congrArg Tile.gwait (Tile.yields_frame t p a n y) :)
@[simp] theorem Tile.yields_dev (t : Tile) (p a n y : Nat) : (t.yields p a n y).dev = t.dev := (congrArg Tile.dev (Tile.yields_frame t p a n y) :)
@[simp] theorem Tile.yields_tfr (t : Tile) (p a n y : Nat) : (t.yields p a n y).tfr = t.tfr := (congrArg Tile.tfr (Tile.yields_frame t p a n y) :)
@[simp] theorem Tile.yields_cnt (t : Tile) (p a n y : Nat) : (t.yields p a n y).cnt = t.cnt := (congrArg Tile.cnt (Tile.yields_frame t p a n y) :)
@[simp] theorem Tile.yields_took (t : Tile) (p a n y : Nat) : (t.yields p a n y).took = t.took := (congrArg Tile.took (Tile.yields_frame t p a n y) :)

theorem Tile.yieldRead_frame (t : Tile) (p a n c : Nat) : (t.yieldRead p a n c).2.2 = { t with sched := ((t.yieldRead p a n c).2.2).sched, base := ((t.yieldRead p a n c).2.2).base, cnt := ((t.yieldRead p a n c).2.2).cnt } := by unfold Tile.yieldRead; apply Tile.ext <;> simp

@[simp] theorem Tile.yieldRead_tsq (t : Tile) (p a n c : Nat) : ((t.yieldRead p a n c).2.2).tsq = t.tsq := (congrArg Tile.tsq (Tile.yieldRead_frame t p a n c) :)
@[simp] theorem Tile.yieldRead_tm (t : Tile) (p a n c : Nat) : ((t.yieldRead p a n c).2.2).tm = t.tm := (congrArg Tile.tm (Tile.yieldRead_frame t p a n c) :)
@[simp] theorem Tile.yieldRead_mem (t : Tile) (p a n c : Nat) : ((t.yieldRead p a n c).2.2).mem = t.mem := (congrArg Tile.mem (Tile.yieldRead_frame t p a n c) :)
@[simp] theorem Tile.yieldRead_bad (t : Tile) (p a n c : Nat) : ((t.yieldRead p a n c).2.2).bad = t.bad := (congrArg Tile.bad (Tile.yieldRead_frame t p a n c) :)
@[simp] theorem Tile.yieldRead_soft (t : Tile) (p a n c : Nat) : ((t.yieldRead p a n c).2.2).soft = t.soft := (congrArg Tile.soft (Tile.yieldRead_frame t p a n c) :)
@[simp] theorem Tile.yieldRead_cfg (t : Tile) (p a n c : Nat) : ((t.yieldRead p a n c).2.2).cfg = t.cfg := (congrArg Tile.cfg (Tile.yieldRead_frame t p a n c) :)
@[simp] theorem Tile.yieldRead_tab (t : Tile) (p a n c : Nat) : ((t.yieldRead p a n c).2.2).tab = t.tab := (congrArg Tile.tab (Tile.yieldRead_frame t p a n c) :)
@[simp] theorem Tile.yieldRead_ptrs (t : Tile) (p a n c : Nat) : ((t.yieldRead p a n c).2.2).ptrs = t.ptrs := (congrArg Tile.ptrs (Tile.yieldRead_frame t p a n c) :)
@[simp] theorem Tile.yieldRead_vs (t : Tile) (p a n c : Nat) : ((t.yieldRead p a n c).2.2).vs = t.vs := (congrArg Tile.vs (Tile.yieldRead_frame t p a n c) :)
@[simp] theorem Tile.yieldRead_mxe (t : Tile) (p a n c : Nat) : ((t.yieldRead p a n c).2.2).mxe = t.mxe := (congrArg Tile.mxe (Tile.yieldRead_frame t p a n c) :)
@[simp] theorem Tile.yieldRead_engs (t : Tile) (p a n c : Nat) : ((t.yieldRead p a n c).2.2).engs = t.engs := (congrArg Tile.engs (Tile.yieldRead_frame t p a n c) :)
@[simp] theorem Tile.yieldRead_rng (t : Tile) (p a n c : Nat) : ((t.yieldRead p a n c).2.2).rng = t.rng := (congrArg Tile.rng (Tile.yieldRead_frame t p a n c) :)
@[simp] theorem Tile.yieldRead_pipe (t : Tile) (p a n c : Nat) : ((t.yieldRead p a n c).2.2).pipe = t.pipe := (congrArg Tile.pipe (Tile.yieldRead_frame t p a n c) :)
@[simp] theorem Tile.yieldRead_acts (t : Tile) (p a n c : Nat) : ((t.yieldRead p a n c).2.2).acts = t.acts := (congrArg Tile.acts (Tile.yieldRead_frame t p a n c) :)
@[simp] theorem Tile.yieldRead_lscs (t : Tile) (p a n c : Nat) : ((t.yieldRead p a n c).2.2).lscs = t.lscs := (congrArg Tile.lscs (Tile.yieldRead_frame t p a n c) :)
@[simp] theorem Tile.yieldRead_slots (t : Tile) (p a n c : Nat) : ((t.yieldRead p a n c).2.2).slots = t.slots := (congrArg Tile.slots (Tile.yieldRead_frame t p a n c) :)
@[simp] theorem Tile.yieldRead_rqs (t : Tile) (p a n c : Nat) : ((t.yieldRead p a n c).2.2).rqs = t.rqs := (congrArg Tile.rqs (Tile.yieldRead_frame t p a n c) :)
@[simp] theorem Tile.yieldRead_scs (t : Tile) (p a n c : Nat) : ((t.yieldRead p a n c).2.2).scs = t.scs := (congrArg Tile.scs (Tile.yieldRead_frame t p a n c) :)
@[simp] theorem Tile.yieldRead_badTab (t : Tile) (p a n c : Nat) : ((t.yieldRead p a n c).2.2).badTab = t.badTab := (congrArg Tile.badTab (Tile.yieldRead_frame t p a n c) :)
@[simp] theorem Tile.yieldRead_badAcc (t : Tile) (p a n c : Nat) : ((t.yieldRead p a n c).2.2).badAcc = t.badAcc := (congrArg Tile.badAcc (Tile.yieldRead_frame t p a n c) :)
@[simp] theorem Tile.yieldRead_almTbl (t : Tile) (p a n c : Nat) : ((t.yieldRead p a n c).2.2).almTbl = t.almTbl := (congrArg Tile.almTbl (Tile.yieldRead_frame t p a n c) :)
@[simp] theorem Tile.yieldRead_almChan (t : Tile) (p a n c : Nat) : ((t.yieldRead p a n c).2.2).almChan = t.almChan := (congrArg Tile.almChan (Tile.yieldRead_frame t p a n c) :)
@[simp] theorem Tile.yieldRead_hb (t : Tile) (p a n c : Nat) : ((t.yieldRead p a n c).2.2).hb = t.hb := (congrArg Tile.hb (Tile.yieldRead_frame t p a n c) :)
@[simp] theorem Tile.yieldRead_gwait (t : Tile) (p a n c : Nat) : ((t.yieldRead p a n c).2.2).gwait = t.gwait := (congrArg Tile.gwait (Tile.yieldRead_frame t p a n c) :)
@[simp] theorem Tile.yieldRead_dev (t : Tile) (p a n c : Nat) : ((t.yieldRead p a n c).2.2).dev = t.dev := (congrArg Tile.dev (Tile.yieldRead_frame t p a n c) :)
@[simp] theorem Tile.yieldRead_tfr (t : Tile) (p a n c : Nat) : ((t.yieldRead p a n c).2.2).tfr = t.tfr := (congrArg Tile.tfr (Tile.yieldRead_frame t p a n c) :)
@[simp] theorem Tile.yieldRead_took (t : Tile) (p a n c : Nat) : ((t.yieldRead p a n c).2.2).took = t.took := (congrArg Tile.took (Tile.yieldRead_frame t p a n c) :)

theorem Tile.yieldAt_frame (t : Tile) (p a : Nat) (ws : List Word) (c : Nat) : (t.yieldAt p a ws c).2 = { t with sched := ((t.yieldAt p a ws c).2).sched, base := ((t.yieldAt p a ws c).2).base, acts := ((t.yieldAt p a ws c).2).acts } := by unfold Tile.yieldAt; apply Tile.ext <;> simp

@[simp] theorem Tile.yieldAt_tsq (t : Tile) (p a : Nat) (ws : List Word) (c : Nat) : ((t.yieldAt p a ws c).2).tsq = t.tsq := (congrArg Tile.tsq (Tile.yieldAt_frame t p a ws c) :)
@[simp] theorem Tile.yieldAt_tm (t : Tile) (p a : Nat) (ws : List Word) (c : Nat) : ((t.yieldAt p a ws c).2).tm = t.tm := (congrArg Tile.tm (Tile.yieldAt_frame t p a ws c) :)
@[simp] theorem Tile.yieldAt_mem (t : Tile) (p a : Nat) (ws : List Word) (c : Nat) : ((t.yieldAt p a ws c).2).mem = t.mem := (congrArg Tile.mem (Tile.yieldAt_frame t p a ws c) :)
@[simp] theorem Tile.yieldAt_bad (t : Tile) (p a : Nat) (ws : List Word) (c : Nat) : ((t.yieldAt p a ws c).2).bad = t.bad := (congrArg Tile.bad (Tile.yieldAt_frame t p a ws c) :)
@[simp] theorem Tile.yieldAt_soft (t : Tile) (p a : Nat) (ws : List Word) (c : Nat) : ((t.yieldAt p a ws c).2).soft = t.soft := (congrArg Tile.soft (Tile.yieldAt_frame t p a ws c) :)
@[simp] theorem Tile.yieldAt_cfg (t : Tile) (p a : Nat) (ws : List Word) (c : Nat) : ((t.yieldAt p a ws c).2).cfg = t.cfg := (congrArg Tile.cfg (Tile.yieldAt_frame t p a ws c) :)
@[simp] theorem Tile.yieldAt_tab (t : Tile) (p a : Nat) (ws : List Word) (c : Nat) : ((t.yieldAt p a ws c).2).tab = t.tab := (congrArg Tile.tab (Tile.yieldAt_frame t p a ws c) :)
@[simp] theorem Tile.yieldAt_ptrs (t : Tile) (p a : Nat) (ws : List Word) (c : Nat) : ((t.yieldAt p a ws c).2).ptrs = t.ptrs := (congrArg Tile.ptrs (Tile.yieldAt_frame t p a ws c) :)
@[simp] theorem Tile.yieldAt_vs (t : Tile) (p a : Nat) (ws : List Word) (c : Nat) : ((t.yieldAt p a ws c).2).vs = t.vs := (congrArg Tile.vs (Tile.yieldAt_frame t p a ws c) :)
@[simp] theorem Tile.yieldAt_mxe (t : Tile) (p a : Nat) (ws : List Word) (c : Nat) : ((t.yieldAt p a ws c).2).mxe = t.mxe := (congrArg Tile.mxe (Tile.yieldAt_frame t p a ws c) :)
@[simp] theorem Tile.yieldAt_engs (t : Tile) (p a : Nat) (ws : List Word) (c : Nat) : ((t.yieldAt p a ws c).2).engs = t.engs := (congrArg Tile.engs (Tile.yieldAt_frame t p a ws c) :)
@[simp] theorem Tile.yieldAt_rng (t : Tile) (p a : Nat) (ws : List Word) (c : Nat) : ((t.yieldAt p a ws c).2).rng = t.rng := (congrArg Tile.rng (Tile.yieldAt_frame t p a ws c) :)
@[simp] theorem Tile.yieldAt_pipe (t : Tile) (p a : Nat) (ws : List Word) (c : Nat) : ((t.yieldAt p a ws c).2).pipe = t.pipe := (congrArg Tile.pipe (Tile.yieldAt_frame t p a ws c) :)
@[simp] theorem Tile.yieldAt_lscs (t : Tile) (p a : Nat) (ws : List Word) (c : Nat) : ((t.yieldAt p a ws c).2).lscs = t.lscs := (congrArg Tile.lscs (Tile.yieldAt_frame t p a ws c) :)
@[simp] theorem Tile.yieldAt_slots (t : Tile) (p a : Nat) (ws : List Word) (c : Nat) : ((t.yieldAt p a ws c).2).slots = t.slots := (congrArg Tile.slots (Tile.yieldAt_frame t p a ws c) :)
@[simp] theorem Tile.yieldAt_rqs (t : Tile) (p a : Nat) (ws : List Word) (c : Nat) : ((t.yieldAt p a ws c).2).rqs = t.rqs := (congrArg Tile.rqs (Tile.yieldAt_frame t p a ws c) :)
@[simp] theorem Tile.yieldAt_scs (t : Tile) (p a : Nat) (ws : List Word) (c : Nat) : ((t.yieldAt p a ws c).2).scs = t.scs := (congrArg Tile.scs (Tile.yieldAt_frame t p a ws c) :)
@[simp] theorem Tile.yieldAt_badTab (t : Tile) (p a : Nat) (ws : List Word) (c : Nat) : ((t.yieldAt p a ws c).2).badTab = t.badTab := (congrArg Tile.badTab (Tile.yieldAt_frame t p a ws c) :)
@[simp] theorem Tile.yieldAt_badAcc (t : Tile) (p a : Nat) (ws : List Word) (c : Nat) : ((t.yieldAt p a ws c).2).badAcc = t.badAcc := (congrArg Tile.badAcc (Tile.yieldAt_frame t p a ws c) :)
@[simp] theorem Tile.yieldAt_almTbl (t : Tile) (p a : Nat) (ws : List Word) (c : Nat) : ((t.yieldAt p a ws c).2).almTbl = t.almTbl := (congrArg Tile.almTbl (Tile.yieldAt_frame t p a ws c) :)
@[simp] theorem Tile.yieldAt_almChan (t : Tile) (p a : Nat) (ws : List Word) (c : Nat) : ((t.yieldAt p a ws c).2).almChan = t.almChan := (congrArg Tile.almChan (Tile.yieldAt_frame t p a ws c) :)
@[simp] theorem Tile.yieldAt_hb (t : Tile) (p a : Nat) (ws : List Word) (c : Nat) : ((t.yieldAt p a ws c).2).hb = t.hb := (congrArg Tile.hb (Tile.yieldAt_frame t p a ws c) :)
@[simp] theorem Tile.yieldAt_gwait (t : Tile) (p a : Nat) (ws : List Word) (c : Nat) : ((t.yieldAt p a ws c).2).gwait = t.gwait := (congrArg Tile.gwait (Tile.yieldAt_frame t p a ws c) :)
@[simp] theorem Tile.yieldAt_dev (t : Tile) (p a : Nat) (ws : List Word) (c : Nat) : ((t.yieldAt p a ws c).2).dev = t.dev := (congrArg Tile.dev (Tile.yieldAt_frame t p a ws c) :)
@[simp] theorem Tile.yieldAt_tfr (t : Tile) (p a : Nat) (ws : List Word) (c : Nat) : ((t.yieldAt p a ws c).2).tfr = t.tfr := (congrArg Tile.tfr (Tile.yieldAt_frame t p a ws c) :)
@[simp] theorem Tile.yieldAt_cnt (t : Tile) (p a : Nat) (ws : List Word) (c : Nat) : ((t.yieldAt p a ws c).2).cnt = t.cnt := (congrArg Tile.cnt (Tile.yieldAt_frame t p a ws c) :)
@[simp] theorem Tile.yieldAt_took (t : Tile) (p a : Nat) (ws : List Word) (c : Nat) : ((t.yieldAt p a ws c).2).took = t.took := (congrArg Tile.took (Tile.yieldAt_frame t p a ws c) :)

theorem Tile.yieldWrite_frame (t : Tile) (p a : Nat) (ws : List Word) (c : Nat) : t.yieldWrite p a ws c = { t with mem := (t.yieldWrite p a ws c).mem, bad := (t.yieldWrite p a ws c).bad, soft := (t.yieldWrite p a ws c).soft, mxe := (t.yieldWrite p a ws c).mxe, rng := (t.yieldWrite p a ws c).rng, sched := (t.yieldWrite p a ws c).sched, pipe := (t.yieldWrite p a ws c).pipe, tfr := (t.yieldWrite p a ws c).tfr, cnt := (t.yieldWrite p a ws c).cnt, tsq := (t.yieldWrite p a ws c).tsq, tm := (t.yieldWrite p a ws c).tm, acts := (t.yieldWrite p a ws c).acts, base := (t.yieldWrite p a ws c).base } := by unfold Tile.yieldWrite; apply Tile.ext <;> simp

@[simp] theorem Tile.yieldWrite_cfg (t : Tile) (p a : Nat) (ws : List Word) (c : Nat) : (t.yieldWrite p a ws c).cfg = t.cfg := (congrArg Tile.cfg (Tile.yieldWrite_frame t p a ws c) :)
@[simp] theorem Tile.yieldWrite_tab (t : Tile) (p a : Nat) (ws : List Word) (c : Nat) : (t.yieldWrite p a ws c).tab = t.tab := (congrArg Tile.tab (Tile.yieldWrite_frame t p a ws c) :)
@[simp] theorem Tile.yieldWrite_ptrs (t : Tile) (p a : Nat) (ws : List Word) (c : Nat) : (t.yieldWrite p a ws c).ptrs = t.ptrs := (congrArg Tile.ptrs (Tile.yieldWrite_frame t p a ws c) :)
@[simp] theorem Tile.yieldWrite_vs (t : Tile) (p a : Nat) (ws : List Word) (c : Nat) : (t.yieldWrite p a ws c).vs = t.vs := (congrArg Tile.vs (Tile.yieldWrite_frame t p a ws c) :)
@[simp] theorem Tile.yieldWrite_engs (t : Tile) (p a : Nat) (ws : List Word) (c : Nat) : (t.yieldWrite p a ws c).engs = t.engs := (congrArg Tile.engs (Tile.yieldWrite_frame t p a ws c) :)
@[simp] theorem Tile.yieldWrite_lscs (t : Tile) (p a : Nat) (ws : List Word) (c : Nat) : (t.yieldWrite p a ws c).lscs = t.lscs := (congrArg Tile.lscs (Tile.yieldWrite_frame t p a ws c) :)
@[simp] theorem Tile.yieldWrite_slots (t : Tile) (p a : Nat) (ws : List Word) (c : Nat) : (t.yieldWrite p a ws c).slots = t.slots := (congrArg Tile.slots (Tile.yieldWrite_frame t p a ws c) :)
@[simp] theorem Tile.yieldWrite_rqs (t : Tile) (p a : Nat) (ws : List Word) (c : Nat) : (t.yieldWrite p a ws c).rqs = t.rqs := (congrArg Tile.rqs (Tile.yieldWrite_frame t p a ws c) :)
@[simp] theorem Tile.yieldWrite_scs (t : Tile) (p a : Nat) (ws : List Word) (c : Nat) : (t.yieldWrite p a ws c).scs = t.scs := (congrArg Tile.scs (Tile.yieldWrite_frame t p a ws c) :)
@[simp] theorem Tile.yieldWrite_badTab (t : Tile) (p a : Nat) (ws : List Word) (c : Nat) : (t.yieldWrite p a ws c).badTab = t.badTab := (congrArg Tile.badTab (Tile.yieldWrite_frame t p a ws c) :)
@[simp] theorem Tile.yieldWrite_badAcc (t : Tile) (p a : Nat) (ws : List Word) (c : Nat) : (t.yieldWrite p a ws c).badAcc = t.badAcc := (congrArg Tile.badAcc (Tile.yieldWrite_frame t p a ws c) :)
@[simp] theorem Tile.yieldWrite_almTbl (t : Tile) (p a : Nat) (ws : List Word) (c : Nat) : (t.yieldWrite p a ws c).almTbl = t.almTbl := (congrArg Tile.almTbl (Tile.yieldWrite_frame t p a ws c) :)
@[simp] theorem Tile.yieldWrite_almChan (t : Tile) (p a : Nat) (ws : List Word) (c : Nat) : (t.yieldWrite p a ws c).almChan = t.almChan := (congrArg Tile.almChan (Tile.yieldWrite_frame t p a ws c) :)
@[simp] theorem Tile.yieldWrite_hb (t : Tile) (p a : Nat) (ws : List Word) (c : Nat) : (t.yieldWrite p a ws c).hb = t.hb := (congrArg Tile.hb (Tile.yieldWrite_frame t p a ws c) :)
@[simp] theorem Tile.yieldWrite_gwait (t : Tile) (p a : Nat) (ws : List Word) (c : Nat) : (t.yieldWrite p a ws c).gwait = t.gwait := (congrArg Tile.gwait (Tile.yieldWrite_frame t p a ws c) :)
@[simp] theorem Tile.yieldWrite_dev (t : Tile) (p a : Nat) (ws : List Word) (c : Nat) : (t.yieldWrite p a ws c).dev = t.dev := (congrArg Tile.dev (Tile.yieldWrite_frame t p a ws c) :)
@[simp] theorem Tile.yieldWrite_took (t : Tile) (p a : Nat) (ws : List Word) (c : Nat) : (t.yieldWrite p a ws c).took = t.took := (congrArg Tile.took (Tile.yieldWrite_frame t p a ws c) :)

/-! ## The present -/

theorem Tile.replay_data (t : Tile) : t.replay.data = t.data := by
  unfold Tile.data Tile.now Tile.settled Tile.start0 Tile.core Tile.alone Tile.withCore
  cases h : t.base with
  | none => simp [Tile.replay, h]
  | some b => simp [h]

theorem Tile.tsqAct_data (t : Tile) (c y p : Nat) (e : Eff) : (t.tsqAct c y p e).data = t.data := rfl

end Sys2Proof.Machine
end

