-- ==== Sys2Proof/Laws/Seq.lean ====
section
/-! SUPPORT. The sequencer: what issuing an instruction does (R38, R39), what a tile's row does where its instruction issues, and what of the machine it leaves
alone. -/

namespace Sys2Proof.Machine
theorem onlyTile_put (s : Mach) (n : Nat) (t : Tile) : Mach.onlyTile n s (s.putTile n t) := by
  refine ⟨fun k h => Mach.putTile_tile_ne s t h, ?_, ?_⟩
  · rw [Mach.putTile_flight, List.map_map]
    apply List.map_congr_left
    intro x hx
    simp only [Function.comp]
    by_cases h : x.sender = n
    · rw [if_pos h]
      have e : ∀ y : Tile, XLine.blank n (y.sent x) = XLine.blank n x := by
        intro y
        unfold Tile.sent
        split <;> simp [XLine.blank, h]
      exact e _
    · rw [if_neg h]
  · simp

/-- A tile has nothing new to report to its die or to the package. -/
theorem putTile_quiet (s : Mach) (n : Nat) (t : Tile) (h : t.settled.took = t.took) (h1 : t.almTbl = false) (h2 : t.almChan = false) :
    (s.putTile n t).apart = s.apart := by
  have h3 : t.start0.cnt.dMxe = t.took.mxe := congrArg Took.mxe h
  have h4 : t.start0.cnt.dVxe = t.took.vxe := congrArg Took.vxe h
  have h5 : t.start0.cnt.dCvu = t.took.cvu := congrArg Took.cvu h
  have h6 : t.start0.cnt.ecc = t.took.ecc := congrArg Took.ecc h
  unfold Mach.putTile Mach.apart
  simp only [h1, h2, h3, h4, h5, h6]
  simp [Itg.addEcc, grown, addSums]

theorem syRow_go {s : Mach} {n op : Nat} {w : IWord} {c : Nat} (h : s.issues n 0 op w c) (f : Tile → Nat → Tile) :
    s.syRow n op w f = s.putTile n (f (s.tile n) c) := by
  obtain ⟨h1, h2, h3⟩ := h
  simp [Mach.syRow, Mach.onTile, h1, h2, h3]

/-- Where its instruction issues, a sequencer row answers the machine with the tile that the instruction makes. -/
theorem sy_next {s : State} {n op : Nat} {w : IWord} {c : Nat} {P : State → Prop} (h : s.issues n 0 op w c) (f : Tile → Nat → Tile)
    (hp : P { s with toMach := s.putTile n (f (s.tile n) c) }) : ∃ t, (s.act fun m => m.syRow n op w f) = .next t ∧ P t :=
  State.act_next _ (syRow_go h f) hp

theorem settled_data (t : Tile) : t.settled.data = t.data := rfl

@[simp] theorem cur_settled (t : Tile) : t.settled.cur = t.cur := rfl
@[simp] theorem pc_settled (t : Tile) : t.settled.pc = t.pc := rfl
theorem setCur_cur (t : Tile) (c : Ctx) : (t.setCur c).cur = c := by
  unfold Tile.setCur; split <;> rename_i h <;> simp [Tile.cur, Tile.inKernel] at * <;> simp [h]
theorem seqRest_setCur (t : Tile) (c : Ctx) : (t.setCur c).seqRest = t.seqRest := by
  unfold Tile.setCur Tile.seqRest; split <;> rfl
theorem nextPc_of (a b : Tile) (q : Nat) (h : b.tsq.loop.map (fun l => (l.first, l.last, l.left)) = a.tsq.loop.map (fun l => (l.first, l.last, l.left))) :
    (b.nextPc q).1 = (a.nextPc q).1 := by
  unfold Tile.nextPc
  cases ha : a.tsq.loop <;> cases hb : b.tsq.loop <;> rw [ha, hb] at h <;> simp at h ⊢
  obtain ⟨h1, h2, h3⟩ := h
  rw [h1, h2, h3]
  split
  · split <;> rfl
  · rfl
theorem recordLoop_loop (t : Tile) (p : Nat) (w : IWord) :
    (t.recordLoop p w).tsq.loop.map (fun l => (l.first, l.last, l.left)) = t.tsq.loop.map (fun l => (l.first, l.last, l.left)) := by
  unfold Tile.recordLoop; split
  · rename_i l h
    split <;> simp [h]
  · rfl
theorem setCur_loop (t : Tile) (c : Ctx) : (t.setCur c).tsq.loop = t.tsq.loop := by
  unfold Tile.setCur; split <;> rfl
@[simp] theorem setCur_inKernel (t : Tile) (c : Ctx) : (t.setCur c).inKernel = t.inKernel := by
  unfold Tile.setCur; split <;> rfl
theorem cur_of (a b : Tile) (h : b.tsq = a.tsq) : b.cur = a.cur := by unfold Tile.cur Tile.inKernel; rw [h]
theorem deliver_seqRest (t : Tile) : t.deliver.seqRest = t.seqRest := rfl
theorem deliver_timeRest (t : Tile) : t.deliver.timeRest = t.timeRest := by
  unfold Tile.deliver Tile.timeRest
  cases t.tm.pend with
  | none => rfl
  | some p => simp only [Option.map_some]; congr 2; split <;> rfl
theorem deliver_cur (t : Tile) : t.deliver.cur.pc = t.cur.pc ∧ t.deliver.cur.hold = t.cur.hold := by
  unfold Tile.cur
  have h : t.deliver.inKernel = t.inKernel := rfl
  rw [h]
  split <;> exact ⟨rfl, rfl⟩
/-- What a replay leaves of the sequencer (R38, R50): all but the lines that it has read and the payload of its sync. -/
theorem replay_seq (t : Tile) : t.replay.seqRest = t.seqRest ∧ t.replay.timeRest = t.timeRest ∧ t.replay.tsq.loop = t.tsq.loop ∧
    t.replay.tm.nextIssue = t.tm.nextIssue ∧ t.replay.cur.pc = t.cur.pc ∧ t.replay.cur.hold = t.cur.hold := by
  cases h : t.base with
  | none => simp [Tile.replay, h]
  | some b =>
    simp only [Tile.replay, h]
    refine ⟨?_, ?_, ?_, ?_, ?_⟩
    · rw [deliver_seqRest]; simp [Tile.seqRest, Tile.alone]
    · rw [deliver_timeRest]; simp [Tile.timeRest, Tile.alone]
    · simp [Tile.deliver, Tile.alone]
    · simp [Tile.deliver, Tile.alone]
    · obtain ⟨h1, h2⟩ := deliver_cur { Tile.play t.acts.length t.acts (t.alone b) with base := some b, acts := t.acts }
      rw [h1, h2]
      rw [cur_of t _ (by simp [Tile.alone])]
      exact ⟨rfl, rfl⟩
theorem seqRest_tsqAct (t : Tile) (c y p : Nat) (e : Eff) : (t.tsqAct c y p e).seqRest = t.seqRest := rfl
theorem cur_tsqAct (t : Tile) (c y p : Nat) (e : Eff) : (t.tsqAct c y p e).cur = t.cur := rfl
theorem setCur_tm (t : Tile) (c : Ctx) : (t.setCur c).tm = t.tm := by unfold Tile.setCur; split <;> rfl
/-- What a line's read leaves of the sequencer. -/
theorem fetchInto_seq (t : Tile) (p y k : Nat) : (t.fetchInto p y k).seqRest = t.seqRest ∧ (t.fetchInto p y k).timeRest = t.timeRest ∧
    (t.fetchInto p y k).tsq.loop = t.tsq.loop ∧ (t.fetchInto p y k).cur.pc = t.cur.pc ∧ (t.fetchInto p y k).cur.hold = t.cur.hold := by
  unfold Tile.fetchInto
  obtain ⟨h1, h2, h3, -, h4, h5⟩ := replay_seq ((t.tsqAct y y t.pc (.fetch (t.iAddr p / 8))).setCur
    { t.cur with lines := SMap.put (t.cur.lines.filter fun x => decide (k ≤ x.1)) (t.iAddr p / 8) (y, []) })
  refine ⟨h1.trans ?_, h2.trans ?_, h3.trans ?_, h4.trans ?_, h5.trans ?_⟩
  · rw [seqRest_setCur, seqRest_tsqAct]
  · unfold Tile.timeRest; rw [setCur_tm]; rfl
  · rw [setCur_loop]; rfl
  · rw [setCur_cur]
  · rw [setCur_cur]
theorem recordLoop_seqRest (t : Tile) (p : Nat) (w : IWord) : (t.recordLoop p w).seqRest = t.seqRest := by
  unfold Tile.recordLoop Tile.seqRest; split
  · split <;> rfl
  · rfl
theorem recordLoop_cur (t : Tile) (p : Nat) (w : IWord) : (t.recordLoop p w).cur = t.cur := by
  unfold Tile.recordLoop; split
  · split <;> rfl
  · rfl
theorem issued_facts (t : Tile) (w : IWord) (c : Nat) :
    t.movedOn (t.issued w c) c ∧ (t.issued w c).cur.hold = t.cur.hold ∧ (t.issued w c).timeRest = t.timeRest := by
  have key : ∀ u : Tile, u.tsq.loop.map (fun l => (l.first, l.last, l.left)) = t.tsq.loop.map (fun l => (l.first, l.last, l.left)) → u.seqRest = t.seqRest →
      u.cur.hold = t.cur.hold → u.timeRest = t.timeRest →
      let x := u.setCur { u.cur with pc := BitVec.ofNat 17 (u.nextPc t.pc).1 }
      let y := { x with tsq := { x.tsq with loop := (u.nextPc t.pc).2 }, tm := { x.tm with nextIssue := c + 1 } }
      t.movedOn y c ∧ y.cur.hold = t.cur.hold ∧ y.timeRest = t.timeRest := by
    intro u h1 h2 h3 h4
    have hc : ({ u.setCur { u.cur with pc := BitVec.ofNat 17 (u.nextPc t.pc).1 } with
      tsq := { (u.setCur { u.cur with pc := BitVec.ofNat 17 (u.nextPc t.pc).1 }).tsq with loop := (u.nextPc t.pc).2 }, 
      tm := { (u.setCur { u.cur with pc := BitVec.ofNat 17 (u.nextPc t.pc).1 }).tm with nextIssue := c + 1 } } : Tile).cur
        = { u.cur with pc := BitVec.ofNat 17 (u.nextPc t.pc).1 } := by
      have := setCur_cur u { u.cur with pc := BitVec.ofNat 17 (u.nextPc t.pc).1 }
      exact Eq.trans (by rfl) this
    refine ⟨⟨?_, rfl, ?_⟩, ?_, ?_⟩
    · refine (congrArg (fun x => x.pc.toNat) hc).trans ?_
      simp only [BitVec.toNat_ofNat]
      rw [nextPc_of t u _ h1]
    · rw [← h2, ← seqRest_setCur u { u.cur with pc := BitVec.ofNat 17 (u.nextPc t.pc).1 }]; rfl
    · exact (congrArg Ctx.hold hc).trans h3
    · rw [← h4]; unfold Tile.timeRest; rw [setCur_tm]
  unfold Tile.issued
  simp only
  have hp : ∀ u : Tile, (u.prune c).tsq = u.tsq := fun _ => rfl
  split
  · apply key
    · rw [(fetchInto_seq _ _ _ _).2.2.1, hp, recordLoop_loop]
    · rw [(fetchInto_seq _ _ _ _).1]; exact recordLoop_seqRest t _ _
    · rw [(fetchInto_seq _ _ _ _).2.2.2.2, cur_of _ _ (hp _), recordLoop_cur]
    · rw [(fetchInto_seq _ _ _ _).2.1]; simp [Tile.timeRest]
  · apply key
    · rw [hp, recordLoop_loop]
    · exact recordLoop_seqRest t _ _
    · rw [cur_of _ _ (hp _), recordLoop_cur]
    · simp [Tile.timeRest]

theorem hold_cur (t : Tile) (h : Hold) : (t.hold h).cur = { t.cur with hold := h } := setCur_cur _ _
theorem hold_moved (t : Tile) (w : IWord) (c : Nat) (h : Hold) : t.movedOn ((t.issued w c).hold h) c ∧ ((t.issued w c).hold h).cur.hold = h := by
  obtain ⟨⟨h1, h2, h3⟩, -, -⟩ := issued_facts t w c
  refine ⟨⟨?_, ?_, ?_⟩, ?_⟩
  · rw [← h1]; simp [Tile.pc, hold_cur]
  · simpa using h2
  · rw [← h3]; exact seqRest_setCur _ _
  · simp [hold_cur]
theorem movedOn_settled {a b : Tile} {c : Nat} (h : a.movedOn b c) : a.movedOn b.settled c := h

theorem gate_go {t : Tile} {caps : Word} {aclk eng op : Nat} {w : IWord} {c : Nat} (h : t.gate caps aclk eng op w = .go c) :
    c = t.issueCyc aclk ∧ t.mayIssue w c = true ∧ t.tsqWord = w ∧ t.issueFault caps w c = none := by
  unfold Tile.gate at h
  simp only at h
  split at h
  · cases h
  · rename_i hh
    split at h
    · cases h
    · rename_i hf
      injection h with h
      subst h
      simp at hh
      exact ⟨rfl, hh.1.1, hh.1.2, hf⟩
theorem mayIssue_hold {t : Tile} {w : IWord} {c : Nat} (h : t.mayIssue w c = true) : t.cur.hold = .none := by
  unfold Tile.mayIssue at h
  simp at h
  exact h.1.2
theorem issues_hold {s : Mach} {n eng op : Nat} {w : IWord} {c : Nat} (h : s.issues n eng op w c) : (s.tile n).cur.hold = .none :=
  mayIssue_hold (gate_go h.2.2).2.1
/-- What a tile has to report has not changed: its counts of the present, what of them has been taken, and its alarms. -/
def sameReport (a b : Tile) : Prop := b.start0.cnt = a.start0.cnt ∧ b.took = a.took ∧ b.almTbl = a.almTbl ∧ b.almChan = a.almChan
theorem quiet_put (s : Mach) (n : Nat) (t : Tile) (h : sameReport (s.tile n) t) : Mach.onlyTileQuiet n s (s.putTile n t) := by
  obtain ⟨h0, h1, h2, h3⟩ := h
  refine ⟨onlyTile_put s n t, fun hs => ?_⟩
  have e1 : (s.tile n).settled.took = (s.tile n).took := congrArg Tile.took hs
  have e2 : (s.tile n).almTbl = false := by rw [← hs]; rfl
  have e3 : (s.tile n).almChan = false := by rw [← hs]; rfl
  refine putTile_quiet s n t ?_ (h2.trans e2) (h3.trans e3)
  simp only [Tile.settled] at e1 ⊢
  rw [h0, h1, e1]
end Sys2Proof.Machine
end

