-- ==== Sys2Proof/Tests/Slice0.lean ====
section
/-! SUPPORT. Tests: commands that are not well formed are refused, the manual's worked examples, and for every obligation with hypotheses the concrete states and
operands that meet them. -/

set_option linter.unusedVariables false
set_option Elab.async false

namespace Sys2Proof.Tests

open Sys2Proof.Machine

/-! ## Builders -/

/-- An instruction word of an engine and OP (R40), with operand fields: the low bit of each and its value. -/
def iw (eng op : Nat) (fs : List (Nat × Nat)) : IWord := BitVec.ofNat 64 (fs.foldl (fun a f => a + f.2 * 2 ^ f.1) (eng * 2 ^ 60 + op * 2 ^ 52))

/-- A line that holds an instruction as the second of its four. -/
def lineOf (w : IWord) : List Word := [0, 0, w.setWidth 32, (w >>> 32).setWidth 32]

/-- A started tile of the job whose sequencer has w at PC 1, every segment on. -/
def seqTile (w : IWord) : Tile :=
  { tsq := { inJob := true, started := true, jobGroup := true, main := { pc := 1, lines := [(0, 0, lineOf w)] } }
    tm := { nextIssue := 12 }
    cfg := { seg := 0xAAAAAAAA } }

/-- A machine with die 0 in service, ACLK on at cycle 10, and tile 0. -/
def mach (t : Tile) : State :=
  { clk := { aclk := 10, aclkOn := true, tb := 777777 }
    part := { dies := [0], caps := 0xFF }
    sec := { done := true }
    tiles := [(0, t)] }

/-- That machine with w at tile 0's PC. -/
def at1 (w : IWord) : State := mach (seqTile w)

/-- Enabled event sources. -/
def en (l : List Nat) : List (Nat × Word) := l.map fun x => (srcCfg x, 0x80000000)

/-- An object table or send channel entry, or another word, by fields. -/
def bits (n : Nat) (fs : List (Nat × Nat)) : BitVec n := BitVec.ofNat n (fs.foldl (fun a f => a + f.2 * 2 ^ f.1) 0)

/-- A handle entry of n lines from line b in a format (R93): it does not follow the step parity. -/
def entry (b n f : Nat) : BitVec 64 := bits 64 [(63, 1), (56, f), (38, 8 * n - 1), (8, b), (23, b)]

/-- A pointer to n lines from line b in a format. -/
def place (b n f : Nat) : Ptr := { handle := 1, entry := entry b n f, base := 8 * b, loff := 0 }

/-- A command that leaves in cycle l. -/
def job (w : IWord) (l : Nat) : Job := { q := { w := w, pc := 1, cyc := l - 2, ptr := {} }, env := { num := 0, caps := 0xFF, k0 := 5, k1 := 9 }, l := l }

/-! ## Ill-formed commands (one for each check of WellFormed) -/

/-- Every instruction row, with its engine and OP. -/
def wordRows : List ((Nat → IWord → Instr) × Nat × Nat) :=
  [(.syNop, 0, 0x00), (.sySync, 0, 0x01), (.syAt, 0, 0x02), (.syWait, 0, 0x03), (.sySig, 0, 0x04), (.syBr, 0, 0x05), (.syLoop, 0, 0x06), (.syCpost, 0, 0x08),
   (.syCyield, 0, 0x09), (.syCret, 0, 0x0A), (.syCdrain, 0, 0x0B), (.sySrst, 0, 0x0C), (.syCommit, 0, 0x0D), (.syHalt, 0, 0x0E), (.mxPtr, 1, 0x01),
   (.mxZmap, 1, 0x02), (fun t w => .mxMma t w none, 1, 0x10), (.mxZero, 1, 0x20), (.mxLd, 1, 0x21), (.mxSt, 1, 0x22), (.mxAcs, 1, 0x23), (.mxPush, 1, 0x24),
   (.mxChk, 1, 0x25), (.vxPtr, 2, 0x01), (.vxRun, 2, 0x10), (.vxSmx, 2, 0x20), (.gtPtr, 3, 0x01), (.gtCpy, 3, 0x10), (.gtTr, 3, 0x11), (.gtGat, 3, 0x12),
   (.gtSct, 3, 0x13), (.gtRnd, 3, 0x14), (.siPtr, 4, 0x01), (.siZmap, 4, 0x10), (.siCmp, 4, 0x11), (.siRoute, 4, 0x12), (.sgPtr, 5, 0x01), (.sgPack, 5, 0x10),
   (.sgVote, 5, 0x11), (.xcPtr, 6, 0x01), (.xcSend, 6, 0x10), (.xcRecv, 6, 0x11), (.xcCsend, 6, 0x20), (.xcCrecv, 6, 0x21), (.xcQclose, 6, 0x22),
   (.xcCadd, 6, 0x24), (.xcCread, 6, 0x25), (.hbPtr, 7, 0x01), (.hbDev, 7, 0x02), (.hbLd, 7, 0x10), (.hbSt, 7, 0x11), (.hxGsig, 8, 0x10), (.hxGwait, 8, 0x11),
   (.hxGdeb, 8, 0x12), (.hxMove, 8, 0x18), (.hxEvt, 8, 0x19), (.hxLoss, 8, 0x20), (.hxGate, 8, 0x21), (.hxSmark, 8, 0x22), (.hxDig, 8, 0x28), (.hxQans, 8, 0x30),
   (.hxIdle, 8, 0x38)]

/-- An instruction row admits its word on the last tile, and refuses a tile past it, another engine and another OP (R40, R25). -/
theorem test_wf_words : (wordRows.all fun r => (r.1 7167 (iw r.2.1 r.2.2 [])).wf && !(r.1 7168 (iw r.2.1 r.2.2 [])).wf && !(r.1 0 (iw (r.2.1 + 1) r.2.2 [])).wf &&
    !(r.1 0 (iw r.2.1 (r.2.2 + 1) [])).wf) = true := by decide +kernel

/-- Tile events refuse a tile past the last, and their counters, engines, queues and channels past theirs. -/
theorem test_wf_tiles : ([(.atCycleReached 7168 : Instr), .drainPointResume 7168, .cuffSwitchIn 7168, .cuffReturn 7168, .cuffLineFetch 7168, .cuffOverrun 7168,
    .syncArrival 7168 true, .guardEnd 7168, .exchangePhaseEnd 7168, .lscWaitGrant 7168 0, .lscWaitGrant 0 16, .engineCommandComplete 7168 1,
    .engineCommandComplete 0 0, .engineCommandComplete 0 7, .yieldingAccessGrant 7168 0, .exchangeLineArrival 7168 0 .good, .channelRecordArrival 7168 0,
    .channelRecordArrival 0 16, .contributionArrival 7168 0 0, .contributionArrival 0 16 0, .contributionResend 7168 0, .contributionResend 0 32,
    .contributionAcceptance 7168 0, .contributionAcceptance 0 32, .creditReturn 7168 0, .creditReturn 0 32, .closeNotice 7168 0, .closeNotice 0 32,
    .dropNotice 7168 0, .dropNotice 0 32, .hbCommandComplete 7168 0, .hbCommandError 7168 0 false, .mxMma 0 (iw 1 0x10 []) (some { row := 16, col := 0, k := 0, add := 1 }),
    .mxMma 0 (iw 1 0x10 []) (some { row := 0, col := 16, k := 0, add := 1 })].all fun i => !i.wf) = true := by decide +kernel

/-- Package events refuse groups, dies, links, counters, movers, stacks, rings and slots that do not exist. -/
theorem test_wf_package : ([(.syncRelease 16 : Instr), .groupWatchdogExpiry 4 0, .groupWatchdogExpiry 0 16, .routerLineCollision { gx := 256, y := 0, out := 0 } 0,
    .routerLineCollision { gx := 0, y := 28, out := 0 } 0, .routerLineCollision { gx := 0, y := 0, out := 8 } 0, .gscGrant 1024, .gscCmdRst .host 1024 0,
    .gscCmdDeb .host 1024 0, .gscCmdSig .host 1024 0, .bulkTransferComplete 32 false, .queryFetch 4, .queryExpiry 4, .hbmTempSample 8 0, .hbmControllerFault 8,
    .segstateWrite .host 4 0 0, .segstateWrite .host 0 1792 0, .segmentStateDone 4, .segctlScrub .host 4 0, .scrubDone 4, .doorbellCmdTail 16 0,
    .doorbellCplHead 16 0, .doorbellQueryTail 16 0, .doorbellQcplHead 16 0, .ringDisable .host 41 0, .descriptorFetch 16 false, .completionEntryWrite 16,
    .queryCompletionWrite 4, .nop 16, .load 16 {}, .start 16, .stop 16, .abort 16, .restart 16, .unload 16, .copy 16, .snap 16, .fitting 16 {}, .readreg 16,
    .powercap 16, .bar2Access { off := 2 }].all fun i => !i.wf) = true := by decide +kernel

/-- A writer is the host, Bonnet or one of four Brim cores. -/
theorem test_wf_writers : ([(.gscCmdRst (.brim 4) 0 0 : Instr), .gscCmdDeb (.brim 4) 0 0, .gscCmdSig (.brim 4) 0 0, .hbmOtcmdPlace (.brim 4) 0, .hbmOtcmdMigrate (.brim 4) 0,
    .hbmOtcmdFree (.brim 4) 0, .segstateWrite (.brim 4) 0 0 0, .segctlScrub (.brim 4) 0 0, .ringDisable (.brim 4) 0 0, .evcBqack (.brim 4) 0 0, .evcSwset (.brim 4) 0,
    .evcSourceDisable (.brim 4) 0 0, .itgAlarmset (.brim 4) 0, .hatboxPush (.brim 4) 0, .dilCtlRetrain (.brim 4) 0 0, .dilPortDisable (.brim 4) 0 0, .crpRstcmd (.brim 4) 0,
    .tdbApertureAccess (.brim 4) 0 none, .registerWrite (.brim 4) 0 0 15].all fun i => !i.wf) = true := by decide +kernel

/-- Events, ports, D2D lanes, resets, supply groups, mailbox and certificate slots, and addresses of the sideband. -/
theorem test_wf_rest : ([(.evcBqack .host 4 0 : Instr), .evcSourceDisable .host 512 0, .dilFlitReceive 12 { hdr := 0 }, .dilRetrain 12 true 0, .dilLaneFailure 12 0,
    .dilLaneFailure 0 9, .dilCtlRetrain .host 12 0, .dilPortDisable .host 12 0, .syncTreeAttachMsg 12 0 true, .syncTreeAttachMsg 0 16 true,
    .syncTreeArrivalMsg 12 { g := 0, seq := 0 }, .syncTreeArrivalMsg 0 { g := 16, seq := 0 }, .syncTreeReleaseMsg 12 { g := 0, seq := 0 },
    .syncTreeReleaseMsg 0 { g := 16, seq := 0 }, .d2dLaneFailure 4 0 0, .d2dLaneFailure 0 8 0, .d2dLaneFailure 0 0 68, .coldReset 4, .warmReset 5, .pgoodFall 18, .measure 2,
    .cert 2, .fuseread 2, .update 2 true, .jrnlclr 2, .getVersion { slot := 8 }, .getCapabilities { slot := 8 }, .negotiateAlgorithms { slot := 8 },
    .getDigests { slot := 8 }, .getCertificate { slot := 8 }, .challenge { slot := 8 }, .getMeasurements { slot := 8 }, .keyExchange { slot := 8 }, .finish { slot := 8 },
    .heartbeat { slot := 8 }, .keyUpdate { slot := 8 }, .endSession { slot := 8 }, .vendorDefinedRequest { slot := 8 }, .registerWrite .host 0 0 16,
    .dynamicAddressAssignment true 128 0, .dynamicAddressAssignment true 0 128].all fun i => !i.wf) = true := by decide +kernel

/-! ## The manual's worked examples -/

/-- Chapter 1, locating logical tile 4,660: die 2, half 1, row 5, logical column 20; with the core at physical column 13 fenced it sits at physical column 21. -/
theorem test_locate_tile : dieOf 4660 = 2 ∧ halfOf 4660 = 1 ∧ rowOf 4660 = 5 ∧ 4660 % 32 = 20 ∧
    ({ dies := [(2, { rowmap := [(33, 0x210D)] })] } : Mach).physCol 2 1 5 20 = 21 := by decide +kernel

/-- Chapter 4, a store into FP8-E4M3: 300.0, 500.0, -0.0013 and NaN to nearest even, and 300.0, 500.0 and -0.0013 under the draws 0xB3C1, 0x0417 and 0x9E02. -/
theorem test_store_fp8 : ([0x43960000, 0x43FA0000, 0xBAAA64C3, 0x7FC00000].map fun c => (convert {} 0 4 none false c).1) = [0x79, 0x7E, 0x81, 0x7F] ∧
    (convert {} 0 4 (some 0xB3C1) false 0x43960000).1 = 0x7A ∧ (convert {} 0 4 (some 40959) false 0x43960000).1 = 0x79 ∧
    (convert {} 0 4 (some 0x0417) false 0x43FA0000).1 = 0x7E ∧ (convert {} 0 4 (some 0x9E02) false 0xBAAA64C3).1 = 0x81 := by decide +kernel

/-- Chapter 6, bias and GELU: S = 9, latency 36, B = 9, Rin = 1; leaving at 300, beat 15 enters at 443, and its output, the last write, falls in 479. -/
theorem test_gelu_timing :
    let vs : List VStream := [{ kind := 1 }, { kind := 0, bcast := true, ptr := place 4 1 2 }, { kind := 0, ptr := place 8 16 2 }]
    let op := fun (c d a b : Nat) => (bits 32 [(26, c), (23, d), (19, a), (15, b)] : Word)
    let prog : EProg := { len := 6, ops := [op 0x02 0 0 2, op 0x04 1 0 8, op 0x15 1 1 0, op 0x02 1 1 9, op 0x04 4 0 10, op 0x04 7 4 1], consts := [] }
    let s : VShape := { rows := 16, cols := 16, wf := 0 }
    let x := vxTime [] vs s prog
    prog.slots 0 = 9 ∧ x = { b := 9, inp := 7, lat := 36, nb := 1 } ∧ x.enter 300 15 = 443 ∧ vxSpan (vs.getD 2 {}) s 0 x 300 = (344, 479) := by
  decide +kernel

/-- Chapter 7, routing eight tokens: lists of experts 0 to 3 and the count line, from the choices of the example. -/
theorem test_route : [0, 1, 2, 3].map (fun e => routeList 2 e [2, 0, 1, 2, 2, 3, 0, 1, 2, 2, 3, 0xFFFF, 2, 1, 5, 1]) = [[0, 3], [1, 3, 6, 7], [0, 1, 2, 4, 6], [2, 5]] := by
  decide +kernel

/-- Chapter 8, four lines from CD0 to CD2: injected at 48, line 0 reaches the receiver's port 6 at 175. -/
theorem test_route_line : (({ part := { dies := [0, 1, 2, 3] } } : Mach).route 1000 3700 48).2 = 175 ∧
    colGx 1000 = 40 ∧ rowOf 1000 = 3 ∧ colGx 3700 = 139 ∧ rowOf 3700 = 3 := by decide +kernel

/-- Chapter 9, a ring of 256 words that wraps with a pad: C is written at line 17, D takes a pad first, E holds until B is received. -/
theorem test_ring_places : ({ credit := 176, tail := 136, seq := 2 } : SendCh).place 256 112 = 1 ∧ ({ credit := 64, tail := 248, seq := 3 } : SendCh).place 256 40 = 2 ∧
    ({ credit := 16, tail := 40, seq := 4 } : SendCh).place 256 32 = 3 ∧ ({ credit := 96, tail := 40, seq := 4 } : SendCh).place 256 32 = 1 ∧
    (recHeader { kind := .pad, spkg := 0, stile := 2150, ch := 0, dpkg := 0, dtile := 2200, dq := 3 } 1).head? = some 0x80000001 ∧
    (recHeader { kind := .record, spkg := 0, stile := 2150, ch := 0, dpkg := 0, dtile := 2200, dq := 3 } 5).head? = some 0x00000005 := by decide +kernel

/-- Chapter 10, an optimizer shard over four stacks: line 0 at 0x0012_4003_5A40 lies in HS1, at stack address 0x2_0000_DA40. -/
theorem test_translate :
    ({ ot := { ents := [(37, bits 128 [(127, 1), (116, 0x0F), (90, 0x1000), (72, 511), (54, 0x9200)])] } } : Mach).devPlace 0x001240035A40 = .stack 1 0x20000DA40 := by
  decide +kernel

/-- Chapter 13, the 4 by 4 torus: entry 6 of DIL_RT_0 is at bits 27:24, and names DIL0. -/
theorem test_torus_route : ({ regs := [(0xB_0000, 0), (0xB_0100, 0xF0FFFFFF)], dil := { ports := [(0, { present := true, up := true })] } } : Mach).portTo 6 = some 0 := by
  decide +kernel

/-- Chapter 14, three copies: the completion entry of the COPY in slot 0, CID 0x0051, SQHEAD 1, 32,768 lines. -/
theorem test_copy_completion :
    ({ regs := [(ringCfg 2, 0x80020000)], hq := { rings := [(2, { head := 1, tail := 1 })] } } : Mach).cplEntry 2 [0x00510020] [] 0x20 0 0 0x8000 = [0x00510020, 0x00010002, 0, 0x00008000] := by
  decide +kernel

/-- Chapter 15, round robin: with LAST 2 and TGT 0b00101 the next enabled target is 0, and after 0 it is 2. -/
theorem test_round_robin : ({ regs := [(grpReg 3, 5), (ringCfg 40, 0x80000000)], evc := { last := [(3, 2)] } } : Mach).claimTarget 3 = some 0 ∧
    ({ regs := [(grpReg 3, 5), (ringCfg 40, 0x80000000)], evc := { last := [(3, 0)] } } : Mach).claimTarget 3 = some 2 := by decide +kernel

/-- Chapter 17, boots 6,001 to 6,004: leaves 9,726, 9,728 across a full block, and 9,984 once the AON copy is lost; SEC_LEAF and SEC_LEAFBLK after the last. -/
theorem test_leaves : (({ sec := { f := 38, w := some 254 } } : Mach).spendLeaf).sec.leaf = some 9726 ∧ (({ sec := { f := 38, w := some 254 } } : Mach).spendLeaf).sec.w = some 255 ∧
    (({ sec := { f := 38, w := some 256 } } : Mach).spendLeaf).sec.leaf = some 9728 ∧ (({ sec := { f := 38, w := some 256 } } : Mach).spendLeaf).sec.f = 39 ∧
    (({ sec := { f := 39, lcValid := true } } : Mach).spendLeaf).sec.leaf = some 9984 ∧ (({ sec := { f := 39, lcValid := true } } : Mach).spendLeaf).secLeaf = 0x80002700 ∧
    (({ sec := { f := 39, lcValid := true } } : Mach).spendLeaf).secLeafBlk = 0x00010028 := by decide +kernel

/-- Chapter 19, a TYPE 1 record of object 5 with ADDEND 0x0008_0000 patches ABASE to 0x0920_0400; a TYPE 3 record with ADDEND 1 writes package 5 at rank 2 and NPPR 2. -/
theorem test_patch :
    let img : Image := { decl := { nppr := 2 }, bindings := [(5, 0x001240000000, 0)] }
    let p1 := applyPatch img 2 3 (bytesOfNat 1 1 ++ bytesOfNat 1 0 ++ bytesOfNat 2 5 ++ bytesOfNat 4 8 ++ bytesOfNat 8 0x00080000) { data := [(0, List.replicate 8 0 ++ bytesOfNat 8 0x7020010000000000)] }
    (p1.map fun p => natOfBytes (((p.data.get [] 0).drop 8).take 8)) = some 0x7020010009200400 ∧
      (patchOf img 2 3 (bytesOfNat 1 3 ++ bytesOfNat 7 0 ++ bytesOfNat 8 1)).map (fun p => p.val) = some 5 := by decide +kernel

/-- Chapter 20, discovering a ULX-E9-4L with one unavailable row. -/
theorem test_discovery :
    let s : Mach := { part := { variant := 1, stackMask := 0x6F, portMask := 0x6DB, idPart := true, idRest := true, profValid := true, dies := [0, 1, 2, 3], caps := 0x7E }
                      dies := [(1, { rowmap := [(3, 0x10000)] })] }
    [0x04, 0x50, 0x54, 0x58, 0x5C, 0x30, 0x40].map (fun o => s.regVal o) =
      [some 0xE9410001, some 0x00006F0F, some 0x000006DB, some 0x00011BE0, some 0x80000001, some 0x0000007E, some 0x80000031] := by decide +kernel

/-! ## Single commands -/

/-- A step takes the command in front: sy.nop at PC 1 moves PC to 2 in cycle 12, and the next command waits. -/
theorem test_step_nop : (match step { at1 0 with pending := [.syNop 0 0, .windowClose] } with
    | .next t => (t.tile 0).pc == 2 && (t.tile 0).tm.nextIssue == 13 && t.pending == [.windowClose]
    | _ => false) = true := by decide +kernel

/-- On an empty queue the block ticks: one ACLK cycle, at code 0 (R465). -/
theorem test_step_tick : (match step (at1 0) with | .next t => t.clk.aclk == 11 && t.pending == [] | _ => false) = true := by decide +kernel

/-- An OP that R40 does not define is the illegal-instruction fault, CAUSE 0x01 (R41). -/
theorem test_illegal : (match exec (.syNop 0 (iw 0 0x1F [])) (at1 (iw 0 0x1F [])) with | .next t => (t.tile 0).tfr.valid && (t.tile 0).tfr.cause == 0x01 | _ => false) = true := by
  decide +kernel

/-- A signal at 0xFFFF stays there and sets OFLAG (R244). -/
theorem test_sig_full : (match exec (.sySig 0 (iw 0 0x04 [(38, 3)])) (mach { seqTile (iw 0 0x04 [(38, 3)]) with lscs := [(3, { value := 0xFFFF })] }) with
    | .next t => (t.tile 0).lsc 3 == 0xFFFF && ((t.tile 0).lscs.get {} 3).oflag
    | _ => false) = true := by decide +kernel

/-- sy.srst stores SR zero-extended (R47). -/
theorem test_srst : (match exec (.sySrst 0 (iw 0 0x0C [(0, 100)])) (mach { seqTile (iw 0 0x0C [(0, 100)]) with tsq := { (seqTile (iw 0 0x0C [(0, 100)])).tsq with sr := 0x7ABCD } }) with
    | .next t => (t.tile 0).mem.word 100 == 0x7ABCD && (t.tile 0).mem.wf
    | _ => false) = true := by decide +kernel

/-- Before any die is in service a tile command does nothing: State.reset stays. -/
theorem test_reset_tile : (match exec (.syNop 0 0) State.reset with | .next t => decide (t = State.reset) | _ => false) = true := by decide +kernel

/-- A write of EVC_SWSET makes one arrival of an enabled source (R399, R400). -/
theorem test_swset : (match exec (.evcSwset .host 0x1C3) (State.mk { (at1 0).toMach with regs := en [0x1C3] } []) with
    | .next t => (SMap.get ({} : EvSrc) t.evc.srcs 0x1C3).pend && (SMap.get ({} : EvSrc) t.evc.srcs 0x1C3).count == 1
    | _ => false) = true := by decide +kernel

/-- Writing what an unlisted byte reads as removes its entry; another write keeps the entries ascending. -/
theorem test_memory_form : (Mem.setByte [(3, 7)] 3 0, Mem.byte [(3, 7)] 4, Mem.setByte [(3, 7)] 1 9) = ([], (0 : Byte), [(1, 9), (3, 7)]) := by decide +kernel

/-! ## Witnesses: states and operands that meet the hypotheses of each obligation, clause by clause -/

/-- A kernel whose saved position is past its entry. -/
def k1 : Kernel := { entry := 8, arg := 3, pos := 9 }
/-- A pending sync: its counter mask names counter 2. -/
def pnd (arrived : Bool) : PendSync :=
  { desc := 0, gsel := false, group := 0, xguard := 5, xlen := 9, mask := 4, comb := 0, payload := 0, pc := 1, cyc := 3, arrived := arrived }
/-- A sequencer that runs a kernel in a mode, with w at the kernel's PC. -/
def inCtx (w : IWord) (m : CuffMode) : Tile :=
  { seqTile w with tsq := { (seqTile w).tsq with mode := m, queue := [k1, { entry := 16, arg := 1, pos := 16 }], main := {}, cuff := { pc := 1, lines := [(0, 0, lineOf w)] } } }
/-- A tile that has w at its PC and a queue of kernels. -/
def posted (w : IWord) (n : Nat) : Tile := { seqTile w with tsq := { (seqTile w).tsq with queue := List.replicate n k1 } }
/-- An arrival of tile 0. -/
def arr0 : Arrival := { tile := 0, cyc := 9, payload := 7, comb := 1, faulted := false, excess := false }

theorem witness_NopAtAndWaitHoldNothingElse :
    (at1 (iw 0 0x00 [])).issues 0 0 0x00 (iw 0 0x00 []) 12 ∧ (at1 (iw 0 0x02 [(0, 0xFFFF)])).issues 0 0 0x02 (iw 0 0x02 [(0, 0xFFFF)]) 12 ∧
    (at1 (iw 0 0x03 [(38, 15)])).issues 0 0 0x03 (iw 0 0x03 [(38, 15)]) 12 := by unfold Mach.issues; decide +kernel

theorem witness_SySigChangesOneCounter :
    (at1 (iw 0 0x04 [(38, 15)])).issues 0 0 0x04 (iw 0 0x04 [(38, 15)]) 12 ∧ bit (iw 0 0x04 [(38, 15)]) 37 = false ∧
    (at1 (iw 0 0x04 [(38, 15), (37, 1)])).issues 0 0 0x04 (iw 0 0x04 [(38, 15), (37, 1)]) 12 ∧ bit (iw 0 0x04 [(38, 15), (37, 1)]) 37 = true ∧
    (∀ v ∈ [0, 1, 0xFFFF], ({ value := v } : Lsc).fresh 12) := by unfold Mach.issues Lsc.fresh; decide +kernel

theorem witness_BrAndLoopMoveThePc :
    let always := iw 0 0x05 [(25, 40)]
    let eq := iw 0 0x05 [(25, 40), (21, 1), (16, 2), (0, 7)]
    let loop := iw 0 0x06 [(36, 3), (20, 9)]
    ((at1 always).issues 0 0 0x05 always 12 ∧ (seqTile always).brTaken always 12 = true ∧ (at1 eq).issues 0 0 0x05 eq 12 ∧ (seqTile eq).brTaken eq 12 = false ∧
      (at1 loop).issues 0 0 0x06 loop 12) ∧ (∀ k, SMap.get (0 : Int) (at1 always).part.tpNative k = 0) ∧ (∀ k, SMap.get (0 : Word) (at1 always).part.tpPad k = 0) := by
  unfold Mach.issues; exact ⟨by decide +kernel, fun _ => rfl, fun _ => rfl⟩

theorem witness_SyCommitAndSySrstOpenAndStore :
    let srst := iw 0 0x0C [(0, 0x3FFFF)]
    let off := mach { seqTile srst with cfg := { seg := 0 } }
    (at1 (iw 0 0x0D [])).issues 0 0 0x0D (iw 0 0x0D []) 12 ∧
    ((at1 (iw 0 0x0D [])).tile 0).calm ∧ ((at1 srst).tile 0).calm ∧ (off.tile 0).calm ∧
    (at1 srst).issues 0 0 0x0C srst 12 ∧ ((at1 srst).tile 0).mem.wf = true ∧ ((at1 srst).tile 0).segOn 0x3FFFF = true ∧ ((at1 srst).tile 0).freeIn 13 ∧
    off.issues 0 0 0x0C srst 12 ∧ (off.tile 0).mem.wf = true ∧ (off.tile 0).segOn 0x3FFFF = false := by
  unfold Mach.issues Tile.calm Tile.freeIn; decide +kernel

theorem witness_KernelsArePostedRunAndReturn :
    let post := iw 0 0x08 [(25, 40), (17, 7)]
    let drain := iw 0 0x0B []
    let yield := iw 0 0x09 []
    let ret := iw 0 0x0A []
    ((mach (posted post 7)).issues 0 0 0x08 post 12 ∧ (posted post 7).tsq.queue.length < 8) ∧ ((mach (posted post 8)).issues 0 0 0x08 post 12 ∧ 8 ≤ (posted post 8).tsq.queue.length) ∧
    ((at1 drain).issues 0 0 0x0B drain 12 ∧ ((at1 drain).tile 0).tsq.queue = []) ∧ ((mach (posted drain 1)).issues 0 0 0x0B drain 12 ∧ (posted drain 1).tsq.queue ≠ []) ∧
    ((at1 yield).issues 0 0 0x09 yield 12 ∧ ((at1 yield).tile 0).inCuff = false) ∧ ((mach (inCtx yield .ctx)).issues 0 0 0x09 yield 12 ∧ (inCtx yield .ctx).inCuff = true) ∧
    ((mach (inCtx ret (.post k1))).issues 0 0 0x0A ret 12 ∧ (inCtx ret (.post k1)).tsq.mode = .post k1) ∧
    ((mach (inCtx ret .drainAll)).issues 0 0 0x0A ret 12 ∧ (inCtx ret .drainAll).tsq.mode = .drainAll) ∧
    (let waits : Tile := { inCtx ret .ctx with tm := { nextIssue := 12, pend := some (pnd true) } }
     (mach waits).issues 0 0 0x0A ret 12 ∧ waits.tsq.mode = .ctx ∧ (waits.issued ret 12).dropKernel.mainReady ((mach waits).mainChanReady 0) ((mach waits).extReady 0) 12 = none) ∧
    ((mach (inCtx ret .ctx)).issues 0 0 0x0A ret 12 ∧ (inCtx ret .ctx).tsq.mode = .ctx ∧
      ((inCtx ret .ctx).issued ret 12).dropKernel.mainReady ((mach (inCtx ret .ctx)).mainChanReady 0) ((mach (inCtx ret .ctx)).extReady 0) 12 ≠ none) := by
  unfold Mach.issues; decide +kernel

theorem witness_CuffSwitchesReturnsFetchesAndOverruns :
    let waits := mach { seqTile 0 with tsq := { (seqTile 0).tsq with queue := [k1], lineBuf := [(4, 0, [1]), (5, 0, [2])] }, tm := { nextIssue := 12, pend := some (pnd true) } }
    let back := mach { inCtx 0 .ctx with tsq := { (inCtx 0 .ctx).tsq with retPend := true } }
    let empty := mach (posted 0 1)
    let late := mach { inCtx 0 .ctx with tsq := { (inCtx 0 .ctx).tsq with phase := .guard }, tm := { nextIssue := 12, xguard := 5, relAt := some 4 } }
    ((waits.tile 0).cuffSwitch.isSome ∧ waits.mainChanReady 0 = false) ∧ ((back.tile 0).inCuff = true ∧ (back.tile 0).tsq.retPend = true ∧ (back.tile 0).allIdle = true) ∧
    ((empty.tile 0).tsq.queue ≠ [] ∧ (empty.tile 0).tsq.lineBuf = []) ∧ (late.tile 0).overrun = true ∧
    ([waits, back, empty, late].all fun s => s.clk.aclkOn && s.tileExists 0) = true := by decide +kernel

theorem witness_SyHaltStopsTheTile : (mach { seqTile (iw 0 0x0E []) with rqs := [(15, { opn := true })] }).issues 0 0 0x0E (iw 0 0x0E []) 12 := by unfold Mach.issues; decide +kernel

theorem witness_SyncIsIssuedAndArrivedAt :
    let w := iw 0 0x01 [(36, 2), (34, 1), (0, 0xFFFF)]
    let s := mach { seqTile w with tab := { syncs := [(2, bits 64 [(32, 5), (16, 9), (0, 4)])] } }
    let a := mach { seqTile 0 with tm := { nextIssue := 12, pend := some (pnd false) }, lscs := [(2, { value := 1 })] }
    s.issues 0 0 0x01 w 12 ∧ bit w 33 = false ∧
    (let y := iw 0 0x01 [(36, 2), (33, 1), (0, 0x3FFFF)]
       let m := mach { seqTile y with mem := Mem.setWord [] 0x3FFFF 7 }
       m.issues 0 0 0x01 y 12 ∧ bit y 33 = true ∧ (m.tile 0).calm ∧ (m.tile 0).segOn 0x3FFFF = true ∧ (m.tile 0).freeIn 13 ∧ (m.tile 0).firstBad 0x3FFFF 1 = none) ∧
    a.clk.aclkOn = true ∧ a.tileExists 0 = true ∧ (a.tile 0).tsq.inJob = true ∧ (a.tile 0).tsq.started = true ∧ (a.tile 0).tsq.halted = false ∧
      (a.tile 0).faultedBy a.clk.aclk = false ∧ (a.tile 0).tm.pend = some (pnd false) ∧ (a.tile 0).arrivalReady = true := by
  unfold Mach.issues Tile.calm Tile.freeIn; decide +kernel

/-- One member of group 15 has arrived. -/
def relState : State :=
  { mach { seqTile 0 with tm := { nextIssue := 12, pend := some { pnd true with group := 15 } } } with
    regs := [(cdc 0 (0x100_2000 + 60), 1)], groups := [(15, { arr := [arr0] })], dies := [(0, { wdogx := [15] })] }

theorem witness_SyncReleaseStartsEveryMember : relState.clk.aclkOn = true ∧ 15 < 16 ∧ relState.xchip 15 = false ∧ relState.groupFull 15 = true ∧ relState.members 0 15 ≠ 0 := by
  decide +kernel

/-- A tile in a phase, released at cycle 3. -/
def inPhase (p : Phase) : State :=
  mach { seqTile 0 with tsq := { (seqTile 0).tsq with phase := p }, tm := { nextIssue := 12, relAt := some 3, xguard := 5, xlen := 30 }, slots := [(7, { armed := true })] }
/-- A tile whose issue is held. -/
def held (h : Hold) : State := mach { seqTile 0 with tsq := { (seqTile 0).tsq with main := { pc := 1, hold := h } }, tm := { nextIssue := 12, relAt := some 3 } }

theorem witness_PhasesFollowPccAndHeldIssueResumes :
    (((inPhase .guard).tile 0).tm.relAt = some 3 ∧ ((inPhase .guard).tile 0).tsq.phase = .guard) ∧
    (((inPhase .exchange).tile 0).tm.relAt = some 3 ∧ ((inPhase .exchange).tile 0).tsq.phase = .exchange) ∧
    (((held (.untilPcc 40)).tile 0).cur.hold = .untilPcc 40 ∧ ((held (.untilPcc 40)).tile 0).tm.relAt = some 3) ∧
    (let t := (held (.drain 11)).tile 0
     t.cur.hold = .drain 11 ∧ t.allIdle = true ∧ t.stoppedAt 10 = false ∧ t.tsq.halted = false ∧ (t.inCuff && t.tsq.retPend) = false) ∧
    ([inPhase .guard, inPhase .exchange, held (.untilPcc 40), held (.drain 11)].all fun s => s.clk.aclkOn && s.tileExists 0) = true := by decide +kernel

theorem witness_CountersGrantEnginesCompleteWatchdogsMark :
    let g := (held (.wait 15 11)).toMach
    let w : State := { g with tiles := [(0, { g.tile 0 with lscs := [(15, { value := 1 })] })] }
    let e := mach { seqTile 0 with engs := [(5, { running := [{ done := 50, sig := some 4 }, { done := 40, sig := none }] })] }
    let d : State := { relState with regs := [(cdc 0 (0x100_2000 + 60), 0x100001), (srcCfg (0x084 + 15), 0x80000000)], dies := [] }
    ((w.tile 0).granted (w.extReady 0) 15 w.clk.aclk ≠ [] ∧ (∀ x ∈ (w.tile 0).granted (w.extReady 0) 15 w.clk.aclk, x ≤ 1) ∧ (w.tile 0).tfr.valid = false) ∧
    (5 ∈ [1, 2, 3, 4, 5] ∧ ((e.tile 0).eng 5).running ≠ [] ∧ ((e.tile 0).eng 8).waiting = []) ∧
    (15 < 16 ∧ fld (d.sgrpCfg 0 15) 23 20 ≠ 0 ∧ (d.group 15).arrived 0 ≠ 0 ∧ ((d.die 0).wdogx.contains 15) = false ∧ bit (d.reg (srcCfg (0x084 + 0x40 * 0 + 15))) 31 = true) ∧
    ([w, e].all fun s => s.clk.aclkOn && s.tileExists 0) = true := by decide +kernel

/-- A tile of the job in its exchange phase, at PCC 7, with w at its PC and a source place for compiled sends. -/
def exTile (w : IWord) : Tile :=
  { seqTile w with
    tsq := { (seqTile w).tsq with phase := .exchange }
    tm := { nextIssue := 12, relAt := some 5, xlen := 100, xguard := 2 }
    ptrs := [(25, { place 6 20 0 with loff := 1 })]
    tab := { mcast := [(3, bits 128 [(96, 1), (100, 3), (63, 1), (65, 1)])] } }

theorem witness_EngineCommandsLeaveAndRun :
    (∀ r ∈ [(1, 0x01), (1, 0x02), (1, 0x10), (1, 0x20), (1, 0x21), (1, 0x22), (1, 0x23), (1, 0x24), (1, 0x25), (2, 0x01), (2, 0x10), (2, 0x20), (3, 0x01), (3, 0x10),
      (3, 0x11), (3, 0x12), (3, 0x13), (4, 0x01), (4, 0x10), (4, 0x11), (4, 0x12), (5, 0x01), (5, 0x10), (5, 0x11), (7, 0x10), (7, 0x11)],
      (at1 (iw r.1 r.2 [])).leavesAtOnce 0 r.1 r.2 (iw r.1 r.2 []) 12 ∧ (at1 (iw r.1 r.2 [])).hbFree 0 ≠ []) ∧
    (at1 (iw 3 0x14 [(26, 15)])).leavesAtOnce 0 3 0x14 (iw 3 0x14 [(26, 15)]) 12 ∧ (∀ op ∈ [0x01, 0x11], (mach (exTile (iw 6 op []))).leavesAtOnce 0 6 op (iw 6 op []) 12) := by
  unfold Mach.leavesAtOnce Mach.issues; decide +kernel

theorem witness_CommandsLeaveInOrderAndPointersLoad :
    (at1 (iw 3 0x01 [(40, 2)])).leavesAtOnce 0 3 0x01 (iw 3 0x01 [(40, 2)]) 12 ∧ iEng (job (iw 1 0x01 [(40, 3)]) 13).q.w = 1 ∧ iEng (job (iw 2 0x01 [(40, 2)]) 13).q.w = 2 := by
  unfold Mach.leavesAtOnce Mach.issues; decide +kernel

theorem witness_MxCommandsClearCopyCompareAndRead :
    let zero := iw 1 0x20 [(39, 7)]
    let push := iw 1 0x24 [(39, 3)]
    let chk := iw 1 0x25 [(39, 2)]
    let zmap := iw 1 0x02 []
    let q : Tile := { cfg := { seg := 0xAAAAAAAA, e7q := true }, mxe := { e7cnt := 3 } }
    let full : Tile := { q with mxe := { e7cnt := 4 } }
    let good : Tile := { mxe := { shadow := [(2, Shadow.zero true)] } }
    let bad : Tile := { mxe := { shadow := [(2, Shadow.zero true)], acc := [(512, 0x3F800000)] } }
    let z : Job := { job zmap 13 with q := { (job zmap 13).q with ptr := place 4 2 0 } }
    (iEng (job zero 13).q.w = 1 ∧ ({} : Tile).badBlock (job zero 13) 7 false = false) ∧ (q.cfg.e7q = true ∧ fld push 41 39 < 4 ∧ q.mxe.e7cnt < 4) ∧
    (full.cfg.e7q = true ∧ full.mxe.e7cnt = 4 ∧ full.tfr.valid = false) ∧
    (({} : Tile).badBlock (job chk 13) 2 (bit chk 38) = false ∧ (SMap.get ({} : Shadow) ({} : Tile).mxe.shadow 2).valid = false) ∧
    ((SMap.get ({} : Shadow) good.mxe.shadow 2).valid = true ∧ good.mxe.abft good.cfg.num chk = none) ∧
    ((SMap.get ({} : Shadow) bad.mxe.shadow 2).valid = true ∧ (bad.mxe.abft bad.cfg.num chk).isSome = true) ∧
    (∀ t ∈ [q, full, good, bad], t.calm) ∧ good.tfr.valid = false ∧
    (iEng z.q.w = 1 ∧ iOp z.q.w = 0x02 ∧ 1 ≤ z.q.pads.latency 1 ∧ q.freeIn (z.l + 1) ∧ z.q.ptr.refusal q.cfg.seg (8 * z.q.ptr.loff) 8 false = none ∧ q.firstBad (z.q.ptr.base + 8 * z.q.ptr.loff) 8 = none) := by
  unfold Tile.calm Tile.freeIn; decide +kernel

theorem witness_EngineCommandsKeepToTheirPlaces : let t : Tile := { mem := [(4, 9)], acts := [{ cyc := 20, who := { port := 7 }, eff := .poke 100 [5] }] }
    t.now.mem.wf = true ∧ (∀ b ∈ [0, 399, 404], ∀ a ∈ t.acts, a.misses b) := ⟨by decide +kernel, by simp [Act.misses]⟩

/-- Places that do not overlap, of 2 lines each. -/
theorem witness_GtCpyCopiesItsLines :
    let w := iw 3 0x10 [(30, 1)]
    let t : Tile := { seqTile w with ptrs := [(12, place 10 2 0), (13, place 12 2 0)], mem := [(320, 5)] }
    let j := job w 13
    t.calm ∧ iEng j.q.w = 3 ∧ iOp j.q.w = 0x10 ∧ t.mem.wf = true ∧ (∀ y, j.l < y → t.freeIn y) ∧
    (∀ m, m < 2 → (t.own j 0).refusal t.cfg.seg (8 * ((t.own j 0).loff + m)) 8 false = none ∧ (t.own j 1).refusal t.cfg.seg (8 * ((t.own j 1).loff + m)) 8 true = none ∧
      t.firstBad ((t.own j 0).base + 8 * ((t.own j 0).loff + m)) 8 = none) ∧
    (t.own j 0).base + 8 * ((t.own j 0).loff + 2) ≤ (t.own j 1).base + 8 * ((t.own j 1).loff + 0) :=
by
  refine ⟨⟨rfl, rfl⟩, by decide +kernel, by decide +kernel, by decide +kernel, ?_, by decide +kernel⟩
  intro y _ a h
  exact nomatch h

/-- A tile with one hb. command of 2 lines, to or from a device address; stacks 0 and 1, hub SRAM and the host window hold data. -/
def hbState (ld : Bool) (dev : Nat) : State :=
  { mach { seqTile 0 with hb := [{ ld := ld, ptr := { place 10 20 0 with loff := 1 }, pc := 5, l := 9, dev := dev, n := 2, sig := some 2 }], mem := [(370, 5), (400, 6)] } with
    hbms := [(0, { present := true, trained := true, mem := [(100, 7)] }), (1, { present := true, trained := true })]
    ot := { ents := [(1, bits 128 [(127, 1), (125, 1), (116, 3)])] }
    hub := [(64, 3)], hmem := [(33, 8)] }
/-- Its command. -/
def hbOf (ld : Bool) (dev : Nat) : HbCmd := { ld := ld, ptr := { place 10 20 0 with loff := 1 }, pc := 5, l := 9, dev := dev, n := 2, sig := some 2 }

theorem witness_HbCommandsLoadMoveAndEnd :
    ((at1 (iw 7 0x01 [(40, 2), (31, 5)])).leavesAtOnce 0 7 0x01 (iw 7 0x01 [(40, 2), (31, 5)]) 12 ∧
      (at1 (iw 7 0x02 [(40, 3), (0, 77)])).leavesAtOnce 0 7 0x02 (iw 7 0x02 [(40, 3), (0, 77)]) 12 ∧ (at1 0).hbFree 0 ≠ []) ∧
    (∀ d ∈ [64, 0x2000_0000_0040, 0x8000_0000_0020], ∀ ld ∈ [true, false], let s := hbState ld d
      s.clk.aclkOn = true ∧ s.tileExists 0 = true ∧ s.hbCmd 0 0 = some (hbOf ld d) ∧ (hbOf ld d).donelines < (hbOf ld d).n ∧ s.devWaits ((hbOf ld d).addr 0) = false ∧
      (s.tile 0).segOn 88 = true ∧ (s.tile 0).calm ∧ (match s.mirror d with | .none => true | _ => false) = true ∧ ((s.tile 0).yieldRead 7 88 8 s.clk.aclk).1 = some ((s.tile 0).mem.words 88 8) ∧ (ld = true → (match s.devRead d 8 false false with | .ok _ => true | _ => false) = true) ∧
      (ld = false → (s.devWrite d ((s.tile 0).mem.words 88 8) false false).2 = none)) ∧
    (let s := hbState true 64
     (hbOf true 64).badLine = none ∧ s.hbWaits (hbOf true 64) = false ∧ (Mach.hbLines 0 (hbOf true 64) false 2 0 none s.toMach).2 = (none, none)) ∧
    (let s := hbState true 0x4000_0000_0000
     ((Mach.hbLines 0 (hbOf true 0x4000_0000_0000) false 2 0 none s.toMach).2.1).isSome = true ∧ (Mach.hbLines 0 (hbOf true 0x4000_0000_0000) false 2 0 none s.toMach).2.2 = none ∧
       bit (SMap.get 0 (s.die 0).hberr 0) 31 = false ∧ s.devWaits 0x4000_0000_0000 = false) := by
  unfold Tile.calm Mach.leavesAtOnce Mach.issues
  refine ⟨by decide +kernel, by decide +kernel, by decide +kernel, by decide +kernel⟩

/-- Tile 0 with w at its PC; global counter 1,023 at a value, and tile 0 waiting on it where asked. -/
def gscState (w : IWord) (v : Nat) (cfg : Word) : State := { at1 w with gscs := [(1023, { value := v })], regs := [(0x4_0000 + 16 * 1023, cfg)] }

theorem witness_GlobalCountersTakeTheirCommands :
    (∀ op ∈ [0x10, 0x11, 0x12], (gscState (iw 8 op [(32, 1023)]) 5 0).leavesAtOnce 0 8 op (iw 8 op [(32, 1023)]) 12 ∧ ((gscState (iw 8 op [(32, 1023)]) 5 0).tile 0).gwait = none) ∧
    (let s := gscState (iw 8 0x12 [(32, 1023)]) 0 0
     s.leavesAtOnce 0 8 0x12 (iw 8 0x12 [(32, 1023)]) 12 ∧ (s.gsc 1023).value = 0 ∧ bit (s.gscCfg 1023) 16 = false) ∧
    (let s : State := { mach { seqTile 0 with gwait := some (1023, some 3, 5) } with gscs := [(1023, { value := 1, waiters := [0] })] }
     (s.gsc 1023).value ≠ 0 ∧ (s.gsc 1023).next = some 0 ∧ (s.tile 0).gwait = some (1023, some 3, 5) ∧ ((s.tile 0).eng 8).waiting = []) ∧
    ((at1 0).mayWrite .host (0x4_0008 + 16 * 1023) ∧ (at1 0).mayWrite (.brim 3) (0x4_0008 + 16 * 1023) ∧ bit (4 : Word) 2 = true ∧ bit (2 : Word) 2 = false ∧ bit (2 : Word) 1 = true ∧
      bit (2 : Word) 0 = false ∧ bit (1 : Word) 1 = false ∧ bit (1 : Word) 0 = true) := by
  unfold Mach.leavesAtOnce Mach.issues Mach.mayWrite; decide +kernel

theorem witness_TilesReportToTheHub :
    (let w := iw 8 0x19 [(36, 15), (20, 0x1234)]
     (at1 w).leavesAtOnce 0 8 0x19 w 12 ∧ bit ((at1 w).reg (srcCfg 0x1CF)) 31 = false ∧ bit (Mach.reg { (at1 w).toMach with regs := en [0x1CF] } (srcCfg 0x1CF)) 31 = true) ∧
    (at1 (iw 8 0x38 [(18, 77)])).leavesAtOnce 0 8 0x38 (iw 8 0x38 [(18, 77)]) 12 ∧
    (∀ k ∈ [0, 1, 2], let w := iw 8 0x22 [(40, k)]
      let L := (at1 w).leaving 0 8 w 12 none
      (at1 w).leavesAtOnce 0 8 0x22 w 12 ∧ (at1 w).trw.snap = none ∧ bit ((at1 w).reg 0x7_0200) 31 = false ∧ (at1 w).trw.lastCommit ≠ some (L.1.stepAt L.2.l)) ∧
    (let w := iw 8 0x22 []
     let s : State := { at1 w with trw := { lastCommit := some 0 } }
     let L := s.leaving 0 8 w 12 none
     s.leavesAtOnce 0 8 0x22 w 12 ∧ s.trw.lastCommit = some (L.1.stepAt L.2.l)) ∧
    (at1 0).markTile = 0 ∧ (at1 0).itg.phase = .idle ∧
    (let w := iw 8 0x21 [(0, 0x3FFFF)]
     (at1 w).leavesAtOnce 0 8 0x21 w 12 ∧ ((at1 w).tile 0).allIdle = true ∧ (((at1 w).tile 0).eng 7).waiting = [] ∧ ((at1 w).tile 0).hb = [] ∧
       ((at1 w).tile 0).segOn 0x3FFFF = true ∧ ((at1 w).tile 0).mem.wf = true ∧ ((at1 w).tile 0).calm) ∧ ((at1 0).tile 0).gwait = none := by
  unfold Tile.calm Mach.leavesAtOnce Mach.issues; decide +kernel

/-- The loss watch on or off, with a sample at word 100. -/
def lossState (x : Nat) (on : Bool) (tr : Trw) : State :=
  { mach { seqTile (iw 8 0x20 [(0, 100)]) with mem := Mem.setWord [] 100 (BitVec.ofNat 32 x) } with regs := if on then [(0x7_0010, 0x80000303)] else [], trw := tr }
/-- A digest descriptor of 2 lines from line 0 of a place, at line 2. -/
def digState (r : List (Nat × Word)) (g : Digest) : State :=
  { mach { seqTile (iw 8 0x28 [(3, 2)]) with mem := Mem.setWords [] 16 [3, 0, 1, 5], tab := { handles := [(3, entry 20 4 0)] } } with regs := r, dig := g }

theorem witness_LossSamplesAndDigestsReachTheHub :
    (∀ r ∈ [(lossState 0x3F800000 false {}, (0x3F800000 : Word)), (lossState 0x3F800000 true {}, 0x3F800000), (lossState 0x7FC00000 true {}, 0x7FC00000),
        (lossState 0x3F800000 true { got := true, step := 5 }, 0x3F800000)],
      r.1.leavesAtOnce 0 8 0x20 (iw 8 0x20 [(0, 100)]) 12 ∧ (r.1.tile 0).gwait = none ∧ (let L := r.1.leaving 0 8 (iw 8 0x20 [(0, 100)]) 12 none; match (L.1.hubRead 100 1 L.2.l).1 with | .ok y => y == [r.2] | _ => false) = true) ∧
    ((lossState 0 false {}).lwOn = false ∧ (lossState 0 true {}).lwOn = true ∧ nonFinite 0 0x7FC00000 = true ∧ nonFinite 0 0x3F800000 = false ∧
      (5 : Word) + 1 ≠ ((lossState 0 true {}).tile 0).tm.step ∧ (5 : Word) ≠ ((lossState 0 true {}).tile 0).tm.step) ∧
    (∀ s ∈ [digState [] {}, digState [(0x6_8010, 0x80000005)] { busy := true, lines := 1 }, digState [(0x6_8010, 0x80000003)] { busy := true, lines := 1 }],
      s.leavesAtOnce 0 8 0x28 (iw 8 0x28 [(3, 2)]) 12 ∧ (s.tile 0).gwait = none ∧ (let L := s.leaving 0 8 (iw 8 0x28 [(3, 2)]) 12 none
          let r := L.1.hubRead 16 8 L.2.l
          let p := resolve L.1.tab.handles (L.1.pAt L.2.l) 3 false 0
          (match r.1 with | .ok d => d == [3, 0, 1, 5, 0, 0, 0, 0] | _ => false) = true ∧ digBad [3, 0, 1, 5, 0, 0, 0, 0] = false ∧
          (∀ m, m < 2 → p.refusal 0xAAAAAAAA (8 * (p.loff + m)) 8 false = none) ∧
          (match (r.2.settled.hubLines (p.base + 8 * p.loff) 2 L.2.l).1 with | .ok ls => ls.length == 2 | _ => false) = true)) ∧
    ((digState [] {}).digExpect = none ∧ (digState [(0x6_8010, 0x80000005)] {}).digExpect = some 5 ∧ (digState [(0x6_8010, 0x80000003)] {}).digExpect = some 3 ∧
      (digState [(0x6_8010, 0x80000005)] {}).cmpStepOk 0 = true ∧
      (let s := digState [(0x6_8010, 0x80000005)] { busy := true, lines := 1 }
       let L := s.leaving 0 8 (iw 8 0x28 [(3, 2)]) 12 none
       s.dig.closed = false ∧ s.dig.busy = true ∧ s.dig.step = L.1.stepAt L.2.l ∧ s.dig.lines + 2 < 5 ∧ s.dig.lines + 2 = 3)) ∧
    (let t : Tile := { seqTile 0 with acts := [{ cyc := 20, who := { port := 7 }, eff := .fetch 3 }] }
     ∀ m, m < 2 → t.segOn (16 + 8 * m) = true ∧ t.now.firstBad (16 + 8 * m) 8 = none) := by
  unfold Mach.leavesAtOnce Mach.issues; decide +kernel

/-- A descriptor of a move from hub SRAM to hub SRAM on mover 31, at line 2. -/
def moveDesc : List Word := [0x40, 0x2000, 0x80, 0x2000, 1, 31, 0, 0]
/-- A tile whose transfer of 2 lines runs on mover 31. -/
def moving (dst sigk : Nat) : State :=
  { at1 0 with hub := [(64, 3)], movers := [(31, { xfer := some { user := .tile 0 (some 3) 5, src := 0x2000_0000_0040, dst := dst, n := 2, sigk := sigk, gsc := 9 } })] }

theorem witness_MovesStartAndTransfersEnd :
    (let w := iw 8 0x18 [(3, 2)]
     let s := mach { seqTile w with mem := Mem.setWords [] 16 moveDesc }
     s.leavesAtOnce 0 8 0x18 w 12 ∧ (s.tile 0).gwait = none ∧ (let L := s.leaving 0 8 w 12 none
       (match (L.1.hubRead 16 8 s.clk.aclk).1 with | .ok d => d == moveDesc | _ => false) = true ∧ (match (L.1.hubRead 16 8 L.2.l).1 with | .ok d => d == moveDesc | _ => false) = true) ∧ s.moveOk moveDesc = true ∧ s.moverBusy 31 = false) ∧
    (let w := iw 8 0x30 [(30, 4095), (18, 1), (3, 40)]
     let q : Query := { qid := 4095, ring := 1, tag := 5, plen := 1, cap := 1, deadline := 99, paddr := 0, aaddr := 0x8000_0000_0040 }
     let s : State := { at1 w with hq := { linkUp := true, queries := [q] } }
     ((at1 w).leavesAtOnce 0 8 0x30 w 12 ∧ ((at1 w).hq.queries.find? fun q => q.qid == 4095) = none) ∧
     (s.leavesAtOnce 0 8 0x30 w 12 ∧ (s.hq.queries.find? fun q => q.qid == 4095) = some q ∧ s.hostUp = true ∧
       (let L := s.leaving 0 8 w 12 none
        (match (L.1.hubLines 320 1 L.2.l).1 with | .ok ls => ls.length == 1 | _ => false) = true) ∧
       ∀ i, i < 1 → s.devPlace (q.aaddr + 32 * i) = .host (0x40 + 32 * i) ∧ (match s.mirror (q.aaddr + 32 * i) with | .none => true | _ => false) = true)) ∧
    (∀ k ∈ [0, 1, 2], let s := moving 0x2000_0000_0080 k
      s.copyWaits 0x2000_0000_0040 0x2000_0000_0080 2 = false ∧ (s.mover 31).xfer.isSome = true ∧ (s.copyLines 0x2000_0000_0040 0x2000_0000_0080 false 2 0).2 = none) ∧
    ((moving 0x4000_0000_0080 1).copyLines 0x2000_0000_0040 0x4000_0000_0080 false 2 0).2 = some (1, 0x4000_0000_0080) := by
  unfold Mach.leavesAtOnce Mach.issues; decide +kernel

theorem witness_SendsInjectTheirLines :
    (∀ r ∈ [[(28, 40), (25, 2), (17, 2), (15, 1)], [(28, 1700), (25, 7), (17, 1), (14, 1), (11, 1)], [(41, 1), (28, 3), (25, 5), (15, 1)]], let w := iw 6 0x10 r
      let s := mach (exTile w)
      s.issues 0 6 0x10 w 12 ∧ (s.tile 0).sendTiming (s.extReady 0) w 13 = none ∧ (s.tile 0).calm ∧ ((s.tile 0).issued w 12).tfr.valid = false ∧
      (bit w 41 = false → s.tileExists (fld w 40 28) = true) ∧ (bit w 14 = true → fld w 13 11 * 256 + 8 * (fld w 24 17 + 1) ≤ if (s.tile 0).e7 (s.env 0) then 1024 else 2048)) ∧
    (let w := iw 6 0x10 [(28, 40), (25, 2), (17, 2), (15, 1)]
     let t := exTile w
     let p := t.ptr 6 1
     bit w 14 = false ∧ t.sched = [] ∧ t.calm ∧ ∀ m, m < 3 → p.refusal t.cfg.seg (8 * (p.loff + m)) 8 false = none ∧ t.firstBad (p.base + 8 * (p.loff + m)) 8 = none) ∧
    (∀ k, SMap.get (0 : Int) (at1 0).part.tpNative k = 0) ∧ (∀ k, SMap.get (0 : Word) (at1 0).part.tpPad k = 0) ∧ ∀ y, 13 < y → (exTile 0).freeIn y := by
  unfold Mach.issues Tile.calm
  refine ⟨by decide +kernel, by decide +kernel, fun _ => rfl, fun _ => rfl, ?_⟩
  intro y _ a h
  exact nomatch h


/-- A line of a compiled send to slot 2 of tile 0, arriving in cycle 30. -/
def xline (idx sender : Nat) (h : List Hop) : XLine := { dst := 0, sender := sender, slot := 2, idx := idx, mc := false, dest := 0, data := [1, 2, 3, 4, 5, 6, 7, 8], inj := 9, arr := 30, hops := h }
/-- Slot 2 of tile 0, armed for 2 lines of tile 7, the first received; a line in flight to it. -/
def receiving (x : XLine) : State :=
  { mach { exTile 0 with slots := [(2, { armed := true, armedAt := 3, ptr := { place 6 20 0 with loff := 1 }, n := 2, sender := 7, got := [0] })] } with flight := [x] }
/-- A hop over the link east of router (3, 2). -/
def hopOf (i cls : Nat) : Hop := { link := { gx := 3, y := 2, out := 1 }, cyc := 20, cls := cls, inp := i }

theorem witness_LinesPassLinksAndArrive :
    (∀ p ∈ [(1, 7), (0, 7), (1, 9), (255, 7)], let x := xline p.1 p.2 []
      let s := receiving x
      s.clk.aclkOn = true ∧ s.tileExists 0 = true ∧ s.lineTo 0 0 = some x ∧ s.loses x = false ∧ (s.tile 0).tsq.inJob = true ∧ (s.tile 0).faultedAt x.arr = false ∧
        (s.tile 0).tfr.valid = false) ∧
    (let s := receiving (xline 1 7 [])
     let sl := (s.tile 0).slots.get {} 2
     (s.tile 0).lineRefused (xline 1 7 []) sl = none ∧ sl.ptr.refusal (s.tile 0).cfg.seg (8 * (sl.ptr.loff + 1)) 8 true = none ∧ (s.tile 0).freeIn 30 ∧ (s.tile 0).calm) ∧
    (∀ p ∈ [(0, 7), (1, 9), (255, 7)], let s := receiving (xline p.1 p.2 [])
      ((s.tile 0).lineRefused (xline p.1 p.2 []) ((s.tile 0).slots.get {} 2)).isSome = true) ∧
    (let s : State := { mach (exTile 0) with flight := [xline 1 7 [hopOf 4 2], xline 0 9 [hopOf 0 0]] }
     let one := (s.wants { gx := 3, y := 2, out := 1 } 20).drop (s.linkCap { gx := 3, y := 2, out := 1 })
     let none' := (s.wants { gx := 255, y := 27, out := 7 } 20).drop (s.linkCap { gx := 255, y := 27, out := 7 })
     s.clk.aclkOn = true ∧ one ≠ [] ∧ none' = []) := by unfold Tile.calm Tile.freeIn; decide +kernel

/-- A send channel's entry: package, tile, queue, ring words, and whether the queue combines. -/
def sceOf (pkg tile q size comb : Nat) : BitVec 64 := bits 64 [(63, 1), (62, comb), (54, pkg), (41, tile), (37, q), (20, size)]
/-- A tile with two ring channels (of this package and towards package 6), a combining channel, a ring queue and a combining queue. -/
def chTile (w : IWord) : Tile :=
  { seqTile w with
    tab := { sce := [(0, sceOf 5 9 3 256 0), (2, sceOf 6 9 3 256 0), (31, sceOf 5 9 4 512 1)]
             rqe := [(0, bits 64 [(63, 1), (43, 32), (30, 5), (17, 9), (42, 1), (38, 6)]), (15, bits 64 [(63, 1), (62, 1), (43, 64), (34, 1), (12, 2), (42, 1), (38, 6)])] }
    ptrs := [(25, { place 6 20 0 with loff := 1 }), (26, { place 80 20 0 with loff := 1 })]
    scs := [(0, { credit := 16, tail := 240, seq := 0xFFFF }), (2, { credit := 100, seq := 4 }), (31, { seq := 7 })]
    rqs := [(0, { opn := true, recs := [{ off := 8, rlines := 3, pad := false, seq := 1, ch := 2 }, { off := 32, rlines := 1, pad := true, seq := 1, ch := 2 }], tail := 40 }),
            (15, { opn := true, rseq := 5 })] }
/-- Package 5, in epoch 3, with tile 0 in that state and tile 9 in the job, links up on ports 0 and 1; packages 1 to 7 are reached through them. -/
def pkg5 (t : Tile) : State :=
  { mach t with
    tiles := [(0, t), (9, { seqTile 0 with tsq := { inJob := true } })], regs := [(0xB_0000, 5), (0xB_0100, 0x43210)]
    itg := { epoch := 3 }, dil := { ports := [(0, { present := true, up := true, width := 2 }), (1, { present := true, up := true, width := 2 })] } }

theorem witness_RingRecordsAreSentAndReceived :
    (∀ r ∈ [(0, 0), (2, 2)], let w := iw 6 0x20 [(37, r.1), (35, 1), (24, r.2), (8, 0x7777)]
      let s := pkg5 (chTile w)
      let p := (s.tile 0).ptr 6 1
      s.chanGoes 0 0x20 w 12 ∧ (s.tile 0).calm ∧ s.chanBad 0 r.1 false = false ∧ ((s.tile 0).sc r.1).closed = false ∧
        ((s.tile 0).sc r.1).place 256 (8 * (r.2 + 2)) = 1 ∧
        ∀ m, m < r.2 + 1 → p.refusal (s.tile 0).cfg.seg (8 * (p.loff + m)) 8 false = none ∧ (s.tile 0).firstBad (p.base + 8 * (p.loff + m)) 8 = none) ∧
    (let s := pkg5 (chTile 0)
     fld ((s.tile 0).sce 0) 61 54 = s.pkgIdx ∧ fld ((s.tile 0).sce 2) 61 54 ≠ s.pkgIdx ∧ fld ((s.tile 0).sce 2) 61 54 ≠ 0xFF ∧ (s.portTo (fld ((s.tile 0).sce 2) 61 54)).isSome = true) ∧
    (∀ k ∈ [0, 1, 5], let w := iw 6 0x21 [(38, 0), (36, 2), (25, k)]
      let s := pkg5 (chTile w)
      let p := (s.tile 0).ptr 6 2
      let e := (s.tile 0).rqe 0
      s.chanGoes 0 0x21 w 12 ∧ (s.tile 0).calm ∧ rqComb e = false ∧ ((s.tile 0).rq 0).recs.length = 2 ∧
        (((s.tile 0).rq 0).recs.map fun r => (r.pad, r.rlines)) = [(false, 3), (true, 1)] ∧ (s.tile 0).mem.wf = true ∧ ((s.tile 0).issued w 12).tfr.valid = false ∧
        (∀ m, m ≤ k + 1 → p.refusal (s.tile 0).cfg.seg (8 * (p.loff + m)) 8 true = none) ∧
        (∀ m, m ≤ 2 → (s.tile 0).segOn (rqBase e + 8 + 8 * m) = true ∧ (s.tile 0).firstBad (rqBase e + 8 + 8 * m) 8 = none)) := by
  unfold Mach.chanGoes Mach.issues Tile.calm; decide +kernel

/-- A message of channel 0 of tile 0 with queue 3 of tile 9. -/
def msgOf (k : MsgKind) : Msg := { kind := k, spkg := 5, stile := 0, ch := 0, dpkg := 5, dtile := 9, dq := 3, seq := 4, words := 24, epoch := 3, pc := 77 }
/-- A contribution that waits for its acceptance. -/
def outOf (ref : Option Nat) : Contrib := { q := 4, elems := [5, 5, 5, 5, 5, 5, 5, 5], fmt := 0, pc := 6, sig := some 3, refusedAt := ref }
/-- Messages in flight and contributions of channel 0. -/
def mailing (m : List Msg) (o : List Contrib) : State := { pkg5 { chTile 0 with scs := [(0, { credit := 16, tail := 240, seq := 0xFFFF, out := o })] } with msgs := m }

theorem witness_QueuesCloseAndSendersHear :
    (∀ q ∈ [0, 7, 15], let w := iw 6 0x22 [(38, q)]
      (pkg5 (chTile w)).issues 0 6 0x22 w 12 ∧ iWaiten w = false ∧ (chTile w).xcRoom 12 = true) ∧
    (let s := pkg5 (chTile 0)
     ((s.tile 0).rq 0).opn = true ∧ rqComb ((s.tile 0).rqe 0) = false ∧ fld ((s.tile 0).rqe 0) 37 30 = s.pkgIdx ∧ ((s.tile 0).rq 7).opn = false) ∧
    (let s := mailing [] [outOf (some 3)]
     (((s.tile 0).sc 0).out.find? fun o => o.refusedAt.isSome) = some (outOf (some 3)) ∧ fld ((s.tile 0).sce 0) 61 54 = s.pkgIdx) ∧
    (let s := mailing [msgOf .accept] [outOf none]
     s.msgFor 0 0 (fun k => k == .accept) = some (msgOf .accept) ∧ (((s.tile 0).sc 0).out.find? fun o => o.q == 4) = some (outOf none)) ∧
    (let s := mailing [msgOf .credit] []
     s.msgFor 0 0 (fun k => k == .credit) = some (msgOf .credit) ∧ (msgOf .credit).spkg ≠ 0xFF ∧ (s.tile 0).mainChan = false) ∧
    (let s := mailing [msgOf .close] []
     let m := msgOf .close
     m ∈ s.msgs ∧ m.kind = .close ∧ m.stile = 0 ∧ m.spkg = s.pkgIdx ∧ m.dpkg = fld ((s.tile 0).sce 0) 61 54 ∧ m.dtile = fld ((s.tile 0).sce 0) 53 41 ∧
       m.dq = fld ((s.tile 0).sce 0) 40 37 ∧ ∀ y ∈ s.msgs, y.spkg ≠ 0xFF) ∧
    (let s := mailing [msgOf .drop] [outOf none]
     s.msgFor 0 0 (fun k => k == .drop) = some (msgOf .drop) ∧ (msgOf .drop).spkg ≠ 0xFF ∧ (s.tile 0).tfr.valid = false) := by
  unfold Mach.issues; decide +kernel

/-- A tile whose combining queue holds the complete slot of RSEQ; a read-out place in a format. -/
def combTile (f : Nat) (w : IWord) : Tile :=
  let t := chTile w
  { t with rqs := [(15, { opn := true, rseq := 5, slots := [(1, 5, 2, 2), (0, 6, 1, 1)] })], mem := Mem.setWords [] 690 [0x12345], ptrs := [(26, { place 110 20 f with loff := 1 })] }

theorem witness_ContributionsAreSentAndCombined :
    (let w := iw 6 0x24 [(37, 31), (35, 1), (24, 1), (51, 1), (47, 4)]
     let s := pkg5 (chTile w)
     let p := (s.tile 0).ptr 6 1
     s.chanGoes 0 0x24 w 12 ∧ (s.tile 0).calm ∧ s.chanBad 0 31 true = false ∧ ((s.tile 0).sc 31).closed = false ∧ p.fmt = 0 ∧
       fld ((s.tile 0).sce 31) 61 54 = s.pkgIdx ∧
       ∀ m, m < 2 → p.refusal (s.tile 0).cfg.seg (8 * (p.loff + m)) 8 false = none ∧ (s.tile 0).firstBad (p.base + 8 * (p.loff + m)) 8 = none) ∧
    (∀ f ∈ [0, 2], let w := iw 6 0x25 [(38, 15), (36, 2)]
      let s := pkg5 (combTile f w)
      let e := (s.tile 0).rqe 15
      let x := (s.tile 0).rq 15
      let p := (s.tile 0).ptr 6 2
      let k := rqLen e / (if p.fmt = 2 then 16 else 8)
      let a := slotBase e (x.rseq % rqSlots e)
      let dst := p.base + 8 * p.loff
      s.chanGoes 0 0x25 w 12 ∧ (s.tile 0).calm ∧ rqComb e = true ∧ (x.slots.any fun y => y.2.1 == x.rseq && y.2.2.1 == 2) = true ∧ p.fmt = f ∧
        (s.tile 0).mem.wf = true ∧ 0 < k ∧ (∀ m, m < k → p.refusal (s.tile 0).cfg.seg (8 * (p.loff + m)) 8 true = none) ∧
        (∀ i, i < 8 + 10 * rqLen e → (s.tile 0).segOn (a + i) = true) ∧ (s.tile 0).bad = [] ∧ a + 8 + 10 * rqLen e ≤ dst) := by
  unfold Mach.chanGoes Mach.issues Tile.calm; decide +kernel

/-- A record of n lines from the ring's sender to queue 0. -/
def recOf (n : Nat) : Msg :=
  { kind := .record, spkg := 5, stile := 9, ch := 1, dpkg := 5, dtile := 0, dq := 0, seq := 4, tag := 9, words := 8 * (n + 1), epoch := 3
    lines := (upTo n).map fun _ => [1, 2, 3, 4, 5, 6, 7, 8] }
/-- A contribution of 16 elements with a sequence number to queue 15. -/
def conOf (sq : Nat) : Msg :=
  { kind := .contrib, spkg := 5, stile := 9, ch := 3, dpkg := 5, dtile := 0, dq := 15, seq := sq, tag := 0, elems := (upTo 16).map fun _ => 0x3F800000, epoch := 3 }

theorem witness_RecordsAndContributionsArrive :
    (∀ p ∈ [(0, 0), (2, 0), (5, 15), (9, 15)], let m := if p.2 = 0 then recOf p.1 else conOf p.1
      let s : State := { pkg5 (chTile 0) with msgs := [m] }
      s.tileExists 0 = true ∧ s.unavail 0 = false ∧ (s.tile 0).tsq.inJob = true ∧ (s.tile 0).faultedAt s.clk.aclk = false ∧ ((s.tile 0).rq p.2).opn = true) ∧
    (∀ k ∈ [0, 2], let m := recOf k
      let s : State := { pkg5 (chTile 0) with msgs := [m] }
      let e := (s.tile 0).rqe 0
      s.recordFor 0 0 = some m ∧ m.kind = .record ∧ rqComb e = false ∧ m.stile = fld e 29 17 ∧ m.spkg = fld e 37 30 ∧ (s.tile 0).calm ∧ (s.tile 0).mem.wf = true ∧ (∀ l ∈ m.lines, l.length = 8) ∧
        ∀ i, i ≤ m.lines.length → (s.tile 0).segOn (rqBase e + 40 + 8 * i) = true) ∧
    (∀ k ∈ [5, 9], let m := conOf k
      let s : State := { pkg5 (chTile 0) with msgs := [m] }
      let e := (s.tile 0).rqe 15
      s.contribFor 0 15 0 = some m ∧ rqComb e = true ∧ m.elems.length = rqLen e ∧ (s.msgs.all fun y => match y.kind with | .refuse => false | .reject _ => false | _ => true) = true ∧ m.spkg = s.pkgIdx ∧ (s.tile 0).calm ∧ (s.tile 0).bad = [] ∧
        (∀ i, i < 8 + 10 * rqLen e → (s.tile 0).segOn (slotBase e (k % rqSlots e) + i) = true) ∧
        seqDist k ((s.tile 0).rq 15).rseq < 2 ^ 15) ∧
    (let e := (chTile 0).rqe 15
     seqDist 5 5 < rqSlots e ∧ rqSlots e ≤ seqDist 9 5 ∧ (((chTile 0).rq 15).slots.find? fun y => y.1 == 5 % rqSlots e) = none) := by
  unfold Tile.calm; decide +kernel

/-- The package, out of reset and with a host link, and no tile loaded. -/
def base : State := { mach (seqTile 0) with hq := { linkUp := true } }
/-- An object table entry: state, host or stack mask, base in a stack, lines and device base. -/
def ote (st host mask pbase dbase : Nat) : BitVec 128 := bits 128 [(127, min st 1), (125, st), (124, host), (116, mask), (90, pbase), (54, dbase)]
/-- An object table with an argument set, events of it enabled, and stacks 0 and 1. -/
def otState (a : BitVec 128) (o : ObjTab) : State :=
  { base with tiles := [], regs := en [3] ++ (upTo 4).map (fun w => (0xC_8010 + 4 * w, (a >>> (32 * w)).setWidth 32)), ot := o, hbms := [(0, { present := true }), (1, { present := true })] }

theorem witness_ObjectTableCommandsRun :
    (∀ i ∈ [0, 4095], let v : Word := BitVec.ofNat 32 (0x1000_0000 + i)
      let s := otState (ote 0 0 3 0 5) { ents := [(7, ote 1 0 3 7 8)] }
      let f := otState (ote 0 0 3 0 5) { ents := [(i, ote 1 0 3 7 8)] }
      s.mayWrite .host 0xC_8000 ∧ s.ot.busy = false ∧ fld v 31 28 = 1 ∧ oeState (s.ot.ents.get 0 (fld v 11 0)) = 0 ∧ oeValid (s.ot.ents.get 0 (fld v 11 0)) = false ∧
        oeDbase s.otArg + oeLen s.otArg ≤ 2 ^ 39 ∧ (s.ot.ents.all fun x => overlap (oeDbase s.otArg) (oeLen s.otArg) (oeDbase x.2) (oeLen x.2) == false) = true ∧
        s.placeErr s.otArg = none ∧ oeValid (f.ot.ents.get 0 (fld v 11 0)) = true ∧ f.mayWrite .host 0xC_8000 ∧ f.ot.busy = false) ∧
    (∀ i ∈ [0, 4095], let v : Word := BitVec.ofNat 32 (0x201F_0000 + i)
      let s := otState (ote 0 1 0 0 5) { ents := [(i, ote 1 0 1 0 8)] }
      let cur : BitVec 128 := s.ot.ents.get 0 (fld v 11 0)
      s.mayWrite (.brim 0) 0xC_8000 ∧ s.ot.busy = false ∧ fld v 31 28 = 2 ∧ oeState cur = 1 ∧ fld v 20 16 = 31 ∧ s.moverBusy 31 = false ∧
        s.placeErr (setFld (setFld s.otArg 89 72 (fld cur 89 72)) 71 54 (fld cur 71 54)) = none ∧ oeState ((otState 0 {}).ot.ents.get 0 (fld v 11 0)) ≠ 1) ∧
    (∀ i ∈ [0, 4095], let v : Word := BitVec.ofNat 32 (0x3000_0000 + i)
      fld v 31 28 = 3 ∧ oeState ((otState 0 { ents := [(i, ote 1 0 1 0 8)] }).ot.ents.get 0 (fld v 11 0)) = 1 ∧ oeState ((otState 0 {}).ot.ents.get 0 (fld v 11 0)) ≠ 1 ∧
        (otState 0 {}).mayWrite .bonnet 0xC_8000) ∧
    ((otState 0 { busy := true }).ot.busy = true ∧ (otState 0 { busy := true }).ot.moving = none ∧ bit ((otState 0 { busy := true }).reg (srcCfg 3)) 31 = true) ∧
    (let s := otState 0 { busy := true, ents := [(0x123, ote 2 0 1 0 8)], entry := 0x123, gran := 511, moving := some (3, ote 1 0 2 1 8) }
     let go := fun (x : Stack) => ({ s with hbms := [(0, { present := true, trained := true }), (1, x)] } : State)
     let r := fun (x : Stack) => ((go x).migrateSome (oeLen (ote 2 0 1 0 8) / 4096 - s.ot.gran)).ot
     (s.ot.moving = some (3, ote 1 0 2 1 8) ∧ oeLen (ote 1 0 2 1 8) / 4096 = 512) ∧
     ((r { present := true, trained := true }).moving = some (3, ote 1 0 2 1 8) ∧ (r { present := true, trained := true }).gran = 512) ∧
     ((r { present := true, trained := true, tstate := 3 }).moving = some (3, ote 1 0 2 1 8) ∧ (r { present := true, trained := true, tstate := 3 }).gran = 511) ∧
     (r { present := true, trained := true, failed := true }).moving = none) := by
  unfold Mach.mayWrite; decide +kernel

/-- Die 0, or die 3, in service, with a tile whose segments are in the states of v. -/
def segState (d : Nat) (v : Word) (busy : Bool) : State :=
  { base with
    tiles := [(1792 * d, { cfg := { seg := v }, mem := [(5, 1), (65536, 2)] })], part := { dies := [d], caps := 0xFF }
    dies := [(d, { rowmap := (upTo 56).map fun i => (i, 0x3F), segBusy := busy, scrubBusy := busy })] }

theorem witness_SegmentsChangeAndAreScrubbed :
    (∀ d ∈ [0, 3], let s := segState d 0x2A2 false
      (∀ n ∈ [0, 1791], s.mayWrite .host (0x100_4000 + 0x40_0000 * d + 4 * n) ∧ s.locked = false ∧ s.unavail (1792 * d + n) = false) ∧
        s.mayWrite (.brim 3) (0x100_3000 + 0x40_0000 * d) ∧ s.locked = false ∧ (s.die d).segBusy = false ∧ (s.die d).scrubBusy = false ∧ s.hq.job = .idle ∧
        ((segState d 0 true).die d).segBusy = true ∧ ((segState d 0 true).die d).scrubBusy = true) ∧
    (bit (0x18001 : Word) 16 = true ∧ bit (0x18001 : Word) 0 = true ∧ bit (0x18001 : Word) 15 = true ∧ fld ((segState 0 0x2A2 false).tile 0).cfg.seg 1 0 = 2 ∧
      fld ((segState 0 0x2A2 false).tile 0).cfg.seg 31 30 = 0 ∧ dieOf 0 = 0 ∧ dieOf 1791 = 0 ∧ dieOf 1792 ≠ 0 ∧ (segState 0 0x2A2 false).unavail 0 = false) ∧
    (fld (0xC000_0002 : Word) 1 0 ≠ 0 ∧ fld (0xC000_0002 : Word) 31 30 = 3 ∧ fld (0xC000_0002 : Word) 3 2 = 0) := by
  unfold Mach.mayWrite; decide +kernel

/-- A stack in a thermal state. -/
def stackState (n k : Nat) (trip : Bool) : State := { base with hbms := [(n, { present := true, tstate := k, trip := trip })] }

theorem witness_StacksSampleAndFail :
    (∀ n ∈ [0, 7], ∀ k ∈ [0, 1, 2, 3], ((stackState n k false).stack n).present = true ∧ ((stackState n k false).stack n).trip = false ∧ ((stackState n k true).stack n).trip = true ∧
      ((stackState n k true).stack n).failed = false ∧ (stackState n k false).tripped = false) ∧
    (∀ x ∈ [(1, 85), (2, 95), (3, 105)], x.2 < 110 ∧ ((stackState 7 x.1 false).stack 7).tstate = x.1) := by decide +kernel

/-- The package with its power management in a state. -/
def pwState (p : Pw) : State := { base with pw := p }

theorem witness_SamplesAndIntervalsMoveCeilings :
    (let s := pwState {}
     let top := fun t => maxOr 0 (((s.sampled t).filter fun x => x.1 != 4).map fun x => x.2)
     s.sampled [50, 0, 0, 0, 120] = [(0, 50), (1, 0), (2, 0), (3, 0), (4, 120)] ∧ top [102] < 103 ∧ 103 ≤ top [103] ∧ (∀ x ∈ s.sampled [109], x.2 < 110) ∧ (s.sampled [110]).any (fun x => 110 ≤ x.2 && !s.pw.trips.contains x.1) = true ∧
       s.tripped = false) ∧
    (∀ x ∈ [(100, 0), (92, 0), (99, 0), (91, 8), (91, 9)], let p : Pw := (pwState { hot := x.1, cool := x.2 }).pw
      100 ≤ p.hot ∨ (92 ≤ p.hot ∧ p.hot < 100) ∨ (p.hot < 92 ∧ p.cool < 9) ∨ (p.hot < 92 ∧ 9 ≤ p.cool)) ∧
    (∀ c ∈ [3, 4], let s := pwState { sum := 100000, cnt := 1, ccap := c }
      s.cap * max 1 s.pw.cnt < s.pw.sum ∧ (s.pw.ccap < 4 ∨ 4 ≤ s.pw.ccap)) ∧
    (∀ x ∈ [(8, 0), (9, 1), (9, 0)], let s := pwState { sum := 0, cnt := 1, low := x.1, lim := x.2 }
      s.pw.sum ≤ s.cap * max 1 s.pw.cnt ∧ 100 * s.pw.sum < 85 * s.cap * max 1 s.pw.cnt ∧ (s.pw.low < 9 ∨ (9 ≤ s.pw.low ∧ s.pw.lim ≠ 0) ∨ (9 ≤ s.pw.low ∧ s.pw.lim = 0))) ∧
    (let s := pwState { sum := base.cap, cnt := 1 }
     s.pw.sum ≤ s.cap * max 1 s.pw.cnt ∧ 85 * s.cap * max 1 s.pw.cnt ≤ 100 * s.pw.sum) := by decide +kernel

/-- ACLK at a code, with a highest code allowed and a change perhaps armed. -/
def aclkState (code cm : Nat) (p : Pw) (j : JobState) : State :=
  { base with pw := p, clk := { base.clk with code := code }, regs := (0x3_0004, BitVec.ofNat 32 cm) :: en [0x190, 0x198], hq := { linkUp := true, job := j } }

theorem witness_AclkChangesAreArmedAndSwitched :
    (∀ x ∈ [(0, 4), (3, 0)], let s := aclkState x.1 x.2 {} .idle
      s.clk.aclkOn = true ∧ s.pw.armed = none ∧ s.target ≠ s.clk.code ∧ (s.target < s.clk.code → s.mayRise = true)) ∧
    (let s := aclkState 3 0 { armed := some 2, point := some 10 } .running
     s.clk.aclkOn = true ∧ s.pw.armed = some 2 ∧ s.pw.st = 0 ∧ s.pw.point = some s.clk.aclk ∧ (aclkState 3 0 {} .idle).vpend = true ∧ bit (s.reg (srcCfg 0x190)) 31 = true ∧ bit (s.reg (srcCfg 0x198)) 31 = true) := by
  decide +kernel

/-- An idle package whose deepest state is a; its timer is far away. -/
def idleState (a : Nat) (p : Pw) (d3 : Bool) : State :=
  { base with regs := (0x3_0020, BitVec.ofNat 32 ((if d3 then 0xC000_0000 else 0x4000_0000) + a * 0x1_0000)) :: en [0x197], pw := p, hq := { linkUp := true, d3 := d3 } }

theorem witness_PackageStatesEnterAndWake :
    (∀ a ∈ [1, 2, 3, 4], let s := idleState a { timer := 10 ^ 15 } (a == 4)
      s.pkgIdle = true ∧ s.stateOk a = true ∧ (∀ k, k < 5 → a < k → s.stateOk k = false) ∧ a ≠ s.pw.st ∧ s.pw.st = 0) ∧
    (let s := idleState 4 { timer := 10 ^ 15, st := 3 } true
     s.pkgIdle = true ∧ s.stateOk 4 = true ∧ s.pw.st = 3) ∧
    (∀ st ∈ [1, 2, 3, 4], let s := idleState 4 { st := st } false
      s.pw.st ≠ 0 ∧ s.tripped = false ∧ s.part.dies ≠ []) ∧
    (let s : State := { base with hq := { linkUp := true, pci := { flit := true } } }
     s.hq.linkUp = true ∧ s.hq.pci.flit = true) ∧
    (let s := idleState 1 { timer := 777777 } false
     bit (s.reg 0x3_0020) 30 = true ∧ s.pw.fired = false ∧ s.pw.timer ≤ s.clk.tb.toNat ∧ bit (s.reg (srcCfg 0x197)) 31 = true) := by decide +kernel

theorem witness_ResetsRestartTheHub :
    base.hbx.copying = false ∧ base.mayWrite .host 0x3_0054 ∧ base.mayWrite (.brim 0) 0x3_0054 ∧ fld (0xFFFF5752 : Word) 15 0 = 0x5752 ∧
    ({ base with hbx := { copying := true } } : State).hbx.copying = true ∧
    (let s : State := { base with pw := { trips := [4], temps := [(0, 89)] }, hbms := [(7, { present := true, temp := 89 })] }
     s.tripped = true ∧ (∀ x ∈ s.pw.temps, x.2 < 90) ∧ ∀ x ∈ s.hbms, x.2.temp < 90) := by
  unfold Mach.mayWrite; decide +kernel

/-- One ring on, with 16 entries (command rings post to completion ring 3), its base in host memory. -/
def ringState (r : Nat) (x : Ring) : State :=
  { base with
    regs := [(ringCfg r, if r < 16 then 0x80030000 else 0x80000080), (0x1_0040 + 0x20 * r, 0x30000), (ringCfg 19, 0x80000080), (0x1_0040 + 0x20 * 19, 0x40000)] ++ en [0, 2, 5, 6, 0x1A5]
    lows := [(0x1_0040 + 0x20 * r, 0x30000), (0x1_0040 + 0x20 * 19, 0x40000)], hq := { linkUp := true, rings := [(r, x)] } }

theorem witness_DoorbellsFetchesAndPostsMoveRings :
    (∀ p ∈ [(0, 0x10_0000), (15, 0x10_F000)], let s := ringState p.1 { head := 3, tail := 9 }
      s.mayWrite .host p.2 ∧ s.doorbellOk p.1 2 true ∧ s.ringEn p.1 = true ∧ (s.ring p.1).stopped = false ∧ s.ringSize p.1 = 16 ∧ s.ringOcc p.1 = 6) ∧
    (∀ p ∈ [(16, 0x10_0004), (31, 0x10_F004), (36, 0x10_000C), (39, 0x10_300C), (40, 0x10_0010)], let s := ringState p.1 { head := 3, tail := 9 }
      s.mayWrite .host p.2 ∧ s.doorbellOk p.1 9 false ∧ s.ringEn p.1 = true ∧ (s.ring p.1).stopped = false ∧ s.ringOcc p.1 = 6 ∧ 10 < s.ringSize p.1) ∧
    (∀ p ∈ [(32, 0x10_0008), (35, 0x10_3008)], let s := ringState p.1 { head := 3, tail := 9 }
      s.mayWrite .host p.2 ∧ s.doorbellOk p.1 2 true ∧ s.ringEn p.1 = true ∧ (s.ring p.1).stopped = false ∧ s.ringSize p.1 ≤ (0x7FFFFFFF : Word).toNat) ∧
    (∀ r ∈ [0, 40], (ringState r {}).mayWrite .host (ringCfg r) ∧ bit (0x7FFFFFFF : Word) 31 = false) ∧
    (∀ r ∈ [0, 15], let s := ringState r { head := 15, tail := 9 }
      s.ringEn r = true ∧ (s.ring r).stopped = false ∧ (s.ring r).head ≠ (s.ring r).tail ∧ (s.ring r).fetched.length < 4 ∧ s.hostUp = true ∧ s.ringFull (s.cplRing r) = false) ∧
    (∀ p ∈ [0, 15], let s := ringState (16 + p) { head := 3, tail := 15, waiting := [[0x20, 2, 3, 4], [9]] }
      (s.ring (16 + p)).waiting = [0x20, 2, 3, 4] :: [[9]] ∧ s.ringTakes (16 + p) = true ∧ fld (0x20 : Word) 7 0 ≠ 0x1F) := by
  unfold Mach.mayWrite Mach.doorbellOk; decide +kernel

/-- A command's descriptor, by words; its CID is 0x7700. -/
def cmdDesc (op : Nat) (l : List (Nat × Nat)) : List Word := BitVec.ofNat 32 (0x7700_0000 + op) :: (upTo 15).map fun i => BitVec.ofNat 32 (SMap.get 0 l (i + 1))
/-- Ring r with one command fetched; the job is in a state, with one tile of it. -/
def cmdOn (r op : Nat) (l : List (Nat × Nat)) (j : JobState) : State :=
  let s := ringState r { head := 1, tail := 1, fetched := [cmdDesc op l] }
  { s with hq := { s.hq with job := j, jcOrder := [r] } }

theorem witness_SimpleHostCommandsComplete :
    (∀ r ∈ [0, 15], (cmdOn r 0x00 [] .idle).starts r 0x00 (cmdDesc 0x00 []) [] ∧ (cmdOn r 0x12 [] .running).starts r 0x12 (cmdDesc 0x12 []) [] ∧
      (cmdOn r 0x32 [(2, 2)] .ended).starts r 0x32 (cmdDesc 0x32 [(2, 2)]) []) ∧
    (∀ p ∈ [(0x77, 2, 0), (0x32, 2, 3), (0x32, 15, 1), (0x21, 2, 0x40)], let s := cmdOn 15 p.1 [(p.2.1, p.2.2)] .idle
      (15 < 16 ∧ (s.ring 15).fetched = [cmdDesc p.1 [(p.2.1, p.2.2)]] ∧ (s.ring 15).busy = false ∧ s.ringEn (s.cplRing 15) = true)) ∧
    opDefined (fld (dv (cmdDesc 0x77 [(2, 0)]) 0) 7 0) = false ∧
    (cmdOn 15 0x32 [] .idle).badField 0x32 (cmdDesc 0x32 [(2, 3)]) = some 2 ∧ (cmdOn 15 0x32 [] .idle).badField 0x32 (cmdDesc 0x32 [(15, 1)]) = some 15 ∧
    (cmdOn 15 0x21 [] .idle).trw.snap = none ∧ (cmdOn 15 0x21 [] .idle).badField 0x21 (cmdDesc 0x21 [(2, 0x40)]) = none ∧ (cmdOn 15 0x21 [] .idle).accepts 0x21 = false := by
  unfold Mach.starts; decide +kernel

theorem witness_JobsStartAndRestart :
    (∀ g, g < 16 → bit ((cmdOn 2 0 [] .idle).reg (sgt0 g)) 31 = false) ∧
    (let s := cmdOn 2 0x11 [] .loaded
     s.starts 2 0x11 (cmdDesc 0x11 []) [] ∧ s.segsBusy = false ∧ s.treeOff = none ∧ (s.tile 0).tsq.inJob = true ∧ (s.tile 9).tsq.inJob = false) ∧
    (let s := cmdOn 2 0x14 [] .paused
     s.starts 2 0x14 (cmdDesc 0x14 []) [] ∧ s.hq.job = .paused ∧ s.itg.rgWritten = false) ∧
    (let s : State := { cmdOn 2 0x14 [] .running with regs := (0x6_0010, 0x80000000) :: (cmdOn 2 0x14 [] .running).regs, itg := { epoch := 255, attempt := 2 } }
     s.starts 2 0x14 (cmdDesc 0x14 []) [] ∧ s.hq.job = .running ∧ s.itg.phase = .idle ∧ bit (s.reg 0x6_0010) 31 = true ∧ s.itg.attempt ≠ 3 ∧
       ∀ g, g < 16 → bit (s.reg (sgt0 g)) 31 = false) := by
  unfold Mach.starts; decide +kernel

theorem witness_JobsEnd :
    (cmdOn 15 0x13 [] .running).starts 15 0x13 (cmdDesc 0x13 []) [] ∧ (∀ k ∈ [0, 3], let s0 := cmdOn 0 0x15 [(2, 0xFFFF)] .ended
      let s : State := { s0 with hbms := [(0, { present := true, trained := true, tstate := k })], tiles := [(0, { seqTile 0 with hb := [hbOf true 64] })]
                                 ot := { ents := [(1, bits 128 [(127, 1), (125, 1), (116, 1)])] } }
      s.starts 0 0x15 (cmdDesc 0x15 [(2, 0xFFFF)]) [] ∧ s.drainJob.inFlight = decide (k = 3)) ∧
    (let s := cmdOn 2 0x11 [] .running
     let e : State := { s with tiles := [(0, { seqTile 0 with tsq := { (seqTile 0).tsq with halted := true } })], hq := { s.hq with starter := some { ring := 2, desc := cmdDesc 0x11 [], sqhead := 1 } } }
     e.jobHalted = true ∧ e.hq.starter = some { ring := 2, desc := cmdDesc 0x11 [], sqhead := 1 } ∧ e.ringEn (e.cplRing 2) = true) := by
  unfold Mach.starts; decide +kernel

/-- COPY of 2 lines on mover 31, SNAP, READREG of 3 registers and FITTING. -/
def copyWords : List (Nat × Nat) := [(2, 0x40), (3, 0x2000), (4, 0x80), (5, 0x2000), (6, 1), (7, 0x11F), (8, 7)]
def snapWords : List (Nat × Nat) := [(2, 0x40), (3, 0x2000)]
def readWords : List (Nat × Nat) := [(2, 0x2_1204), (3, 2), (4, 0x40), (5, 0x2000)]
def fitWords : List (Nat × Nat) := [(2, 0x40), (3, 0x2000), (4, 100), (5, 3)]

theorem witness_DataCommandsRun :
    (let s := cmdOn 15 0x20 copyWords .idle
     s.starts 15 0x20 (cmdDesc 0x20 copyWords) [] ∧ fld (dv (cmdDesc 0x20 copyWords) 7) 4 0 = 31 ∧ s.moverBusy 31 = false) ∧
    (let s : State := { cmdOn 15 0x21 snapWords .running with trw := { lastCommit := some 5 } }
     s.starts 15 0x21 (cmdDesc 0x21 snapWords) [] ∧ s.trw.snap = none ∧ s.trw.lastCommit = some 5 ∧
       (cmdOn 15 0x21 snapWords .running).starts 15 0x21 (cmdDesc 0x21 snapWords) [] ∧ (cmdOn 15 0x21 snapWords .running).trw.snap = none) ∧
    (let s := cmdOn 0 0x31 readWords .idle
     let d := cmdDesc 0x31 readWords
     let m0 : Mach := { s.toMach with hq := { s.hq with rings := SMap.upd {} s.hq.rings 0 fun y => { y with fetched := [], busy := true } } }
     let q := Mach.readRegs (fld (dv d 3) 11 0 + 1) (dw d 2) m0
     let p := Mach.putLines (cutLines (q.1.getD [] ++ [0, 0, 0, 0])) (descAddr d 4) q.2
     s.starts 0 0x31 d [] ∧ s.rangeWaits (descAddr d 4) (cdiv (fld (dv d 3) 11 0 + 5) 8) = false ∧ q.1.isSome = true ∧ p.2 = none ∧ p.1.hq.rings = m0.hq.rings ∧ p.1.regs = s.regs) ∧
    (let s := cmdOn 0 0x30 fitWords .idle
     let d := cmdDesc 0x30 fitWords
     s.starts 0 0x30 d [] ∧ s.pw.st < 3 ∧ s.rangeWaits (descAddr d 2) (cdiv (dw d 4) 32) = false ∧ (match s.readLines (cdiv (dw d 4) 32) (descAddr d 2) with | .ok _ => true | _ => false) = true) := by
  refine ⟨?_, ?_, ?_, ?_⟩
  all_goals unfold Mach.starts; decide +kernel

/-- A query descriptor of 2 payload lines with a deadline, its payload length as given. -/
def qDesc (plen dl : Nat) : List Word := [7, BitVec.ofNat 32 (plen + 3 * 2 ^ 16), BitVec.ofNat 32 dl, 0, 0x40, 0x2000, 0x40, 0x8000]
/-- Query ring 3 with that descriptor at its head. -/
def qRing (plen dl : Nat) : State :=
  let s := ringState 35 { head := 15, tail := 1 }
  { s with regs := (ringCfg 35, 0x80000000) :: (0x7_010C, 0x80000000) :: s.regs, hmem := Mem.setBytes [] (0x30000 + 32 * 15) (bytesOfWords (qDesc plen dl)) }
/-- A query in flight, of ring 3. -/
def qry (dl : Nat) : Query := { qid := 4095, ring := 3, tag := 5, plen := 2, cap := 4, deadline := dl, paddr := 0x2000_0000_0040, aaddr := 0x8000_0000_0040 }
/-- Snapshot to buffer 1 of two extents of hub SRAM, or of an address where nothing is. -/
def snapState (a : Nat) : State :=
  { base with
    hub := [(70, 4)], trw := { snap := some { step := 3, dst := 0x2000_0000_1000, buf := some 1, exts := [(0x2000_0000_0040, 2), (a, 1)], start := 5, mover := 31, cmd := none } }
    movers := [(31, { xfer := some { user := .snap none, src := 0, dst := 0, n := 3 } })] }
/-- Its snapshot. -/
def snapOf (a : Nat) : Snap := { step := 3, dst := 0x2000_0000_1000, buf := some 1, exts := [(0x2000_0000_0040, 2), (a, 1)], start := 5, mover := 31, cmd := none }

theorem witness_WindowsQueriesAndSnapshotsEnd :
    (∀ w ∈ [20, 40], let s : State := { base with regs := [(0x7_0080, BitVec.ofNat 32 (0x80000000 + w))], clk := { base.clk with tb := BitVec.ofNat 64 (3 * 2 ^ w + 5) } }
      s.winLog = some w ∧ s.trw.winIdx < s.clk.tb.toNat / 2 ^ w) ∧
    (∀ x ∈ [(2, 777778), (2, 777777), (0, 777778)], let s := qRing x.1 x.2
      let d := s.hostWords (s.ringBase 35 + 32 * (s.ring 35).head) 8
      s.ringEn 35 = true ∧ (s.ring 35).stopped = false ∧ (s.ring 35).head ≠ (s.ring 35).tail ∧ bit (s.qtgt 3) 31 = true ∧ s.ringFull 39 = false ∧ s.hostUp = true ∧
        ((upTo 4096).find? fun i => !(s.qidUsed i)) = some 0 ∧ d = qDesc x.1 x.2 ∧ (s.clk.tb.toNat < x.2 ∨ x.2 ≤ s.clk.tb.toNat) ∧ fld (dv d 1) 10 0 = x.1) ∧
    (let s : State := { base with hq := { linkUp := true, queries := [qry 777777] } }
     s.qHead 3 = some (qry 777777) ∧ 777777 ≤ s.clk.tb.toNat) ∧
    (∀ x ∈ [(0, 777777), (0, 777778), (4, 5)], let c : QCpl := { qid := some 7, tag := 5, lines := 2, status := x.1, deadline := x.2 }
      let s0 := ringState 39 { head := 1, tail := 15 }
      let s : State := { s0 with hq := { s0.hq with qcpl := [(3, [c])] } }
      SMap.get [] s.hq.qcpl 3 = [c] ∧ s.ringTakes 39 = true ∧ ((c.status = 0 ∧ c.deadline ≤ s.clk.tb.toNat) ∨ ¬ (c.status = 0 ∧ c.deadline ≤ s.clk.tb.toNat))) ∧
    (let s : State := { base with
       regs := [(0xB_0000, 5), (0x7_010C, 0x80030000)], tiles := [(0, { seqTile 0 with tab := { rqe := [(3, bits 64 [(63, 1)])] } })], hub := [(70, 4)]
       hq := { linkUp := true, queries := [qry 900000] }, qch := [(3, { credit := 250, tail := 0, seq := 0xFFFF })] }
     s.qNext = some (qry 900000) ∧ s.clk.tb.toNat < (qry 900000).deadline ∧ (s.qch.get {} 3).closed = false ∧ (s.qch.get {} 3).place (s.qSize 3) 32 = 1 ∧ (s.qPayload 0x2000_0000_0040 false 2 0).isSome = true) ∧
    (∀ a ∈ [0x2000_0000_0000, 0x4000_0000_0000], let s := snapState a
      let x := snapOf a
      s.trw.snap = some x ∧ ((s.mover x.mover).xfer.all fun y => y.user == .snap none) = true ∧ x.cmd = none ∧ x.torn = none ∧ s.snapWaits x = false ∧
        (∀ y ∈ s.tiles, (y.2.eng 8).waiting = []) ∧
        (Mach.snapCopy x.dst false x.srcs.length x.srcs 0 0 { s.toMach with free := s.free + 2 }).2.2.isSome = decide (a = 0x4000_0000_0000)) ∧
    (∀ f ∈ [none, some (4, 0x40)], let x : Snap := { snapOf 0x2000_0000_0000 with torn := some (7, f) }
      let s : State := { snapState 0x2000_0000_0000 with trw := { snap := some x } }
      s.trw.snap = some x ∧ ((s.mover x.mover).xfer.all fun y => y.user == .snap none) = true ∧ s.snapWaits x = false ∧ x.torn.isSome = true) := by decide +kernel

theorem witness_FunctionStatesChange :
    (let s : State := { base with hq := { linkUp := true, ideSecure := true } }
     s.hostQuiet ∧ s.hq.linkUp = true ∧ s.hq.ideSecure = true ∧ s.sec.done = true ∧
       s.hq.job = .idle ∧ s.itg.phase = .idle ∧ s.pw.st = 0) ∧
    (({ base with pw := { st := 4 } } : State).pw.st ≠ 0) ∧ ({ base with hq := { linkUp := true, pci := { ecrcChk := true } } } : State).hq.pci.ecrcChk = true ∧
    base.hq.pci.ecrcChk = false ∧
    (∀ r ∈ [0, 15], let s := ringState r { head := 15, tail := 9 }
      s.ringEn r = true ∧ (s.ring r).stopped = false ∧ (s.ring r).head ≠ (s.ring r).tail ∧ (s.ring r).fetched.length < 4 ∧ s.hostUp = true ∧ s.ringFull (s.cplRing r) = false) ∧
    (qRing 2 777778).queryFetches 3 = true := by
  unfold Mach.hostQuiet; decide +kernel

/-- BAR2's window over a device address; hub SRAM holds a word. -/
def bar2State (a : Nat) : State := { base with regs := (0x1_0004, BitVec.ofNat 32 (a / 2 ^ 30)) :: en [0], hub := [(70, 4)] }
/-- A tile's hb. load of 2 lines of host memory. -/
def winCmd : HbCmd := { ld := true, ptr := { base := 80 }, pc := 1, l := 3, dev := 0x8000_0000_0000, n := 2 }

theorem witness_HostReachesDeviceMemory :
    (∀ off ∈ [0, 0x44, 0xFFFFF], let s := bar2State 0x2000_0000_0000
      let a := fld (s.reg 0x1_0004) 17 0 * 2 ^ 30 + off / 4 * 4
      s.hq.linkUp = true ∧ s.hq.d3 = false ∧ off / 4 * 4 + 4 ≤ 2 ^ (30 + s.hq.pci.bar2Lg) ∧ s.rangeWaits (a / 32 * 32) 1 = false ∧ s.isHostAddr a = false ∧ (match s.devRead a 1 true false with | .ok w => w == [if off = 0x44 then 0x40000 else 0] | _ => false) = true ∧
        (Mach.devWrite { s.toMach with pw := { s.pw with l0p := 16 } } a [7] true false).2 = none ∧ s.devPlace a = .hub (off / 4 * 4) ∧ s.hub.wf = true) ∧
    (∀ off ∈ [0, 0xFFFFF], let s := bar2State 0x8000_0000_0000
      s.isHostAddr (fld (s.reg 0x1_0004) 17 0 * 2 ^ 30 + off / 4 * 4) = true ∧ s.rangeWaits (fld (s.reg 0x1_0004) 17 0 * 2 ^ 30 + off / 4 * 4 / 32 * 32) 1 = false) ∧
    (let s : State := { bar2State 0x2000_0000_0000 with hubBad := [0x40] }
     (match s.devRead 0x2000_0000_0044 1 true false with | .bad => true | _ => false) = true) ∧
    (let s := bar2State 0x4000_0000_0000
     (match s.devRead 0x4000_0000_0000 1 true false with | .err c => c != 4 | _ => false) = true ∧
       (Mach.devWrite { s.toMach with pw := { s.pw with l0p := 16 } } 0x4000_0000_0000 [7] true false).2.isSome = true) ∧
    (let s : State := { base with tiles := [(0, { seqTile 0 with hb := [winCmd] })], hmem := [(33, 6)] }
     s.hbCmd 0 0 = some winCmd ∧ s.isHostAddr (winCmd.addr winCmd.donelines) = true ∧ winCmd.donelines < winCmd.n ∧ (∀ x ∈ s.tiles, (x.2.eng 7).waiting = []) ∧
       (s.hbLine 0 winCmd winCmd.donelines false).2 = (none, false)) := by decide +kernel

theorem witness_ArrivalsCountAndPend :
    (∀ k ∈ [0, 511], bit (base.reg (srcCfg k)) 31 = false ∧ bit (Mach.reg { base.toMach with regs := en [k] } (srcCfg k)) 31 = true) ∧
    (∀ n ∈ [0, 1, 255], (SMap.get ({} : EvSrc) [(511, { count := n })] 511).count = n) := by decide +kernel

theorem witness_UnmappedOffsetsReadZeroAndDropWrites :
    (∀ off ∈ [0xFFFC, 0x1_FFF0, 0x50_0000, 0x140_0000, 0x300_0000], off % 4 = 0 ∧ base.regVal off = none ∧ base.wakesFor off = false) := by decide +kernel

/-- An event controller in a state: every group may go to the host ring and the Brim queues. -/
def evcState (f : Evc) (l : List (Nat × Word)) : State :=
  { base with regs := l ++ [(0x2_1000, 0x1F), (0x2_1004, 0x1E), (0x2_1014, 0x1E), (0x1_0040 + 0x20 * 40, 0x30000)] ++ en [5, 9, 0x1C0, 0x1DF, 511], lows := [(0x1_0040 + 0x20 * 40, 0x30000)], evc := f }

theorem witness_EventsAreClaimedAndTaken :
    (∀ x ∈ [(true, 0), (false, 1)], let s := evcState { srcs := [(5, { count := 3, pend := true, d0 := 7 }), (511, { count := 1, pend := true })], lastSrc := 5 } (if x.1 then [(ringCfg 40, 0x80000000)] else [])
      ((upTo 512).map fun i => (s.evc.lastSrc + 1 + i) % 512).find? (fun x => (SMap.get ({} : EvSrc) s.evc.srcs x).pend && (s.claimTarget (s.groupOfSrc x)).isSome) = some 511 ∧
        (s.claimTarget (s.groupOfSrc 511)) = some x.2 ∧ bit (s.reg (0x6_0110 + 4 * (511 / 32))) (511 % 32) = false) ∧
    (let s := evcState { hostQ := [[1, 2, 3, 4, 5, 6, 7, 8], [9]] } [(ringCfg 40, 0x80000000)]
     s.evc.hostQ = [1, 2, 3, 4, 5, 6, 7, 8] :: [[9]] ∧ s.ringTakes 40 = true) ∧
    (∀ c ∈ [0, 3], ∀ w ∈ [Writer.host, .brim c], (evcState { brimQ := [(3, [[1], [2]])] } []).mayWrite w (0x2_1180 + 4 * c)) ∧ bit (1 : Word) 0 = true ∧
    (∀ p ∈ [(0, 0), (0x1F, 0xFFFFFFFF)], let v : Word := BitVec.ofNat 32 p.2
      (evcState {} []).mayWrite .host 0x2_1200 ∧ fld v 5 0 % 32 = p.1) ∧
    (bit ((evcState {} []).reg (srcCfg (0x1C0 + fld (0 : Word) 5 0))) 31 = true ∧ bit ((evcState {} []).reg (srcCfg (0x1C0 + fld (0x1F : Word) 5 0))) 31 = true) ∧
    (∀ k ∈ [0, 511], (evcState {} []).mayWrite .host (srcCfg k)) ∧ bit (0x7FFFFFFF : Word) 31 = false := by
  unfold Mach.mayWrite; decide +kernel

/-- The aperture's tile is tile 0. -/
def regState : State := { base with regs := [(0x200_0000, 0), (0x1_0004, 0xABCDEF01)] ++ en [1, 2], evc := { spurn := 4 } }

theorem witness_RegisterAccessesAct :
    (∀ off ∈ [0x2_1208, 0x7_0028, 0x6_8020, 0x10B_0000], regState.shadow.find? (fun x => x.1 == off) = none) ∧
    (∀ p ∈ [(0x7_0028, 0x7_002C), (0x6_8020, 0x6_8024), (0x10B_0000, 0x10B_0004)],
      latchHi p.1 = some p.2 ∧ (regState.regVal p.1).isSome = true ∧ regState.wakesFor p.1 = false ∧ p.1 % 4 = 0) ∧
    (let s : State := { regState with hq := { linkUp := true, jcBusy := true } }
     0x1_0004 % 4 = 0 ∧ s.wakesFor 0x1_0004 = false ∧ (s.regVal 0x1_0004).isSome = true ∧ s.ownerOk (.brim 0) 0x1_0004 = false) ∧
    ((14 : Nat) ≠ 15 ∧ 0x1_0005 % 4 ≠ 0) ∧ regState.mayWrite .host 0x1_0004 ∧
    (∀ i ∈ [0, 0x3_FFFF], regState.mayWrite .host (0x210_0000 + 4 * i) ∧ regState.tdbValid = true ∧ regState.tdbTile = 0 ∧ (regState.tile 0).segOn i = true) ∧
    (regState.tile 0).settled = regState.tile 0 := by
  unfold Mach.mayWrite; decide +kernel

/-- A job in a state and a phase, ITG_REPLAY at c. -/
def replayState (j : JobState) (i : Itg) (c : Word) : State := { base with regs := (0x6_0010, c) :: en [0x1A1, 0x1A3], hq := { linkUp := true, job := j }, itg := i }

theorem witness_ReplayGoesThroughItsPhases :
    (∀ a ∈ [1, 2], let s := replayState .running { pendTrig := some 1, attempt := a } 0x80000000
      s.itg.pendTrig = some 1 ∧ s.hq.job = .running ∧ s.itg.phase = .idle ∧ bit (s.reg 0x6_0010) 31 = true ∧ s.itg.attempt ≠ 3) ∧
    (let s := replayState .running { pendTrig := some 0, attempt := 3 } 0
     s.itg.pendTrig = some 0 ∧ bit (s.reg 0x6_0010) 31 = false ∧ s.itg.attempt = 3) ∧
    (let s := replayState .running { phase := .quiesce } 0
     s.itg.phase = .quiesce ∧ s.quiet = true ∧ s.itg.rgWritten = false) ∧
    (let s := replayState .paused { phase := .barrier } 0x80010000
     s.itg.phase = .barrier ∧ s.barrierIn = true ∧ fld (s.reg 0x6_0010) 19 16 ≠ 0) := by decide +kernel

theorem witness_AlarmsAndHatboxRecords :
    base.mayWrite .host 0x6_0004 ∧ bit (1 : Word) 0 = true ∧ bit (base.reg 0x6_0000) 5 = false ∧ base.mayWrite (.brim 3) 0x6_01C0 ∧ 64 ≤ fld (64 : Word) 6 0 ∧ 64 ≤ fld (127 : Word) 6 0 ∧
    (let s : State := { base with hbx := { copying := true, fslot := 1, recs := [(0, [1])] } }
     s.hbx.copying = true ∧ s.pins.supStop = none ∧ s.pins.resetWait = false) := by
  unfold Mach.mayWrite; decide +kernel

/-- Replica comparison of two ranks of two packages each; the root is package pk. -/
def cmpState (pk : Nat) (l : List DigestAt) : State :=
  { base with regs := [(0xB_0000, 5), (0x6_8000, 0x80000003), (0x6_8008, 3), (0x6_8030, BitVec.ofNat 32 (0x80010002 + pk * 256))] ++ en [0x1A4], itg := { reports := l } }

theorem witness_ReplicaComparisonRecordsVerdicts :
    (let s := cmpState 5 [⟨0, 7, 0, 5, 0⟩, ⟨1, 7, 2, 10, 0⟩, ⟨0, 7, 1, 5, 0⟩, ⟨1, 7, 3, 0, 0⟩]
     let of := fun (k : Nat) => s.itg.reports.filter fun r => r.step == 7 && r.rank == k
     s.isRoot = true ∧ s.itg.reports ≠ [] ∧ 2 ≤ s.liveRanks.length ∧
       (∀ k ∈ s.liveRanks, fld (s.reg 0x6_8030) 7 0 ≤ (of k).length ∧ (of k).foldl (fun a r => a + r.dig) 0 = 10)) ∧
    (let s := cmpState 5 [⟨0, 7, 0, 5, 0⟩, ⟨0, 7, 1, 5, 0⟩]
     s.isRoot = true ∧ 2 ≤ s.liveRanks.length ∧ ∃ k ∈ s.liveRanks, ¬ fld (s.reg 0x6_8030) 7 0 ≤ (s.itg.reports.filter fun r => r.step == 7 && r.rank == k).length) ∧
    ((cmpState 9 []).cmpOn = true ∧ (cmpState 9 []).isRoot = false ∧ (Verdict.mk 0 7 0).v ≤ 4 ∧ (Verdict.mk 4 9 1).v ≤ 4 ∧ (Verdict.mk 4 9 1).v ≠ 0) := by decide +kernel

/-- A fitting in progress or not, of tile 4; tile 0 is in the job. -/
def fitState (i : Itg) : State :=
  { base with tiles := [(0, { tsq := { inJob := true } }), (4, { mem := [(1, 1)] })], hq := { linkUp := true, job := .running }, itg := i, fuseFences := [⟨0, 1, 2, 3, false⟩] }

theorem witness_FittingsAndD2DLanes :
    (let s := fitState {}
     s.hq.job ≠ .idle ∧ s.itg.fitBusy = false ∧ s.hq.jcBusy = false ∧ ∀ n ∈ [4, 7], s.tileExists n = true ∧ (s.tile n).tsq.inJob = false) ∧
    (let s := fitState { fitBusy := true, fitTiles := [4], fitSel := 31 }
     s.itg.fitBusy = true ∧ (s.tile 0).tsq.inJob = true ∧ (s.tile 4).tsq.inJob = false ∧
       ∀ g ∈ [0, 4], s.itg.fitSel.testBit g = true ∧ ∀ y ∈ s.fuseFences ++ s.flashFences, y.at { die := 1, half := 1, row := 2, col := 4, router := g == 4 } = false) ∧
    (∀ p ∈ [(0, 0), (3, 7)], let s : State := { fitState {} with dies := [(p.1, { lanes := [(p.2, [1, 2, 3])] })], part := { dies := [0, 1, 2, 3] } }
      s.d2dExists p.1 p.2 = true ∧ 67 ∉ SMap.get [] (s.die p.1).lanes p.2 ∧ 0 ∉ SMap.get [] (s.die p.1).lanes p.2 ∧ (SMap.get [] (s.die p.1).lanes p.2).length < 4) := by decide +kernel

/-- Port p up at x8 with nine lanes, lane 8 spare; package 5 in epoch 3. -/
def portState (p : Nat) (q : Port) : State :=
  { base with part := { dies := [0, 3], caps := 0xFF }, regs := [(0xB_0000, 5), (dilCtl p, 0x80000000)] ++ en [0x20, 0x21, 0x22], itg := { epoch := 3 }, dil := { ports := [(p, q)] } }
/-- Its port. -/
def upPort : Port := { present := true, up := true, width := 2, pos := (upTo 8).map fun i => (i, i), rxSeq := 511 }

/-- A flit with the CRC of its header and payload, and one with another. -/
theorem witness_PortsReceiveRetrainAndDegrade_crc :
    (∀ h : Word, ({ hdr := h, crc := crc64 h 0 } : Flit).crcOk = true) ∧ ∀ h : Word, ({ hdr := h, crc := crc64 h 0 + 1 } : Flit).crcOk = false := by
  simp [Flit.crcOk]

theorem witness_PortsReceiveRetrainAndDegrade :
    (∀ p ∈ [0, 11], let s := portState p upPort
      let q := s.port p
      q.up = true ∧ q.retrain = false ∧ s.msgs = [] ∧ q.present = true ∧ s.mayWrite .host (dilCtl p) ∧ bit (s.reg (dilCtl p)) 31 = true) ∧
    (let ok : Word := BitVec.ofNat 32 (2 ^ 30 + 0 * 2 ^ 20 + 3 * 2 ^ 11 + 2 ^ 8 + 9)
     let late : Word := BitVec.ofNat 32 (2 * 2 ^ 30 + 5 * 2 ^ 20)
     fld ok 31 30 ≠ 3 ∧ fld ok 28 20 = (upPort.rxSeq + 1) % 512 ∧ fld late 31 30 ≠ 3 ∧ ¬ fld late 28 20 = (upPort.rxSeq + 1) % 512) ∧
    (∀ n ∈ [true, false], let q : Port := { upPort with nak := n, refused := 15 }
     q.up = true ∧ q.retrain = false ∧ (n = true → ¬ fld (BitVec.ofNat 32 (5 * 2 ^ 20) : Word) 28 20 = (q.rxSeq + 1) % 512)) ∧
    (let s := portState 0 upPort
     let m : Msg := { kind := .record, spkg := 9, stile := 9, ch := 1, dpkg := 5, dtile := 0, dq := 3, seq := 4, words := 24, epoch := 3 }
     m.kind = .record ∧ m.dpkg = s.pkgIdx ∧ m.epoch = s.itg.epoch ∧ { m with epoch := 2 }.epoch ≠ s.itg.epoch) ∧
    (let q := (portState 11 { upPort with retrain := true }).port 11
     q.present = true ∧ q.up = true ∧ q.retrain = true) ∧
    (∀ x ∈ [([], 2, 8), ([8], 2, 7), ([4, 5, 6, 7, 8], 1, 4)], let q : Port := { upPort with failed := x.1, width := x.2.1, pos := (upTo (if x.2.1 = 1 then 4 else 8)).map fun i => (i, i) }
      let work := (upTo 9).filter fun i => !((insSorted 0 q.failed).contains i)
      q.present = true ∧ 0 ∉ q.failed ∧ (∃ y ∈ q.pos, y.1 = 0) ∧ work.length + q.failed.length = 8) ∧
    (let work := (upTo 9).filter fun i => !((insSorted 0 [4, 5, 6, 7, 8]).contains i)
     work.length < 4 ∧ (portState 0 upPort).slack = false) ∧
    bit (0x80000001 : Word) 31 = true ∧ bit (0x80000001 : Word) 0 = true ∧ bit (0x7FFFFFFF : Word) 31 = false := by
  unfold Mach.mayWrite; decide +kernel

/-- Tree g, its parent port 3 and child ports 1 and 2, in a state, with one member of its group arrived. -/
def treeState (g : Nat) (x : Tree) (h : HostIf) : State :=
  { base with
    regs := [(sgt0 g, 0x80300006), (sgt1 g, 0), (0x6_8000, 0), (ringCfg 2, 0x80030000), (ringCfg 19, 0x80000080), (cdc 0 (0x100_2000 + 4 * g), 1)] ++ en [0xB]
    dil := { ports := [(1, { present := true, up := true }), (2, { present := true, up := true }), (3, { present := true, up := true })], trees := [(g, x)] }
    hq := h }
/-- A message of it. -/
def treeMsg (g seq : Nat) : TreeMsg := { g := g, seq := seq, payload := 5, comb := 1 }

theorem witness_SyncTreesAndTheTimeTreeAct :
    (∀ g ∈ [0, 15], ∀ f ∈ [(false, false), (true, false), (true, true)], let s := treeState g { forming := f.1, formed := f.2, effpar := 3, answered := [1], waitset := [1] } { linkUp := true }
      bit (s.reg (sgt0 g)) 31 = true ∧ s.hq.starting = none ∧ s.itg.phase ≠ .barrier ∧ 2 ∈ bitsSet 12 (fld (s.reg (sgt0 g)) 11 0 ||| fld (s.reg (sgt1 g)) 11 0) ∧ (s.tree g).forming = f.1 ∧ (s.tree g).formed = f.2) ∧
    (let c : Cmd := { ring := 2, desc := [0x7700_0011], sqhead := 1 }
     let s := treeState 15 { effpar := 3 } { linkUp := true, starting := some c }
     s.treesFormed = false ∧ s.hq.starting = some c ∧ s.ringEn (s.cplRing 2) = true) ∧
    (∀ g ∈ [0, 15], let s := treeState g { formed := true, effpar := 3, waitset := [1, 2], seq := 7 } { linkUp := true, job := .running }
      (treeMsg g 7).ok = true ∧ (treeMsg g 7).bar = false ∧ s.treeHolds g = false ∧ 1 ∈ (s.tree g).waitset ∧ (treeMsg g 7).seq = (s.tree g).seq ∧ (s.tree g).arr = [] ∧ s.localMsg g = none ∧
        (treeMsg g 8).seq ≠ (s.tree g).seq ∧ (treeState g {} { linkUp := true }).treeHolds g = true) ∧
    (∀ g ∈ [0, 15], let s := treeState g { formed := true, effpar := 3, waitset := [1, 2], seq := 7, arr := [(1, treeMsg g 7), (2, treeMsg g 7)], sent := true } { linkUp := true }
      (treeMsg g 7).ok = true ∧ (treeMsg g 7).bar = false ∧ (s.tree g).formed = true ∧ (s.tree g).effpar = 3 ∧ (s.tree g).sent = true ∧ (s.group g).early = [] ∧ ∃ d ∈ s.part.dies, s.members d g ≠ 0) := by decide +kernel

theorem witness_SyncTreesAndTheTimeTreeAct_time :
    (∀ x ∈ [(0x80000003, 777778, 0, 1), (0x80000003, 777771, 0, 2), (0x80000003, 777772, 0, 3), (0xC0000003, 0, 0, 0)],
      let s : State := { base with regs := [(0xB_0400, BitVec.ofNat 32 x.1)], dil := { locked := x.2.2.2 == 3, ports := [(3, { present := true, up := true })] } }
      let off : Int := ((x.2.1 + x.2.2.1 / 2 : Nat) : Int) - (s.clk.tb.toNat : Int)
      bit (s.reg 0xB_0400) 31 = true ∧ (x.2.2.2 = 0 → bit (s.reg 0xB_0400) 30 = true) ∧ (x.2.2.2 ≠ 0 → bit (s.reg 0xB_0400) 30 = false ∧ fld (s.reg 0xB_0400) 3 0 = 3 ∧ (s.port 3).up = true) ∧
        (x.2.2.2 = 1 → 0 < off ∧ s.dil.locked = false) ∧ (x.2.2.2 = 2 → off < -5) ∧ (x.2.2.2 = 3 → -5 ≤ off ∧ off ≤ 0 ∧ s.dil.locked = true)) := by decide +kernel

/-- A signed object (R437): type, SVN, flags, signer, body length, and further fields of given offset and width. -/
def signedObj (ty svn fl signer k : Nat) (l : List (Nat × Nat × Nat)) : List Byte :=
  ([(0, 4, 0x55434858), (4, 2, ty), (6, 2, svn), (8, 4, k), (12, 4, fl), (64, 48, signer)] ++ l).foldl
    (fun (m : List Byte) (f : Nat × Nat × Nat) => m.take f.1 ++ bytesOfNat f.2.1 f.2.2 ++ m.drop (f.1 + f.2.1)) ((upTo (256 + k + 96 + 1740)).map fun _ => 0)

/-- The descriptor of a LOAD of n bytes at hub address 0x1000 (R386). -/
def loadDesc (n : Nat) : List Word := cmdDesc 0x10 [(2, 0x1000), (3, 0x2000), (4, n), (5, 0x80050005)]
/-- A LOAD of n bytes of hub SRAM fetched on ring 2, in lifecycle state MISSION with the boot done. -/
def loadState (n : Nat) : State :=
  let s := cmdOn 2 0x10 [(2, 0x1000), (3, 0x2000), (4, n), (5, 0x80050005)] .idle
  { s with sec := { stage := 11, done := true, lc := 1 }, hub := Mem.setBytes [] 0x1000 ((signedObj 6 1 0 0 8 []).take 16) }
/-- The placement of a binary of tiles 0 and 5 for the die type of the part. -/
def loadImg : Image := { decl := { tpid := 0x31 }, tiles := [{ num := 0, seg := 0xAAAA }, { num := 5 }] }

/-- The machine as the LOAD starts. -/
def loadMach (n : Nat) : Mach :=
  let s := loadState n
  { s.toMach with hq := { s.hq with rings := SMap.upd {} s.hq.rings 2 (fun y => { y with fetched := [], busy := true }), jcOrder := s.hq.jcOrder.drop 1 } }

theorem witness_LoadsTakeOrRefuse_starts : (loadState 2112).starts 2 0x10 (loadDesc 2112) [] ∧ (loadState 2112).pw.st < 3 ∧
    (loadState 2112).rangeWaits 0x2000_0000_1000 (cdiv 2112 32) = false := by
  unfold Mach.starts; decide +kernel

theorem witness_LoadsTakeOrRefuse_refused : (match (loadMach 2112).loadSig 0x2000_0000_1000 2112 { code := 1 } with | .error _ => true | _ => false) = true := by decide +kernel

theorem witness_LoadsTakeOrRefuse_loaded :
    (match (loadMach 2112).loadSig 0x2000_0000_1000 2112 loadImg with
     | .ok h => (let m : Mach := { Mach.countRead (cdiv 2112 32) 0x2000_0000_1000 (loadMach 2112) with sec := { (loadMach 2112).sec with meas := (loadMach 2112).sec.meas.put 5 h } }
                 match m.loadPlan (loadDesc 2112) loadImg with
                 | .ok p => (Mach.putMems p.2 (loadImg.puts.filter fun q => putFits p.1 q) ((m.applyRepair.loadTiles loadImg p.2 (loadImg.puts.filter fun q => putFits p.1 q)).writeRegs (loadDesc 2112) loadImg
                     (regPuts p.2 (loadImg.puts.filter fun q => putFits p.1 q)))).2.isNone && loadImg.writeErr.isNone
                 | _ => false)
     | _ => false) = true := by decide +kernel

/-- The boot at a stage; S2 and S5 have failed before. -/
def bootState (st : Nat) : State :=
  { base with
    sec := { stage := st, lcValid := true, lc := 1, roots := [(0, { valid := true })], jaon := [{ boot := 1, stage := 0, cause := 1, unit := 0 }, { boot := 1, stage := 5, cause := 1, unit := 0 }] } }

theorem witness_BootGoesThroughItsStages :
    (∀ st, st < 12 → let s := bootState st
      s.sec.done = false ∧ s.sec.parked = false ∧ (s.sec.stage = 0 → s.pins.testmode = false ∧ s.pins.pgood % 64 = 63) ∧ (s.sec.stage = 2 → s.sec.lc ≠ 3 ∧ s.bootSlot.isSome = true) ∧
        s.unitsFailing {} = [] ∧ ({} : StageReport).ok = true ∧
        s.sec.alt.testBit s.sec.stage = false) ∧
    ((bootState 0).sec.journal.any fun e => !e.clr && e.stage == 0) = true := by decide +kernel

/-- A request of mailbox slot c, with arguments by index; hub SRAM holds bytes at 0x100. -/
def mbState (c op : Nat) (args : List (Nat × Nat)) (o : List Byte) : State :=
  { base with
    sec := { stage := 11, done := true, lc := 1, lcValid := true, roots := [(0, { valid := true }), (4, { valid := true })], boxes := [(c, { req := some op, op := op })] }
    regs := args.map fun x => (0x9_0110 + 0x100 * c + 4 * x.1, BitVec.ofNat 32 x.2), hub := Mem.setBytes [] 0x100 o }
/-- The arguments that name n bytes at hub address 0x100. -/
def bufArgs (n : Nat) : List (Nat × Nat) := [(0, 0x100), (1, 0x2000), (2, n)]

theorem witness_MailboxOperationsAreServed :
    (∀ ty ∈ [1, 2, 3, 4, 6, 7], let s := mbState 1 1 (bufArgs 2156 ++ [(3, ty)]) (signedObj ty 3 0 0 64 [])
      s.serves 1 1 = true ∧ (s.mbBuffer 1).isSome = true ∧ (s.mbArg 1 3).toNat = ty) ∧
    (let s := mbState 1 2 [(0, 5)] []
     s.serves 1 2 = true ∧ s.noIdentity = false ∧ 3 ≤ s.sec.stage ∧ s.mbArg 1 13 = 0) ∧
    (∀ c ∈ [0, 1], (∀ k ∈ [1, 8], (mbState c 3 [(0, k)] []).serves c 3 = true ∧ ((mbState c 3 [(0, k)] []).mbArg c 0).toNat = k) ∧
      (∀ k ∈ [0, 1], (mbState c 4 [(0, k)] []).serves c 4 = true ∧ ((mbState c 4 [(0, k)] []).mbArg c 0).toNat = k ∧ (mbState c 4 [(0, k)] []).noIdentity = false) ∧
      (mbState c 5 [(0, 0xFFFFFFFF)] []).serves c 5 = true ∧ (mbState c 6 (bufArgs 2156) (signedObj 2 3 0 0 64 [])).serves c 6 = true ∧
      ((mbState c 6 (bufArgs 2156) (signedObj 2 3 0 0 64 [])).mbBuffer c).isSome = true ∧ (mbState c 9 [(0, 0x800)] []).serves c 9 = true ∧ bit ((mbState c 9 [(0, 0x800)] []).mbArg c 0) 11 = true) ∧
    (∀ k ∈ [0, 2], (mbState 0 7 [(0, k)] []).serves 0 7 = true ∧ (mbState 0 7 [(0, k)] []).sec.done = true ∧ ((mbState 0 7 [(0, k)] []).mbArg 0 0).toNat = k) ∧
    (let s := mbState 0 8 (bufArgs 2156) (signedObj 7 0 0 0 64 [(160, 1, 2)])
     s.serves 0 8 = true ∧ (s.mbBuffer 0).isSome = true ∧ s.hq.job = .idle) ∧
    (∀ k ∈ [0, 1], ∀ dir ∈ [0, 1], let s := mbState 1 10 [(0, k), (1, dir)] []
      s.serves 1 10 = true ∧ (s.mbArg 1 0).toNat = k ∧ (s.mbArg 1 1).toNat = dir ∧ s.noIdentity = false) := by decide +kernel

/-- The SPDM responder in a state. -/
def spdmState (x : Spdm) : State := { base with sec := { stage := 11, done := true, lc := 1, spdm := x } }

theorem witness_SpdmRequestsAreAnswered :
    (∀ p ∈ [(SpdmOp.getVersion, ({} : Spdm)), (.getCapabilities, { ver := true }), (.negotiateAlgorithms, { ver := true, cap := true }), (.getDigests, { ver := true, cap := true, alg := true }),
        (.getCertificate, { ver := true, cap := true, alg := true }), (.challenge, { ver := true, cap := true, alg := true }), (.getMeasurements, { ver := true, cap := true, alg := true }),
        (.keyExchange, { ver := true, cap := true, alg := true }), (.finish, { ver := true, cap := true, alg := true, session := 1 }), (.heartbeat, { ver := true, cap := true, alg := true, session := 2 }),
        (.keyUpdate, { ver := true, cap := true, alg := true, session := 2 }), (.endSession, { ver := true, cap := true, alg := true, session := 2 }),
        (.vendorDefined, { ver := true, cap := true, alg := true, session := 2 })],
      ∀ m ∈ [true, false], (spdmState p.2).spdmReach p.1 { mctp := m } = true ∧ (spdmState p.2).sec.spdm.inOrder p.1 = true ∧ ({ mctp := m } : SpdmReq).ok = true ∧
        ({ mctp := m } : SpdmReq).slot = 0) ∧
    ((spdmState {}).spdmReach .finish {} = true ∧ (spdmState {}).sec.spdm.inOrder .finish = false ∧ ({ base with sec := { stage := 2 } } : State).spdmReach .getVersion { mctp := true } = false) := by decide +kernel

theorem witness_BallsMoveTheirState :
    (∀ g ∈ [2, 5, 6, 17], let s : State := { base with pins := { pwrEn := 0x3FFFF } }
      (2 ≤ g ∧ g < 6) ∨ (6 ≤ g ∧ g < 18 ∧ s.pins.pwrEn.testBit g = true)) ∧
    (∀ g ∈ [1, 6, 18], ¬ ((2 ≤ g ∧ g < 6) ∨ (6 ≤ g ∧ g < 18 ∧ base.pins.pwrEn.testBit g = true))) ∧ base.sec.stage < 3 ∧ 0x49 ≠ 0x48 + base.pins.sbaddr ∧
    (∀ lc ∈ [0, 1, 2, 3], let s : State := { base with sec := { stage := 3, lcValid := true, lc := lc } }
      s.sec.lcValid = true ∧ (s.sec.lc ≠ 3 ∨ s.sec.lc = 1 ∨ s.sec.lc = 3) ∧ (s.sec.lc = 0 ∨ s.sec.lc = 2 ∨ s.sec.lc = 1 ∨ s.sec.lc = 3) ∧ 3 ≤ s.sec.stage ∧ 0x48 = 0x48 + s.pins.sbaddr) := by
  decide +kernel

/-- Fuses that hold SVN 3, a killed identity, two leaf blocks and a revoked root are kept by themselves, and a step has a next state. -/
theorem witness_StepsKeepOneTimeFuses :
    let b : Sec := { svn := [(1, 3)], kill := true, f := 2, roots := [(1, { revoked := true })] }
    Sec.fusesKept b ({ State.reset with sec := b, pending := [.fuseread 0] } : State).sec ∧
      ∃ t, step { State.reset with sec := b, pending := [.fuseread 0] } = .next t :=
  ⟨⟨fun _ => Nat.le_refl _, id, Nat.le_refl _, fun _ h => h⟩, ⟨_, rfl⟩⟩

end Sys2Proof.Tests
end

section
/-! The event controller's sources (R400): what an arrival does to its source, and what it leaves alone. -/

namespace Sys2Proof.Machine

theorem satTo_eq_min (lim x : Nat) : satTo lim x = min lim x := by
  unfold satTo
  split <;> omega

/-! ## One source -/

/-- A source after an arrival that counts, with the timebase and the data of the arrival. -/
def EvSrc.arrive (e : EvSrc) (tb : Nat) (d0 d1 : Word) : EvSrc :=
  if e.count = 0 then { e with count := 1, pend := true, stamp := tb, d0 := d0, d1 := d1 }
  else { e with count := satTo 255 (e.count + 1), pend := true }

/-- The first arrival since the last claim is the one that is recorded. -/
theorem EvSrc.arrive_of_count_eq_zero {e : EvSrc} (tb : Nat) (d0 d1 : Word) (h : e.count = 0) :
    e.arrive tb d0 d1 = { e with count := 1, pend := true, stamp := tb, d0 := d0, d1 := d1 } := if_pos h

/-- A later arrival leaves the record of the first. -/
theorem EvSrc.arrive_of_count_ne_zero {e : EvSrc} (tb : Nat) (d0 d1 : Word) (h : e.count ≠ 0) :
    e.arrive tb d0 d1 = { e with count := satTo 255 (e.count + 1), pend := true } := if_neg h

@[simp] theorem EvSrc.arrive_count (e : EvSrc) (tb : Nat) (d0 d1 : Word) : (e.arrive tb d0 d1).count = min 255 (e.count + 1) := by
  by_cases h : e.count = 0
  · simp [EvSrc.arrive_of_count_eq_zero tb d0 d1 h, h]
  · simp [EvSrc.arrive_of_count_ne_zero tb d0 d1 h, satTo_eq_min]

@[simp] theorem EvSrc.arrive_pend (e : EvSrc) (tb : Nat) (d0 d1 : Word) : (e.arrive tb d0 d1).pend = true := by
  by_cases h : e.count = 0
  · rw [EvSrc.arrive_of_count_eq_zero tb d0 d1 h]
  · rw [EvSrc.arrive_of_count_ne_zero tb d0 d1 h]

/-! ## The table of sources -/

theorem Mach.raise_of_disabled {s : Mach} {src : Nat} (d0 d1 : Word) (h : bit (s.reg (srcCfg src)) 31 = false) : s.raise src d0 d1 = s := by
  simp [Mach.raise, h]

theorem Mach.raise_of_enabled {s : Mach} {src : Nat} (d0 d1 : Word) (h : bit (s.reg (srcCfg src)) 31 = true) :
    s.raise src d0 d1 = { s with evc := { s.evc with srcs := s.evc.srcs.upd {} src fun e => e.arrive s.clk.tb.toNat d0 d1 } } := if_pos h

theorem Mach.raise_srcs_of_enabled {s : Mach} {src : Nat} (d0 d1 : Word) (h : bit (s.reg (srcCfg src)) 31 = true) :
    (s.raise src d0 d1).evc.srcs = s.evc.srcs.upd {} src fun e => e.arrive s.clk.tb.toNat d0 d1 := by
  rw [Mach.raise_of_enabled d0 d1 h]

/-- Settles O44: where EN = 1 the table changes at the source alone, by one arrival. -/
theorem arrivalsCountAndPend : Obligations.ArrivalsCountAndPend := by
  unfold Obligations.ArrivalsCountAndPend
  intro s src d0 d1
  refine ⟨Mach.raise_of_disabled d0 d1, fun hen => ?_⟩
  have hframe : s.raise src d0 d1 = { s with evc := { s.evc with srcs := (s.raise src d0 d1).evc.srcs } } := by
    rw [Mach.raise_srcs_of_enabled d0 d1 hen, Mach.raise_of_enabled d0 d1 hen]
  refine ⟨hframe, ?_⟩
  rw [Mach.raise_srcs_of_enabled d0 d1 hen, SMap.get_upd]
  refine ⟨EvSrc.arrive_count .., EvSrc.arrive_pend .., fun hfirst => ?first, fun hlater => ?later, fun k hk => SMap.get_upd_ne _ _ _ hk⟩
  case first =>
    rw [EvSrc.arrive_of_count_eq_zero _ d0 d1 hfirst]
    exact ⟨rfl, rfl, rfl⟩
  case later =>
    rw [EvSrc.arrive_of_count_ne_zero _ d0 d1 hlater]
    exact ⟨rfl, rfl, rfl⟩

end Sys2Proof.Machine
end

section
/-! Offsets that no block defines (R497): what a read returns there, and what becomes of a write. -/

namespace Sys2Proof.Machine

/-! ## Reads -/

/-- Every word of the tile memory aperture has a value, whatever its tile. -/
theorem Mach.regVal_isSome_of_aperture {s : Mach} {off : Nat} (hlo : 0x210_0000 ≤ off) (hhi : off < 0x220_0000) : (s.regVal off).isSome = true := by
  have hbelow : ∀ b, b ≤ 0x210_0000 → ¬ off < b := fun b hb => by omega
  simp [Mach.regVal, hbelow, hlo, hhi]

/-- A read aborts only within the tile memory aperture (R506), so never at an unmapped offset. -/
theorem Mach.aborts_of_unmapped {s : Mach} {off : Nat} (hun : s.regVal off = none) : s.aborts off = false := by
  by_cases hap : 0x210_0000 ≤ off ∧ off < 0x220_0000
  · have hsome := Mach.regVal_isSome_of_aperture (s := s) hap.1 hap.2
    simp [hun] at hsome
  · simp only [Mach.aborts, ← Bool.decide_and, hap, decide_false, Bool.false_and]

theorem Mach.readReg_of_unmapped {s : Mach} {off : Nat} (hun : s.regVal off = none) (hwake : s.wakesFor off = false) : s.readReg off = (some 0, s) := by
  simp [Mach.readReg, hwake, Mach.aborts_of_unmapped hun, hun]

theorem Mach.hostRead_of_unmapped {s : Mach} {off : Nat} (halign : off % 4 = 0) (hun : s.regVal off = none) (hwake : s.wakesFor off = false) :
    s.hostRead off = { s with rdata := some [0] } := by
  have hword : off / 4 * 4 = off := Nat.div_mul_cancel (Nat.dvd_of_mod_eq_zero halign)
  simp [Mach.hostRead, hword, Mach.readReg_of_unmapped hun hwake]

/-! ## Writes -/

theorem Mach.writeReg_of_unmapped {s : Mach} {off : Nat} (who : Writer) (v : Word) (halign : off % 4 = 0) (hun : s.regVal off = none) (hwake : s.wakesFor off = false) :
    s.writeReg who off v 15 = s.dropped off (writerCls who) v := by
  simp [Mach.writeReg, halign, hwake, hun]

/-- An arrival leaves its source pending, where the source is enabled. -/
theorem Mach.told_raise (s : Mach) (src : Nat) (d0 d1 : Word) : s.told (s.raise src d0 d1) src := by
  intro hen
  rw [Mach.raise_srcs_of_enabled d0 d1 hen, SMap.get_upd]
  exact EvSrc.arrive_pend ..

theorem Mach.told_dropped (s : Mach) (off cls : Nat) (v : Word) : s.told (s.dropped off cls v) 2 := Mach.told_raise s 2 _ v

/-- Settles O45: an unmapped offset lies outside the aperture, so a read cannot abort there and answers 0; a write goes to the dropped-write event alone. -/
theorem unmappedOffsetsReadZeroAndDropWrites : Obligations.UnmappedOffsetsReadZeroAndDropWrites := by
  unfold Obligations.UnmappedOffsetsReadZeroAndDropWrites
  intro s off halign hun hwake
  have hread := Mach.hostRead_of_unmapped halign hun hwake
  refine ⟨⟨_, rfl, hread⟩, ⟨_, rfl, hread⟩, fun who v => ⟨_, rfl, ?_⟩⟩
  have hwrite := Mach.writeReg_of_unmapped who v halign hun hwake
  change s.writeReg who off v 15 = { s.toMach with evc := (s.writeReg who off v 15).evc } ∧ s.told (s.writeReg who off v 15) 2
  rw [hwrite]
  exact ⟨Mach.dropped_frame s.toMach off (writerCls who) v, Mach.told_dropped s.toMach off (writerCls who) v⟩

end Sys2Proof.Machine
end
